-- ==== Sys2Proof/Word.lean ====
section
/-! DEFINITION. The words of the FB-418's link and records (spec 11, R193). -/

namespace Sys2Proof

/-- One byte of a frame, of the console or of a page. -/
abbrev Byte := BitVec 8

/-- A 16-bit word: boot numbers (R129), write sequence numbers (R111), the event mask (R37). -/
abbrev Half := BitVec 16

/-- A 32-bit word: an LBA of a node command (R72), the image's CRC (R186). -/
abbrev Word := BitVec 32

end Sys2Proof
end

