-- ==== Sys2Proof/Syntax.lean ====
section
/-! DEFINITION. The commands of the FB-418: one constructor for each row of spec/opcode_table.json. -/

namespace Sys2Proof

/-- The four nodes N0 to N3. -/
inductive NodeId where
  | n0 | n1 | n2 | n3
deriving DecidableEq, Repr

/-- One command of the block.

A REQUEST carries the TAG byte, the NODE byte and the PAYLOAD bytes of its frame (R167); its KIND is the
constructor. An EVENT carries the node it happens on and what the wires brought. -/
inductive Instr where
  -- part-wide requests
  | partStatus (tag node : Byte) (payload : List Byte)
  | partSave (tag node : Byte) (payload : List Byte)
  | saveWriteEnd
  | partRestart (tag node : Byte) (payload : List Byte)
  | poolSet (tag node : Byte) (payload : List Byte)
  | clockSet (tag node : Byte) (payload : List Byte)
  -- console requests
  | conLineSet (tag node : Byte) (payload : List Byte)
  | conWrite (tag node : Byte) (payload : List Byte)
  | conBreak (tag node : Byte) (payload : List Byte)
  | conRead (tag node : Byte) (payload : List Byte)
  | conMark (tag node : Byte) (payload : List Byte)
  | conEvents (tag node : Byte) (payload : List Byte)
  | conDeliverySet (tag node : Byte) (payload : List Byte)
  | conWatchSet (tag node : Byte) (payload : List Byte)
  | conTxFlush (tag node : Byte) (payload : List Byte)
  -- media requests
  | medAttach (tag node : Byte) (payload : List Byte)
  | medDetach (tag node : Byte) (payload : List Byte)
  | medFill (tag node : Byte) (payload : List Byte)
  | medFillFail (tag node : Byte) (payload : List Byte)
  | medStored (tag node : Byte) (payload : List Byte)
  | medExtentsSet (tag node : Byte) (payload : List Byte)
  | medRecover (tag node : Byte) (payload : List Byte)
  | medStatus (tag node : Byte) (payload : List Byte)
  | medTuningSet (tag node : Byte) (payload : List Byte)
  -- power and liveness requests
  | pwrAction (tag node : Byte) (payload : List Byte)
  | pwrAbort (tag node : Byte) (payload : List Byte)
  | pwrClear (tag node : Byte) (payload : List Byte)
  | pwrTimingSet (tag node : Byte) (payload : List Byte)
  | pwrStatus (tag node : Byte) (payload : List Byte)
  | livSet (tag node : Byte) (payload : List Byte)
  | livKick (tag node : Byte) (payload : List Byte)
  | livClear (tag node : Byte) (payload : List Byte)
  | unknownKindFrame (kind tag node : Byte) (payload : List Byte)
  -- link events
  | linkFrameReceived (byte : Byte)
  | linkGapTimeout
  | lrtsDeasserted
  | lrtsAsserted
  | arbiterGrant
  | frameSent
  -- resets and start-up
  | resetNAsserted
  | powerOn
  | startUp (straps : BitVec 2)
  -- console line events: the sampled data, parity and first stop bits of a character (R9)
  | characterReceived (n : NodeId) (data : Byte) (parityBit stopBit : Bool)
  | breakRx (n : NodeId)
  | rxBreakEnd (n : NodeId)
  | idleGapSignal (n : NodeId)
  | pacerDelayExpiry (n : NodeId)
  | autobaudWindowComplete (n : NodeId) (run : Nat)
  | lockIdleWaitEnd (n : NodeId)
  | txCharacterSent (n : NodeId)
  | txBreakEnd (n : NodeId)
  | txIdleTimeEnd (n : NodeId)
  -- the node's USB port
  | vbusPresent (n : NodeId)
  | vbusAbsent (n : NodeId)
  | usbBusReset (n : NodeId)
  | invalidCommand (n : NodeId)
  | ready (n : NodeId)
  | capacity (n : NodeId)
  | eject (n : NodeId)
  | sense (n : NodeId)
  | read (n : NodeId) (lba : Word) (count : Half)
  | write (n : NodeId) (lba : Word) (count : Half)
  | newEntryRequest (n : NodeId)
  | blockDelivery (n : NodeId)
  | writeBlockReceived (n : NodeId) (data : List Byte)
  | blockAccept (n : NodeId)
  | fetchTimeout (page : Nat)
  | storeTimeout (n : NodeId)
  -- power
  | pgSenseChange (n : NodeId) (high : Bool)
  | pgAccepted (n : NodeId)
  | settleExpiry (n : NodeId)
  | pressEnd (n : NodeId)
  | awaitUpExpiry (n : NodeId)
  | awaitDownExpiry (n : NodeId)
  | holdEnd (n : NodeId)
  | cutCheckExpiry (n : NodeId)
  | dwellExpiry (n : NodeId)
  | pulseEnd (n : NodeId)
  -- liveness
  | hbInputChange (n : NodeId) (high : Bool)
  | hbLevelAccepted (n : NodeId)
  | graceExpiry (n : NodeId)
  | timeoutExpiry (n : NodeId)
  | warnExpiry (n : NodeId)
  | stableDeadlineExpiry (n : NodeId)
  -- bytes on LRX and edges on CRXn
  | linkByteReceived (byte : Byte) (stopBit : Bool)
  | autobaudAcceptedEdge (n : NodeId) (falling : Bool) (run : Nat)
deriving DecidableEq, Repr

end Sys2Proof
end

