-- ==== Sys2Proof/Machine/Bytes.lean ====
section
/-! DEFINITION. Byte order (R193) and the two checks: the link's CRC-16 (R168) and the image's CRC-32 (R186). -/

namespace Sys2Proof.Machine

/-- The `k` low bytes of `v`, least significant byte first (R193). -/
def leBytes : Nat → Nat → List Byte
  | 0, _ => []
  | k + 1, v => BitVec.ofNat 8 v :: leBytes k (v / 256)

/-- The number a little-endian field spells (R193). -/
def leNat : List Byte → Nat
  | [] => 0
  | b :: bs => b.toNat + 256 * leNat bs

/-- `k` bit steps of the CRC-16 with polynomial 1021h, not reflected (R168). -/
def crc16Bits : Nat → BitVec 16 → BitVec 16
  | 0, c => c
  | k + 1, c => crc16Bits k (if c.msb then (c <<< 1) ^^^ 0x1021#16 else c <<< 1)

/-- The link's CRC over `bs`: initial value FFFFh, neither reflected nor inverted (R168). -/
def crc16 (bs : List Byte) : BitVec 16 :=
  bs.foldl (fun c b => crc16Bits 8 (c ^^^ BitVec.shiftLeft (b.setWidth 16) 8)) 0xFFFF#16

/-- `k` bit steps of the CRC-32 with polynomial 04C11DB7h, reflected (R186). -/
def crc32Bits : Nat → BitVec 32 → BitVec 32
  | 0, c => c
  | k + 1, c => crc32Bits k (if c.getLsbD 0 then (c >>> 1) ^^^ 0xEDB88320#32 else c >>> 1)

/-- The image's CRC over `bs`: reflected, initial value and final exclusive-or FFFFFFFFh (R186). -/
def crc32 (bs : List Byte) : BitVec 32 :=
  (bs.foldl (fun c b => crc32Bits 8 (c ^^^ b.setWidth 32)) 0xFFFFFFFF#32) ^^^ 0xFFFFFFFF#32

end Sys2Proof.Machine
end

