-- ==== Sys2Proof/Machine/Settings.lean ====
section
/-! DEFINITION. The stored settings (R185) as plain data, with the defaults of the owning chapters' tables,
and `PerNode`, four like things, one for each node. -/

namespace Sys2Proof.Machine

/-- One thing for each of the nodes N0 to N3. -/
structure PerNode (α : Type) where
  n0 : α
  n1 : α
  n2 : α
  n3 : α
deriving DecidableEq, Repr

/-- Console line rate: AUTO or a number of baud (spec 01, line settings). -/
inductive LineRate where
  | auto
  | baud (b : Nat)
deriving DecidableEq, Repr

/-- Parity of a console character (R8). -/
inductive Parity where
  | none | odd | even | mark | space
deriving DecidableEq, Repr

/-- Stop bits of a console character (R8). -/
inductive StopBits where
  | one | long
deriving DecidableEq, Repr

/-- The line settings of one node (spec 01, line settings; R3). -/
structure LineSettings where
  rate    : LineRate
  /-- word length W -/
  wordLen : Nat
  parity  : Parity
  stop    : StopBits
  rearm   : Bool
  /-- room high offset m -/
  roomHigh : Nat
  /-- room low level n -/
  roomLow  : Nat
deriving DecidableEq, Repr

/-- The delivery settings of one node (spec 02, Delivery; R37). -/
structure DeliverySettings where
  follow : Bool
  /-- count threshold N -/
  count  : Nat
  /-- delay T in ms -/
  delay  : Nat
  /-- idle gap G in character times -/
  gap    : Nat
  mask   : Half
deriving DecidableEq, Repr

/-- The power kinds a watch pattern may ask for (spec 03, patterns). -/
inductive WatchPower where
  | offSoft | cycle | reset | diag
deriving DecidableEq, Repr

/-- What a hit does besides being recorded (R55 to R58). -/
inductive WatchAction where
  | notice | mark | kick
  | power (kind : WatchPower)
  | detach
deriving DecidableEq, Repr

/-- A watch pattern record (R48). -/
structure Pattern where
  bytes  : List Byte
  fold   : Bool
  once   : Bool
  action : WatchAction
deriving DecidableEq, Repr

/-- Console quotas in pages (R61). -/
structure Quota where
  min : Nat
  max : Nat
deriving DecidableEq, Repr

/-- The eleven power timings in ms (R131). -/
structure Timings where
  debounce     : Nat
  settle       : Nat
  press        : Nat
  hold         : Nat
  resetPulse   : Nat
  diagPulse    : Nat
  startWait    : Nat
  softOffWait  : Nat
  hardOffCheck : Nat
  cutCheck     : Nat
  dwell        : Nat
deriving DecidableEq, Repr

/-- Soft-off escalation (R134). -/
inductive Escalation where
  | none | hard
deriving DecidableEq, Repr

/-- Cycle method (R137). -/
inductive CycleMethod where
  | soft | hard | cut
deriving DecidableEq, Repr

/-- Abort policy (R146). -/
inductive AbortPolicy where
  | immediate | phaseEnd
deriving DecidableEq, Repr

/-- The three power choices (R131). -/
structure Choices where
  escalation : Escalation
  method     : CycleMethod
  abort      : AbortPolicy
deriving DecidableEq, Repr

/-- Warning action of the Liveness Monitor (R157). -/
inductive WarningAction where
  | notice | noticeDiag
deriving DecidableEq, Repr

/-- Recovery action of the Liveness Monitor (R161). -/
inductive RecoveryAction where
  | none | reset | cycle
deriving DecidableEq, Repr

/-- The nine liveness settings; periods in seconds (R152). -/
structure LiveSettings where
  enable        : Bool
  timeout       : Nat
  warn          : Nat
  grace         : Nat
  stable        : Nat
  maxRecoveries : Nat
  warning       : WarningAction
  recovery      : RecoveryAction
  kicks         : Byte
deriving DecidableEq, Repr

/-- Media tuning (R122); timeouts in ms. -/
structure Tuning where
  readAhead    : Nat
  fetchTimeout : Nat
  storeTimeout : Nat
deriving DecidableEq, Repr

/-- Every stored setting of one node (R185). -/
structure NodeSettings where
  quota    : Quota
  line     : LineSettings
  delivery : DeliverySettings
  /-- the pattern places 0 to 7 -/
  watch    : List (Option Pattern)
  timings  : Timings
  choices  : Choices
  live     : LiveSettings
  tuning   : Tuning
deriving DecidableEq, Repr

/-- Every stored setting of the part (R185). -/
structure Settings where
  /-- declared reference frequency Fref in kHz -/
  fref  : Nat
  nodes : PerNode NodeSettings
deriving DecidableEq, Repr

/-- The defaults of the line settings table. -/
def LineSettings.default : LineSettings :=
  { rate := .baud 115200, wordLen := 8, parity := .none, stop := .one, rearm := true, roomHigh := 32, roomLow := 64 }

/-- The defaults of the delivery settings table. -/
def DeliverySettings.default : DeliverySettings :=
  { follow := false, count := 128, delay := 20, gap := 4, mask := 0 }

/-- The defaults of the power timings table. -/
def Timings.default : Timings :=
  { debounce := 20, settle := 500, press := 250, hold := 6000, resetPulse := 100, diagPulse := 100,
    startWait := 15000, softOffWait := 120000, hardOffCheck := 3000, cutCheck := 2000, dwell := 5000 }

/-- The defaults of the choices table. -/
def Choices.default : Choices := { escalation := .none, method := .hard, abort := .immediate }

/-- The defaults of the liveness settings table. -/
def LiveSettings.default : LiveSettings :=
  { enable := false, timeout := 120, warn := 30, grace := 600, stable := 3600, maxRecoveries := 3,
    warning := .notice, recovery := .reset, kicks := 0x08 }

/-- The defaults of the media tuning table. -/
def Tuning.default : Tuning := { readAhead := 8, fetchTimeout := 3000, storeTimeout := 10000 }

/-- The default settings of one node. -/
def NodeSettings.default : NodeSettings :=
  { quota := { min := 8, max := 64 }, line := .default, delivery := .default, watch := List.replicate 8 none,
    timings := .default, choices := .default, live := .default, tuning := .default }

/-- The default settings of the part, loaded whole (R190). -/
def Settings.default : Settings :=
  { fref := 25000, nodes := ⟨.default, .default, .default, .default⟩ }

end Sys2Proof.Machine
end

