-- ==== Sys2Proof/Config.lean ====
section
/-! DEFINITION. What one implementation fixes: the sizes the manual gives, and the one value it leaves open,
the byte layout of the settings image, which has no body here (notes/assumptions/9.md). -/

namespace Sys2Proof.Machine

/-- Pages of the buffer memory (R60). -/
def Config.pages : Nat := 1024

/-- Bytes of a page and of a block (R60, R72). -/
def Config.pageBytes : Nat := 512

/-- Items of a transmit queue (R19). -/
def Config.txItems : Nat := 256

/-- Entries of an event index (R32). -/
def Config.indexEntries : Nat := 64

/-- FILLING entries a node may hold (R100). -/
def Config.fillingCap : Nat := 32

/-- DIRTY and FLUSHING entries a node may hold together (R100). -/
def Config.dirtyCap : Nat := 64

/-- Places of a block list (R92). -/
def Config.listPlaces : Nat := 64

/-- Replies the reply queue holds (R176). -/
def Config.replyPlaces : Nat := 2

/-- Inbound buffers (R171). -/
def Config.inboundBuffers : Nat := 2

/-- Revision the part reports (R181). -/
def Config.revision : Byte := 1

/-- The bytes of the settings image that precede its CRC field, for given settings. "The byte layout of the
image is internal to the part and is not given in this manual" (R187): a free value, with no body. -/
opaque Config.imageBytes : Settings → List Byte

/-- How many bytes of the frame on LTX are sent, the one in progress finished, when LRTS is deasserted for the time of this
number, but for the bounds of R172. The commands carry no time on LTX: a free value, with no body (R172, notes/assumptions/26.md). -/
opaque Config.bytesSent : Nat → Nat

end Sys2Proof.Machine
end

