-- ==== Sys2Proof/Machine/State.lean ====
section
/-! DEFINITION. The state of the FB-418 as plain data, what can stop a step, and the state after reset.
Where the manual's state law holds by the shape of the data (a controller that is LOCKED holds no action, R142;
a field that is absent in a state, R99) the type says so. -/

namespace Sys2Proof.Machine

/-! ### Time Base (R2) -/

/-- The time since ticks began: REFCLK cycles, whole ticks, and cycles counted in the tick in progress (R2). -/
structure Clock where
  cycles     : Nat
  ticks      : Nat
  tickCycles : Nat
deriving DecidableEq, Repr

/-! ### Line Unit (spec 01) -/

/-- A hunting window: runs that have ended and the shortest of them (R14). -/
structure Window where
  runs     : Nat
  shortest : Nat
deriving DecidableEq, Repr

/-- The loss-of-lock check of R17: bytes and FRAMING marks since the lock. -/
structure LockCheck where
  bytes   : Nat
  framing : Nat
deriving DecidableEq, Repr

/-- Autobaud state (R3, R13, R16). -/
inductive Autobaud where
  | fixed
  | hunting (window : Option Window)
  | locked (rate : Nat) (lossCheck : Option LockCheck)
deriving DecidableEq, Repr

/-- What the receiver is doing between characters: idle; waiting for CRXn to read 1 after a framing error (R9);
in a break (R10); waiting after a lock until CRXn has read 1 for one character time, which ends at a REFCLK cycle
while CRXn reads 1 and has no end while it reads 0 (R16, notes/assumptions/36.md). -/
inductive Receiver where
  | idle | awaitHigh | inBreak
  | lockWait (ends : Option Nat)
deriving DecidableEq, Repr

/-- A character frame on CTXn (R8): its level in each half-bit, the bit period d and the cycle of its start edge. All three
are those of the settings in force when the byte was taken (R21). -/
structure TxFrame where
  halves : List Bool
  period : Nat
  start  : Nat
deriving DecidableEq, Repr

/-- What the transmitter is doing (R21, R24). `byte` and `gap` end at a REFCLK cycle, `brk` at a tick; a `gap`
without an end starts when the line locks; `floating` is CTXn high-impedance, with the remaining ticks of a
suspended break. -/
inductive Transmitter where
  | idle
  | byte (frame : TxFrame)
  | brk (ends : Nat)
  | gap (ends : Option Nat)
  | floating (suspended : Option Nat)
deriving DecidableEq, Repr

/-- One item of the transmit queue (R19, R20). -/
inductive TxItem where
  | byte (b : Byte)
  | brk (ms : Nat)
deriving DecidableEq, Repr

/-- The Line Unit of one node. -/
structure Line where
  autobaud    : Autobaud
  rx          : Receiver
  tx          : Transmitter
  queue       : List TxItem
  roomWanted  : Bool
  roomPending : Bool
  /-- the REFCLK cycle at which the idle-gap timer ends, while it runs (R12) -/
  idleGap     : Option Nat
deriving DecidableEq, Repr

/-! ### History Buffer (spec 02) -/

/-- Kinds of the event index (R32), in the order of their codes. An ACTION_END names the source of its action by its code, as
R58 and R165 say; the layout of an entry has no byte for it (notes/assumptions/35.md). -/
inductive EventKind where
  | breakRx | framing | parity | boot | pgUp | pgDown | cut | actionStart | actionEnd (source : Byte) | watchHit
  | markSet | markLost | autobaudLock | autobaudLost | breakTx
deriving DecidableEq, Repr

/-- One entry of the event index (R32). `unsent`: the entry is on the unsent event list (R45). -/
structure Event where
  offset : Nat
  kind   : EventKind
  detail : Half
  boot   : Half
  unsent : Bool
deriving DecidableEq, Repr

/-- Pacer state (R39); COLLECTING holds the tick at which its delay timer ends, when T is not 0. -/
inductive Pacer where
  | idle
  | collecting (delayEnds : Option Nat)
  | due
deriving DecidableEq, Repr

/-- The History Buffer of one node. -/
structure History where
  ring         : List Nat
  oldest       : Nat
  next         : Nat
  mark         : Option Nat
  index        : List Event
  lost         : Nat
  eventPending : Bool
  deliver      : Nat
  gapCount     : Nat
  pacer        : Pacer
  lineIdle     : Bool
deriving DecidableEq, Repr

/-! ### Watch Unit (spec 03) -/

/-- The working state of one pattern place (R48). -/
structure Place where
  progress : Nat
  hit      : Bool
deriving DecidableEq, Repr

/-! ### Media Function (spec 05) -/

/-- A status with which a node command ends (spec 05, statuses). -/
inductive NodeStatus where
  | good | notReady | mediumChanged | lbaRange | writeProtected | mediumError | timedOut | invalidRequest
deriving DecidableEq, Repr

/-- Slot states other than ABSENT (R76). -/
inductive SlotState where
  | ready | faulted | withdrawing
deriving DecidableEq, Repr

/-- Write policy of a medium. -/
inductive WritePolicy where
  | readOnly | acked | cached
deriving DecidableEq, Repr

/-- Presentation of a medium; ONCE holds the attach boot number (R77). -/
inductive Presentation where
  | persist
  | once (attachBoot : Half)
deriving DecidableEq, Repr

/-- A range of LBAs, from `first` to `first + count - 1`. -/
structure Range where
  first : Nat
  count : Nat
deriving DecidableEq, Repr

/-- The slot record of a slot that is not ABSENT. -/
structure Medium where
  state     : SlotState
  imageId   : Nat
  capacity  : Nat
  policy    : WritePolicy
  present   : Presentation
  removable : Bool
  changed   : Bool
  protect   : List Range
  zero      : List Range
deriving DecidableEq, Repr

/-- What a block of the block list does (R93): ready; waits on the FILLING entry of its LBA; wants a FILLING
entry. The blocks of a WRITE are all `ready`. -/
inductive BlockStatus where
  | ready | waiting | wanting
deriving DecidableEq, Repr

/-- One place of the block list (R92). -/
structure BlockPlace where
  lba    : Nat
  status : BlockStatus
deriving DecidableEq, Repr

/-- The current READ or WRITE (R92): `finished` blocks have left the list at its front; `unstored` is the count of
R120. The next block to join is `lba + finished + list.length`. -/
structure Command where
  write    : Bool
  lba      : Nat
  count    : Nat
  finished : Nat
  list     : List BlockPlace
  unstored : Nat
deriving DecidableEq, Repr

/-- Data a port hands the node's host: a block, the capacity and block size (R73), or the last status as one byte
(R74). -/
inductive PortData where
  | nothing
  | block (bytes : List Byte)
  | capacity (blocks size : Nat)
  | sense (code : Byte)
deriving DecidableEq, Repr

/-- The model's own latch of what the port last gave the host (notes/assumptions/21.md). -/
structure PortOut where
  status : Option NodeStatus
  data   : PortData
deriving DecidableEq, Repr

/-- The Media Function of one node; `slot = none` is ABSENT, in which the record holds only its state. -/
structure Media where
  vbus         : Bool
  slot         : Option Medium
  statePending : Bool
  current      : Option Command
  last         : NodeStatus
  continuation : Option Nat
  received     : Option (List Byte)
  out          : PortOut
deriving DecidableEq, Repr

/-! ### Media Cache (spec 06) -/

/-- The state of an entry with the fields present in it (R99). -/
inductive EntryState where
  | filling (deadline : Option Nat)
  | valid
  | dirty
  | flushing (seq : Half) (rewritten : Bool) (deadline : Nat)
deriving DecidableEq, Repr

/-- An entry of the Media Cache, identified by its page (R99). -/
structure Entry where
  page  : Nat
  node  : NodeId
  lba   : Nat
  state : EntryState
deriving DecidableEq, Repr

/-- The Media Cache's state of one node: lists of pages, and the write sequence counter. -/
structure NodeCache where
  fetches     : List Nat
  queue       : List Nat
  outstanding : List Nat
  seq         : Half
deriving DecidableEq, Repr

/-! ### Power Controller (spec 07) -/

/-- An accepted level that is settling after a part reset (R151, R155). -/
inductive Accepted where
  | settling | low | high
deriving DecidableEq, Repr

/-- Node condition (R128). -/
inductive Condition where
  | off | on | cut
deriving DecidableEq, Repr

/-- Power actions. -/
inductive ActionKind where
  | on | offSoft | offHard | cut | cycle | reset | diag
deriving DecidableEq, Repr

/-- Source of an action; the request tag is present for LINK alone. -/
inductive Source where
  | link (tag : Byte)
  | liveness
  | watch
deriving DecidableEq, Repr

/-- Phases of an action (spec 07, phase table). -/
inductive Phase where
  | none | settle | press | awaitUp | awaitDown | hold | cutCheck | dwell | pulse
deriving DecidableEq, Repr

/-- Result of an action that has ended. -/
inductive ActionResult where
  | done | failed | aborted | refused | discarded
deriving DecidableEq, Repr

/-- Why a controller is LOCKED. -/
inductive LockCause where
  | startTimeout | holdIneffective | cutIneffective | resetDroppedPower
deriving DecidableEq, Repr

/-- The current action: `ends` is the tick at which its phase expires; `method` is the cycle method a CYCLE read
when it started (R137); `onPart` says that it runs its ON sequence (R133, R138). -/
structure Action where
  kind      : ActionKind
  source    : Source
  phase     : Phase
  ends      : Nat
  escalated : Bool
  method    : CycleMethod
  onPart    : Bool
deriving DecidableEq, Repr

/-- The queued action (R143). -/
structure Queued where
  kind   : ActionKind
  source : Source
deriving DecidableEq, Repr

/-- The final record of an ended action (R149). -/
structure FinalRecord where
  kind      : ActionKind
  source    : Source
  result    : ActionResult
  cause     : Option LockCause
  escalated : Bool
deriving DecidableEq, Repr

/-- Controller state: IDLE, ACTING with a current and perhaps a queued action, or LOCKED (R132, R142, R146). -/
inductive Controller where
  | idle
  | acting (current : Action) (queued : Option Queued) (aborting : Bool)
  | locked (cause : LockCause)
deriving DecidableEq, Repr

/-- The Power Controller of one node; the four lines are `true` while asserted. -/
structure Power where
  sense        : Bool
  pg           : Accepted
  /-- the tick at which the debounce interval ends, while it runs (R127) -/
  debounce     : Option Nat
  btnPwr       : Bool
  btnRst       : Bool
  diag         : Bool
  feedCut      : Bool
  ctrl         : Controller
  boot         : Half
  ended        : List FinalRecord
  endedLost    : Nat
  statePending : Bool
deriving DecidableEq, Repr

/-! ### Liveness Monitor (spec 08) -/

/-- Why the monitor is EXHAUSTED. -/
inductive ExhaustCause where
  | maxReached | noRecovery | controllerLocked | recoveryFailed
deriving DecidableEq, Repr

/-- Monitor state with its running period's deadline, the stable deadline and the exhaust cause where present. -/
inductive Monitor where
  | disabled
  | dormant
  | grace (ends : Nat)
  | watching (timeoutEnds : Nat) (stableEnds : Option Nat)
  | warned (ends : Nat)
  | recovering
  | exhausted (cause : ExhaustCause)
deriving DecidableEq, Repr

/-- The Liveness Monitor of one node. -/
structure Live where
  monitor      : Monitor
  recoveries   : Nat
  outstanding  : Bool
  warnings     : Nat
  deferrals    : Nat
  statePending : Bool
  hbPin        : Bool
  hb           : Accepted
  /-- the tick at which the 1 ms filter accepts the pin's level, while it runs (R155) -/
  hbFilter     : Option Nat
deriving DecidableEq, Repr

/-- Everything of one node that is not a stored setting. -/
structure Node where
  line  : Line
  hist  : History
  watch : List Place
  media : Media
  cache : NodeCache
  power : Power
  live  : Live
deriving DecidableEq, Repr

/-! ### Management Link (spec 09) -/

/-- A frame (R167) without START, LEN and CRC, which follow from it. -/
structure Frame where
  kind    : Byte
  tag     : Byte
  node    : Byte
  payload : List Byte
deriving DecidableEq, Repr

/-- A frame being assembled: the bytes after START, in order, and the tick at which the gap limit passes (R170). -/
structure Assembly where
  bytes   : List Byte
  gapEnds : Nat
deriving DecidableEq, Repr

/-- The frame on the outgoing line; `sent` of its bytes are sent once the byte in progress as LRTS last fell is finished, 0 where
LRTS has not fallen since the grant (R172). -/
structure Sending where
  frame   : Frame
  isReply : Bool
  sent    : Nat
deriving DecidableEq, Repr

/-- Notice kinds of class 2 that belong to a node, in their cyclic order (R179). -/
inductive StateNotice where
  | pwr | liv | med | evt | room
deriving DecidableEq, Repr

/-- Classes 3, 4 and 5: MED_FETCH, CON_DATA, MED_WRITE_OUT (R180). -/
inductive Bulk where
  | fetch | data | writeOut
deriving DecidableEq, Repr

/-- The Management Link. `restart` is restart taken with the defaults flag (R183); `saveReply` is the save reply
waiting for a place (R176). -/
structure Link where
  lrts         : Bool
  up           : Bool
  assembling   : Option Assembly
  complete     : List Frame
  discarded    : Bool
  replies      : List Frame
  saveReply    : Option Frame
  restart      : Option Bool
  sending      : Option Sending
  readyPending : Bool
  lastState    : NodeId
  lastKind     : PerNode StateNotice
  lastFetch    : NodeId
  lastData     : NodeId
  lastWriteOut : NodeId
  rotation     : Bulk
deriving DecidableEq, Repr

/-- Link rates of the LRATE straps (R184). -/
inductive LinkRate where
  | baud921600 | baud3000000 | baud6000000 | baud12000000
deriving DecidableEq, Repr

/-! ### Settings Store (spec 10) -/

/-- The nonvolatile image: `bad` where no whole write stands in it (R186, R189), or the settings written with the
CRC-32 written after them. -/
inductive Image where
  | bad
  | written (settings : Settings) (crc : Word)
deriving DecidableEq, Repr

/-- A write in progress: its snapshot and the tag and NODE byte of its PART_SAVE (R187). -/
structure SaveJob where
  snapshot : Settings
  tag      : Byte
  node     : Byte
deriving DecidableEq, Repr

/-- Settings source (R190). -/
inductive SettingsSource where
  | stored | defaults
deriving DecidableEq, Repr

/-- The Settings Store; save state WRITING is a job present. -/
structure Store where
  image  : Image
  save   : Option SaveJob
  source : SettingsSource
deriving DecidableEq, Repr

/-- Reset cause (R192). -/
inductive ResetCause where
  | powerOn | pin | restart
deriving DecidableEq, Repr

/-! ### The part -/

/-- The buffer memory: cells strictly rising in address, none equal to what an unlisted address reads as
(`Memory.wf`, Machine/Memory.lean). Page p holds addresses 512 p to 512 p + 511. -/
abbrev Memory := List Host.Cell

/-- The state of the FB-418, the queue of waiting commands, and the count of the times LRTS has been deasserted, which numbers
the free values `Config.bytesSent` (notes/assumptions/26.md). -/
structure State where
  held            : Bool
  resetCause      : ResetCause
  restartDefaults : Bool
  linkRate        : LinkRate
  clock           : Clock
  cfg             : Settings
  nodes           : PerNode Node
  free            : List Nat
  entries         : List Entry
  lru             : List Nat
  mem             : Memory
  link            : Link
  store           : Store
  pauses          : Nat
  pending         : List Instr
deriving DecidableEq, Repr

/-- The block has no fault: the manual describes nothing that stops the part. -/
inductive Fault where
deriving DecidableEq, Repr

/-- Why a command is refused. -/
inductive Refusal where
  /-- Raised by exec's arm of a command that has no meaning yet; safe. No arm of this model raises it. -/
  | notModelled (mnemonic : String)
deriving DecidableEq, Repr

/-! ### The state after reset -/

/-- The Line Unit of a line with a numeric rate after a part reset (R25). -/
def Line.fresh : Line :=
  { autobaud := .fixed, rx := .idle, tx := .idle, queue := [], roomWanted := false, roomPending := false,
    idleGap := none }

/-- The History Buffer after a part reset, with the pages its ring has taken (R47). -/
def History.fresh (ring : List Nat) : History :=
  { ring := ring, oldest := 0, next := 0, mark := none, index := [], lost := 0, eventPending := false,
    deliver := 0, gapCount := 0, pacer := .idle, lineIdle := false }

/-- The working state of the eight pattern places after a part reset (R59). -/
def Place.fresh : List Place := List.replicate 8 { progress := 0, hit := false }

/-- The Media Function after a part reset, with the level of VBUS sense (R98). -/
def Media.fresh (vbus : Bool) : Media :=
  { vbus := vbus, slot := none, statePending := false, current := none, last := .good, continuation := none,
    received := none, out := { status := none, data := .nothing } }

/-- The Media Cache's state of a node after a part reset (R125). -/
def NodeCache.fresh : NodeCache := { fetches := [], queue := [], outstanding := [], seq := 0 }

/-- The Power Controller after a part reset, with the level of PG_SENSEn and the debounce interval that runs
(R151). -/
def Power.fresh (sense : Bool) (debounce : Option Nat) : Power :=
  { sense := sense, pg := .settling, debounce := debounce, btnPwr := false, btnRst := false, diag := false,
    feedCut := false, ctrl := .idle, boot := 0, ended := [], endedLost := 0, statePending := false }

/-- The Liveness Monitor of a disabled node after a part reset, with the level of HBn and its filter (R166). -/
def Live.fresh (hbPin : Bool) (hbFilter : Option Nat) : Live :=
  { monitor := .disabled, recoveries := 0, outstanding := false, warnings := 0, deferrals := 0,
    statePending := false, hbPin := hbPin, hb := .settling, hbFilter := hbFilter }

/-- The link after a part reset, with the level of LRTS and PART_READY pending or not (R184). -/
def Link.fresh (lrts readyPending : Bool) : Link :=
  { lrts := lrts, up := false, assembling := none, complete := [], discarded := false, replies := [],
    saveReply := none, restart := none, sending := none, readyPending := readyPending, lastState := .n3,
    lastKind := ⟨.room, .room, .room, .room⟩, lastFetch := .n3, lastData := .n3, lastWriteOut := .n3,
    rotation := .fetch }

/-- A node after start-up from the defaults, its ring holding the eight pages from `first` (R71), every input pin
at the level the log names (notes/assumptions/7.md). -/
def Node.initial (first : Nat) : Node :=
  { line := .fresh, hist := .fresh (List.range' first 8), watch := Place.fresh, media := .fresh false,
    cache := .fresh, power := .fresh false (some 20), live := .fresh false (some 1) }

/-- The state after reset: power has reached the part, its store has never been written, and START_UP has run
(R191, notes/assumptions/5.md and 6.md). PART_READY is pending and the link is not open yet (R184). -/
def State.reset : State :=
  { held := false, resetCause := .powerOn, restartDefaults := false, linkRate := .baud921600,
    clock := { cycles := 0, ticks := 0, tickCycles := 0 }, cfg := .default,
    nodes := ⟨.initial 0, .initial 8, .initial 16, .initial 24⟩,
    free := List.range' 32 992, entries := [], lru := [], mem := [], link := .fresh true true,
    store := { image := .bad, save := none, source := .defaults }, pauses := 0, pending := [] }

end Sys2Proof.Machine
end

