-- ==== Sys2Proof/Machine/Operands.lean ====
section
/-! DEFINITION. The fields of request payloads (R193, R194, spec 11) and the codes of the code tables, in both
directions. A code that is not listed reads as `none`. -/

namespace Sys2Proof.Machine

/-! ### Fields -/

/-- The `k`-byte number at position `at_` of a payload (R193). -/
def fieldAt (p : List Byte) (pos k : Nat) : Nat := leNat ((p.drop pos).take k)

/-- The byte at position `pos` of a payload. -/
def byteAt (p : List Byte) (pos : Nat) : Byte := (p.drop pos).headD 0

/-- An offset field whose value may be absent (R193). -/
def absentOffset : Nat := 0xFFFFFFFFFFFF

/-! ### Request kinds (spec 09, catalogue) -/

/-- The kinds of the part-wide requests, which require NODE FFh (R174). -/
def partKinds : List Byte := [0x01, 0x02, 0x03, 0x04, 0x05]

/-- The kinds of the requests that require NODE 0 to 3 (R174). -/
def nodeKinds : List Byte :=
  [0x10, 0x11, 0x12, 0x13, 0x14, 0x15, 0x16, 0x17, 0x18, 0x20, 0x21, 0x22, 0x23, 0x24, 0x25, 0x26, 0x27, 0x28,
   0x30, 0x31, 0x32, 0x33, 0x34, 0x38, 0x39, 0x3A]

/-- The KIND is one of the request kinds of the catalogue. -/
def isRequestKind (k : Byte) : Bool := partKinds.contains k || nodeKinds.contains k

/-! ### Codes (spec 11, code tables) -/

/-- Rate field of CON_LINE_SET: 0 for AUTO. -/
def LineRate.ofField (v : Nat) : LineRate := if v = 0 then .auto else .baud v

def Parity.ofCode (b : Byte) : Option Parity :=
  if b = 0 then some .none else if b = 1 then some .odd else if b = 2 then some .even
  else if b = 3 then some .mark else if b = 4 then some .space else Option.none

def StopBits.ofCode (b : Byte) : Option StopBits :=
  if b = 0 then some .one else if b = 1 then some .long else none

/-- A stand-alone on/off byte (R193). -/
def onOffOfCode (b : Byte) : Option Bool :=
  if b = 0 then some false else if b = 1 then some true else none

/-- Start choice of CON_DELIVERY_SET. -/
inductive StartChoice where
  | now | continue_ | offset (o : Nat)
deriving DecidableEq, Repr

def StartChoice.ofCode (b : Byte) (offset : Nat) : Option StartChoice :=
  if b = 0 then some .now else if b = 1 then some .continue_ else if b = 2 then some (.offset offset) else none

def WatchPower.ofCode (b : Byte) : Option WatchPower :=
  if b = 2 then some .offSoft else if b = 5 then some .cycle else if b = 6 then some .reset
  else if b = 7 then some .diag else none

/-- Action and power kind codes of CON_WATCH_SET; the power kind is read only when the action is POWER (R49). -/
def WatchAction.ofCode (action power : Byte) : Option WatchAction :=
  if action = 0 then some .notice else if action = 1 then some .mark else if action = 2 then some .kick
  else if action = 3 then (WatchPower.ofCode power).map .power else if action = 4 then some .detach else none

def ActionKind.ofCode (b : Byte) : Option ActionKind :=
  if b = 1 then some .on else if b = 2 then some .offSoft else if b = 3 then some .offHard
  else if b = 4 then some .cut else if b = 5 then some .cycle else if b = 6 then some .reset
  else if b = 7 then some .diag else none

def Escalation.ofCode (b : Byte) : Option Escalation :=
  if b = 0 then some .none else if b = 1 then some .hard else Option.none

def CycleMethod.ofCode (b : Byte) : Option CycleMethod :=
  if b = 0 then some .soft else if b = 1 then some .hard else if b = 2 then some .cut else none

def AbortPolicy.ofCode (b : Byte) : Option AbortPolicy :=
  if b = 0 then some .immediate else if b = 1 then some .phaseEnd else none

def WarningAction.ofCode (b : Byte) : Option WarningAction :=
  if b = 0 then some .notice else if b = 1 then some .noticeDiag else none

def RecoveryAction.ofCode (b : Byte) : Option RecoveryAction :=
  if b = 0 then some .none else if b = 1 then some .reset else if b = 2 then some .cycle else Option.none

def WritePolicy.ofCode (b : Byte) : Option WritePolicy :=
  if b = 0 then some .readOnly else if b = 1 then some .acked else if b = 2 then some .cached else none

/-- Presentation code; ONCE takes the node's boot number as its attach boot number (R77). -/
def Presentation.ofCode (b : Byte) (boot : Half) : Option Presentation :=
  if b = 0 then some .persist else if b = 1 then some (.once boot) else none

/-- Detach mode code: `some true` is DISCARD. -/
def discardOfCode (b : Byte) : Option Bool := onOffOfCode b

/-- Extent kind code: `some true` is PROTECT. -/
def protectOfCode (b : Byte) : Option Bool := onOffOfCode b

def Parity.code : Parity → Byte
  | .none => 0 | .odd => 1 | .even => 2 | .mark => 3 | .space => 4

def Condition.code : Condition → Byte
  | .off => 0 | .on => 1 | .cut => 2

def Accepted.code : Accepted → Byte
  | .low => 0 | .high => 1 | .settling => 2

def Controller.code : Controller → Byte
  | .idle => 0 | .acting _ _ _ => 1 | .locked _ => 2

def Autobaud.code : Autobaud → Byte
  | .fixed => 0 | .hunting _ => 1 | .locked _ _ => 2

def Pacer.code : Pacer → Byte
  | .idle => 0 | .collecting _ => 1 | .due => 2

def SlotState.code : SlotState → Byte
  | .ready => 1 | .faulted => 2 | .withdrawing => 3

/-- Slot state code; a slot without a medium is ABSENT. -/
def slotCode : Option Medium → Byte
  | none => 0
  | some m => m.state.code

def Monitor.code : Monitor → Byte
  | .disabled => 0 | .dormant => 1 | .grace _ => 2 | .watching _ _ => 3 | .warned _ => 4 | .recovering => 5
  | .exhausted _ => 6

/-- Running period code and its deadline. -/
def Monitor.period : Monitor → Byte × Option Nat
  | .grace e => (1, some e)
  | .watching e _ => (2, some e)
  | .warned e => (3, some e)
  | _ => (0, none)

/-- The stable deadline, present in WATCHING alone. -/
def Monitor.stableEnds : Monitor → Option Nat
  | .watching _ e => e
  | _ => none

def ExhaustCause.code : ExhaustCause → Byte
  | .maxReached => 1 | .noRecovery => 2 | .controllerLocked => 3 | .recoveryFailed => 4

/-- Exhaust cause code of a monitor, 0 for absent. -/
def Monitor.causeCode : Monitor → Byte
  | .exhausted c => c.code
  | _ => 0

def SettingsSource.code : SettingsSource → Byte
  | .stored => 0 | .defaults => 1

def ResetCause.code : ResetCause → Byte
  | .powerOn => 0 | .pin => 1 | .restart => 2

def ActionKind.code : ActionKind → Byte
  | .on => 1 | .offSoft => 2 | .offHard => 3 | .cut => 4 | .cycle => 5 | .reset => 6 | .diag => 7

def Source.code : Source → Byte
  | .link _ => 0 | .liveness => 1 | .watch => 2

/-- The request tag of a record, 0 unless the source is LINK. -/
def Source.tag : Source → Byte
  | .link t => t
  | .liveness => 0
  | .watch => 0

def Phase.code : Phase → Byte
  | .none => 0 | .settle => 1 | .press => 2 | .awaitUp => 3 | .awaitDown => 4 | .hold => 5 | .cutCheck => 6
  | .dwell => 7 | .pulse => 8

def ActionResult.code : ActionResult → Byte
  | .done => 1 | .failed => 2 | .aborted => 3 | .refused => 4 | .discarded => 5

def LockCause.code : LockCause → Byte
  | .startTimeout => 1 | .holdIneffective => 2 | .cutIneffective => 3 | .resetDroppedPower => 4

/-- Lock cause code, 0 for absent. -/
def causeCode : Option LockCause → Byte
  | none => 0
  | some c => c.code

def Escalation.code : Escalation → Byte
  | .none => 0 | .hard => 1

def CycleMethod.code : CycleMethod → Byte
  | .soft => 0 | .hard => 1 | .cut => 2

def AbortPolicy.code : AbortPolicy → Byte
  | .immediate => 0 | .phaseEnd => 1

def WarningAction.code : WarningAction → Byte
  | .notice => 0 | .noticeDiag => 1

def RecoveryAction.code : RecoveryAction → Byte
  | .none => 0 | .reset => 1 | .cycle => 2

def WritePolicy.code : WritePolicy → Byte
  | .readOnly => 0 | .acked => 1 | .cached => 2

def Presentation.code : Presentation → Byte
  | .persist => 0 | .once _ => 1

/-- The action kind a watch pattern's power kind names. -/
def WatchPower.action : WatchPower → ActionKind
  | .offSoft => .offSoft | .cycle => .cycle | .reset => .reset | .diag => .diag

/-- The code of an event kind, which is also its bit position in the event mask. -/
def EventKind.code : EventKind → Nat
  | .breakRx => 0 | .framing => 1 | .parity => 2 | .boot => 3 | .pgUp => 4 | .pgDown => 5 | .cut => 6
  | .actionStart => 7 | .actionEnd _ => 8 | .watchHit => 9 | .markSet => 10 | .markLost => 11
  | .autobaudLock => 12 | .autobaudLost => 13 | .breakTx => 14

/-- Status byte of a node command, as SENSE returns it (spec 11, node status codes). -/
def NodeStatus.code : NodeStatus → Byte
  | .good => 0 | .notReady => 1 | .mediumChanged => 2 | .lbaRange => 3 | .writeProtected => 4
  | .mediumError => 5 | .timedOut => 6 | .invalidRequest => 7

/-- Results of replies (R175). -/
inductive Result where
  | ok | busy | locked | badNode | badParam | badState | noRoom | stale | unknownKind | adjusted
deriving DecidableEq, Repr

def Result.code : Result → Byte
  | .ok => 0 | .busy => 1 | .locked => 2 | .badNode => 3 | .badParam => 4 | .badState => 5 | .noRoom => 6
  | .stale => 7 | .unknownKind => 8 | .adjusted => 9

/-- OK, or ADJUSTED where a value was clamped or cleared. -/
def Result.adjustedIf (b : Bool) : Result := if b then .adjusted else .ok

/-- Clamps `v` into `lo … hi`. -/
def clamp (lo hi v : Nat) : Nat := if v < lo then lo else if hi < v then hi else v

/-- The range list of MED_EXTENTS_SET: first LBA (4) and count (4) of each. -/
def rangesAt : List Byte → Nat → List Range
  | _, 0 => []
  | p, k + 1 => { first := fieldAt p 0 4, count := fieldAt p 4 4 } :: rangesAt (p.drop 8) k

end Sys2Proof.Machine
end

