-- ==== Sys2Proof/Machine/Flags.lean ====
section
/-! DEFINITION. Flag bytes and masks: option bytes of requests, flag bytes of replies and notices, the event mask
and the kick mask (R193). Undefined bits of an option byte are ignored when it arrives, undefined bits of a flag byte
are sent as 0, and undefined bits of a mask are cleared with the result ADJUSTED. -/

namespace Sys2Proof.Machine

/-- Bit `i` of an option byte. -/
def optionBit (b : Byte) (i : Nat) : Bool := b.getLsbD i

/-- A flag byte with up to three flags, bit 0 first. -/
def flagByte (b0 : Bool) (b1 : Bool := false) (b2 : Bool := false) : Byte :=
  (if b0 then 1#8 else 0#8) ||| (if b1 then 2#8 else 0#8) ||| (if b2 then 4#8 else 0#8)

/-- The bits of the event mask that name an event kind: bit 15 is undefined. -/
def definedEvents : Half := 0x7FFF

/-- The bits of the kick mask that name a kick source: bits 4 to 7 are undefined. -/
def definedKicks : Byte := 0x0F

/-- Kick sources (R155), in the order of their mask bits. -/
inductive KickSource where
  | hb | console | watch | link
deriving DecidableEq, Repr

/-- The kick mask bit of a source. -/
def KickSource.bit : KickSource → Nat
  | .hb => 0 | .console => 1 | .watch => 2 | .link => 3

/-- The source is in the kick mask. -/
def KickSource.inMask (k : KickSource) (mask : Byte) : Bool := mask.getLsbD k.bit

/-- The event kind is in the event mask. -/
def EventKind.inMask (k : EventKind) (mask : Half) : Bool := mask.getLsbD k.code

/-- The "power dropped" flag of a WATCH_HIT detail (spec 11, event entry). -/
def powerDropped : Half := 0x8000

/-- The detail of ACTION_START and ACTION_END: low byte the action kind, high byte source or result. -/
def packDetail (low high : Byte) : Half := high ++ low

end Sys2Proof.Machine
end

