-- ==== Sys2Proof/Machine/Memory.lean ====
section
/-! DEFINITION. The buffer memory of 1024 pages of 512 bytes (R60): reading and writing runs of bytes, and the
canonical form. An unlisted byte reads 0 (notes/assumptions/10.md); R60 says that nothing reads a byte of a page
before it is written. -/

namespace Sys2Proof.Machine

/-- The byte at address `a`. -/
def Memory.read : Memory → Nat → Byte
  | [], _ => 0
  | (k, b) :: m, a => if k = a then b else Memory.read m a

/-- The cells of the bytes `bs` at `a` and up that differ from what an unlisted address reads as. -/
def Memory.cells : Nat → List Byte → Memory
  | _, [] => []
  | a, b :: bs => if b = 0 then Memory.cells (a + 1) bs else (a, b) :: Memory.cells (a + 1) bs

/-- Writes the bytes `bs` at `a` and up. -/
def Memory.write (m : Memory) (a : Nat) (bs : List Byte) : Memory :=
  m.filter (·.1 < a) ++ Memory.cells a bs ++ m.filter (a + bs.length ≤ ·.1)

/-- The `k` bytes at `a` and up. -/
def Memory.readRun (m : Memory) (a : Nat) : Nat → List Byte
  | 0 => []
  | k + 1 => m.read a :: Memory.readRun m (a + 1) k

/-- The canonical form: addresses strictly rising, no entry equal to what an unlisted address reads as. -/
def Memory.wf (m : Memory) : Bool :=
  decide (m.Pairwise (fun x y => x.1 < y.1)) && m.all (fun c => c.2 != 0)

/-- The address of the first byte of page `p`. -/
def pageAddress (p : Nat) : Nat := Config.pageBytes * p

/-- The 512 bytes of page `p`. -/
def Memory.page (m : Memory) (p : Nat) : List Byte := m.readRun (pageAddress p) Config.pageBytes

/-- Writes a block into page `p`. -/
def Memory.writePage (m : Memory) (p : Nat) (bs : List Byte) : Memory := m.write (pageAddress p) bs

/-- A block of zero bytes, as the node receives it inside the zero table (R94). -/
def zeroBlock : List Byte := List.replicate Config.pageBytes 0

end Sys2Proof.Machine
end

