-- ==== Sys2Proof/Machine/Ops.lean ====
section
/-! DEFINITION. The operations that read and change one part of the state: the nodes and their blocks, the settings
in force, the clock. Every other file goes through these. -/

namespace Sys2Proof

/-! ### The four nodes -/

/-- The nodes in order, N0 first. -/
def NodeId.all : List NodeId := [.n0, .n1, .n2, .n3]

/-- The node after `n` in the round-robin order N0 to N3 and back to N0 (R179). -/
def NodeId.succ : NodeId → NodeId
  | .n0 => .n1
  | .n1 => .n2
  | .n2 => .n3
  | .n3 => .n0

/-- The four nodes in round-robin order, beginning after `n`. -/
def NodeId.after (n : NodeId) : List NodeId := [n.succ, n.succ.succ, n.succ.succ.succ, n]

/-- The node a NODE byte 0 to 3 names (R167). -/
def NodeId.ofByte (b : Byte) : Option NodeId :=
  if b = 0 then some .n0 else if b = 1 then some .n1 else if b = 2 then some .n2
  else if b = 3 then some .n3 else none

/-- The NODE byte of a node. -/
def NodeId.toByte : NodeId → Byte
  | .n0 => 0
  | .n1 => 1
  | .n2 => 2
  | .n3 => 3

end Sys2Proof

namespace Sys2Proof.Machine

/-! ### Four like things -/

/-- The thing of node `n`. -/
def PerNode.get {α : Type} (p : PerNode α) : NodeId → α
  | .n0 => p.n0
  | .n1 => p.n1
  | .n2 => p.n2
  | .n3 => p.n3

/-- Replaces the thing of node `n`. -/
def PerNode.set {α : Type} (p : PerNode α) (n : NodeId) (a : α) : PerNode α :=
  match n with
  | .n0 => { p with n0 := a }
  | .n1 => { p with n1 := a }
  | .n2 => { p with n2 := a }
  | .n3 => { p with n3 := a }

/-! ### Nodes of a state -/

/-- Everything of node `n`. -/
def State.nd (s : State) (n : NodeId) : Node := s.nodes.get n

/-- Replaces everything of node `n`. -/
def State.setNd (s : State) (n : NodeId) (x : Node) : State := { s with nodes := s.nodes.set n x }

/-- Changes the Line Unit of node `n`. -/
def State.mapLine (s : State) (n : NodeId) (f : Line → Line) : State :=
  s.setNd n { s.nd n with line := f (s.nd n).line }

/-- Changes the History Buffer of node `n`. -/
def State.mapHist (s : State) (n : NodeId) (f : History → History) : State :=
  s.setNd n { s.nd n with hist := f (s.nd n).hist }

/-- Changes the pattern places of node `n`. -/
def State.mapWatch (s : State) (n : NodeId) (f : List Place → List Place) : State :=
  s.setNd n { s.nd n with watch := f (s.nd n).watch }

/-- Changes the Media Function of node `n`. -/
def State.mapMedia (s : State) (n : NodeId) (f : Media → Media) : State :=
  s.setNd n { s.nd n with media := f (s.nd n).media }

/-- Changes the Media Cache's lists of node `n`. -/
def State.mapCache (s : State) (n : NodeId) (f : NodeCache → NodeCache) : State :=
  s.setNd n { s.nd n with cache := f (s.nd n).cache }

/-- Changes the Power Controller of node `n`. -/
def State.mapPower (s : State) (n : NodeId) (f : Power → Power) : State :=
  s.setNd n { s.nd n with power := f (s.nd n).power }

/-- Changes the Liveness Monitor of node `n`. -/
def State.mapLive (s : State) (n : NodeId) (f : Live → Live) : State :=
  s.setNd n { s.nd n with live := f (s.nd n).live }

/-- Changes the link. -/
def State.mapLink (s : State) (f : Link → Link) : State := { s with link := f s.link }

/-! ### Settings in force -/

/-- The settings of node `n` in force. -/
def State.set (s : State) (n : NodeId) : NodeSettings := s.cfg.nodes.get n

/-- Changes the settings of node `n` in force. -/
def State.mapSet (s : State) (n : NodeId) (f : NodeSettings → NodeSettings) : State :=
  { s with cfg := { s.cfg with nodes := s.cfg.nodes.set n (f (s.set n)) } }

/-! ### Clock (R2) -/

/-- `k` REFCLK cycles pass; a tick is `fref` cycles. -/
def Clock.advance (fref k : Nat) (c : Clock) : Clock :=
  { cycles := c.cycles + k, ticks := c.ticks + (c.tickCycles + k) / fref, tickCycles := (c.tickCycles + k) % fref }

/-- The clock at the start of tick `t`, or as it is when `t` has been reached (notes/assumptions/2.md). -/
def Clock.toTick (fref t : Nat) (c : Clock) : Clock :=
  if t ≤ c.ticks then c
  else { cycles := c.cycles + ((t - c.ticks) * fref - c.tickCycles), ticks := t, tickCycles := 0 }

/-- The clock at cycle `k`, or as it is when `k` has been reached (notes/assumptions/2.md). -/
def Clock.toCycle (fref k : Nat) (c : Clock) : Clock := c.advance fref (k - c.cycles)

/-- Ends the tick in progress at once when it has counted the new Fref cycles already (R2). -/
def Clock.newFref (fref : Nat) (c : Clock) : Clock :=
  if fref ≤ c.tickCycles then { c with ticks := c.ticks + 1, tickCycles := 0 } else c

/-- One REFCLK cycle passes. No block counts time while the part is held in reset (R191). -/
def State.cycle (s : State) : State :=
  if s.held then s else { s with clock := s.clock.advance s.cfg.fref 1 }

/-- Time has come to tick `t`. -/
def State.toTick (s : State) (t : Nat) : State := { s with clock := s.clock.toTick s.cfg.fref t }

/-- Time has come to cycle `k`. -/
def State.toCycle (s : State) (k : Nat) : State := { s with clock := s.clock.toCycle s.cfg.fref k }

/-- The ticks that remain to the deadline `t`. -/
def State.remaining (s : State) (t : Nat) : Nat := t - s.clock.ticks

/-! ### Derived states -/

/-- Node condition: CUT while FEED_CUTn is asserted, otherwise ON while pg is high and OFF while it is low or
settling (R128). -/
def Power.condition (p : Power) : Condition :=
  if p.feedCut then .cut else if p.pg = .high then .on else .off

/-- The condition of node `n`. -/
def State.condition (s : State) (n : NodeId) : Condition := (s.nd n).power.condition

/-- The port of node `n` is CONNECTED: VBUS sense reads present, and the part is not in reset (R72, R98). -/
def State.connected (s : State) (n : NodeId) : Bool := !s.held && (s.nd n).media.vbus

/-- LCTS: deasserted while both inbound buffers hold complete frames, and until PART_READY has been sent
(R171, R184). -/
def State.lcts (s : State) : Bool :=
  !s.held && s.link.up && decide (s.link.complete.length < Config.inboundBuffers)

/-- Carries out an event in a part that is not held in reset; in reset every block stands still (R191). -/
def State.running (s : State) (f : State → State) : State := if s.held then s else f s

/-- Carries out an event on the value of `o` where there is one, in a part that is not held in reset; where there is
none the event cannot occur and nothing changes (notes/assumptions/3.md). -/
def State.given {α : Type} (s : State) (o : Option α) (f : α → State) : State :=
  if s.held then s
  else
    match o with
    | some a => f a
    | none => s

end Sys2Proof.Machine
end

