-- ==== Sys2Proof/Machine/History.lean ====
section
/-! DEFINITION. The History Buffer: the event index (R32 to R34, R45), losing the mark (R31), giving up the oldest
page (R28, R29), the pacer (R38 to R43). -/

namespace Sys2Proof.Machine

/-! ### The event index -/

/-- Removes the oldest index entry; an entry on the unsent event list counts as lost (R33, R45). -/
def History.dropOldestEvent (h : History) : History :=
  match h.index with
  | [] => h
  | e :: es => { h with index := es, lost := if e.unsent then min 255 (h.lost + 1) else h.lost }

/-- Adds an entry at the newest end, removing the oldest first when the index holds 64; an entry on the unsent list
makes a CON_EVENT notice pending (R33, R45). -/
def History.push (e : Event) (h : History) : History :=
  let h := if Config.indexEntries ≤ h.index.length then h.dropOldestEvent else h
  { h with index := h.index ++ [e], eventPending := h.eventPending || e.unsent }

/-- Records an entry at next_offset; it joins the unsent list when its kind is in the event mask (R32, R45). -/
def History.record (mask boot : Half) (k : EventKind) (detail : Half) (h : History) : History :=
  h.push { offset := h.next, kind := k, detail := detail, boot := boot, unsent := k.inMask mask }

/-- The error kinds, which coalesce (R34). -/
def EventKind.isError : EventKind → Bool
  | .framing => true
  | .parity => true
  | _ => false

/-- Adds one to the entry of kind `k` in the error run that ends the index; the argument is the index newest entry
first. `none` where the run holds no such entry (R34). -/
def bumpErrorRun (k : EventKind) : List Event → Option (List Event)
  | [] => none
  | e :: es =>
    if e.kind = k then some ({ e with detail := if e.detail = 0xFFFF then e.detail else e.detail + 1 } :: es)
    else if e.kind.isError then (bumpErrorRun k es).map (e :: ·)
    else none

/-- Records a FRAMING or PARITY event: it coalesces into the error run, or is a new entry with detail 1 (R34). -/
def History.recordError (mask boot : Half) (k : EventKind) (h : History) : History :=
  match bumpErrorRun k h.index.reverse with
  | some es => { h with index := es.reverse }
  | none => h.record mask boot k 1

/-- Removes every entry below oldest_offset; those on the unsent list count as lost (R33). -/
def History.prune (h : History) : History :=
  { h with
    index := h.index.dropWhile (fun e => e.offset < h.oldest)
    lost := min 255 (h.lost + (h.index.takeWhile (fun e => e.offset < h.oldest)).countP (·.unsent)) }

/-- Entries whose kind has left the event mask leave the unsent list and do not count as lost (R37). -/
def History.applyMask (mask : Half) (h : History) : History :=
  { h with index := h.index.map (fun e => { e with unsent := e.unsent && e.kind.inMask mask }) }

/-! ### The mark -/

/-- Clamps an offset into oldest_offset … next_offset. -/
def History.clampOffset (h : History) (o : Nat) : Nat := clamp h.oldest h.next o

/-- Sets the mark at the clamped offset and records MARK_SET (R30). -/
def History.setMark (mask boot : Half) (o : Nat) (h : History) : History :=
  History.record mask boot .markSet 0 { h with mark := some (h.clampOffset o) }

/-- A mark in the oldest page is lost: it becomes absent and MARK_LOST is recorded at next_offset (R31). -/
def History.loseMark (mask boot : Half) (h : History) : History :=
  match h.mark with
  | none => h
  | some m =>
    if m < h.oldest + Config.pageBytes then History.record mask boot .markLost 0 { h with mark := none } else h

/-! ### The ring -/

/-- deliver_offset passed by oldest_offset moves to it; while follow is on the bytes passed over are counted and
the pacer enters DUE (R43). -/
def History.jump (follow : Bool) (h : History) : History :=
  if h.deliver < h.oldest then
    { h with
      deliver := h.oldest
      gapCount := if follow then min 4294967295 (h.gapCount + (h.oldest - h.deliver)) else h.gapCount
      pacer := if follow then .due else h.pacer }
  else h

/-- The bytes of the oldest page are given up: mark, oldest_offset, index and delivery, in that order (R28). -/
def History.discardOldestPage (mask boot : Half) (follow : Bool) (h : History) : History :=
  let h := h.loseMark mask boot
  History.jump follow (History.prune { h with oldest := h.oldest + Config.pageBytes })

/-- Recycles the oldest page: its bytes are given up and it moves to the tail (R28). -/
def History.recycle (mask boot : Half) (follow : Bool) (h : History) : History :=
  match h.ring with
  | [] => h
  | p :: ps => { h.discardOldestPage mask boot follow with ring := ps ++ [p] }

/-- Every page of the ring is full (R27). -/
def History.full (h : History) : Bool := decide (h.oldest + Config.pageBytes * h.ring.length ≤ h.next)

/-- The newest page of the ring is a spare page: its first offset is at or beyond next_offset (R26). -/
def History.hasSpare (h : History) : Bool :=
  decide (0 < h.ring.length ∧ h.next ≤ h.oldest + Config.pageBytes * (h.ring.length - 1))

/-- The page a shrinking ring gives back next, and the ring without it: spare pages first, newest first, then the
oldest page (R29). -/
def History.shedPage (mask boot : Half) (follow : Bool) (h : History) : Option (Nat × History) :=
  match h.ring with
  | [] => none
  | p :: ps =>
    if h.hasSpare then some ((p :: ps).getLast (by simp), { h with ring := (p :: ps).dropLast })
    else some (p, { h.discardOldestPage mask boot follow with ring := ps })

/-- The address in the buffer memory of history offset `o` (R26). -/
def History.address (h : History) (o : Nat) : Option Nat :=
  h.ring[(o - h.oldest) / Config.pageBytes]?.map (fun p => pageAddress p + o % Config.pageBytes)

/-! ### The pacer -/

/-- Bytes not yet delivered. -/
def History.undelivered (h : History) : Nat := h.next - h.deliver

/-- COLLECTING with its delay timer started at tick `now`, when T is not 0 (R40). -/
def collectFrom (d : DeliverySettings) (now : Nat) : Pacer :=
  .collecting (if d.delay = 0 then none else some (now + d.delay))

/-- The pacer state set anew from what is pending (R38, R42). -/
def History.paceAnew (d : DeliverySettings) (now : Nat) (h : History) : History :=
  { h with pacer :=
      if h.undelivered = 0 then .idle
      else if d.count ≤ h.undelivered then .due
      else if h.lineIdle then .due
      else collectFrom d now }

/-- A stored byte reaches the pacer, after next_offset has advanced (R40). -/
def History.paceByte (d : DeliverySettings) (now : Nat) (h : History) : History :=
  if d.follow then
    match h.pacer with
    | .idle => { h with pacer := if d.count ≤ h.undelivered then .due else collectFrom d now }
    | .collecting e => { h with pacer := if d.count ≤ h.undelivered then .due else .collecting e }
    | .due => h
  else h

/-- The idle-gap signal sets the line-idle flag and sends a COLLECTING pacer to DUE (R41). -/
def History.lineIdleSignal (h : History) : History :=
  { h with lineIdle := true, pacer := match h.pacer with | .collecting _ => .due | p => p }

/-! ### On the state -/

/-- Records an entry in the event index of node `n`, with the node's boot number (R32). -/
def State.record (s : State) (n : NodeId) (k : EventKind) (detail : Half := 0) : State :=
  s.mapHist n (History.record (s.set n).delivery.mask (s.nd n).power.boot k detail)

/-- Records a FRAMING or PARITY event of node `n` (R34). -/
def State.recordError (s : State) (n : NodeId) (k : EventKind) : State :=
  s.mapHist n (History.recordError (s.set n).delivery.mask (s.nd n).power.boot k)

/-- Sets the mark of node `n` (R30). -/
def State.setMark (s : State) (n : NodeId) (o : Nat) : State :=
  s.mapHist n (History.setMark (s.set n).delivery.mask (s.nd n).power.boot o)

end Sys2Proof.Machine
end

