-- ==== Sys2Proof/Machine/Line.lean ====
section
/-! DEFINITION. The Line Unit's operations: the bit period and its figures (R5, R6), the character frame (R8), the
idle-gap timer (R12), autobaud (R13 to R18), the transmitter (R21, R23) and the line of a node that is CUT (R24). -/

namespace Sys2Proof.Machine

/-! ### Arithmetic of the bit period -/

/-- Fref × 1000 / B rounded to the nearest whole number, an exact half rounding up; the unclamped d of R5, and the
actual rate of R6 with d in the place of B. -/
def nearestQuotient (fref b : Nat) : Nat := (2 * (fref * 1000) + b) / (2 * b)

/-- The bit period d of R5. -/
def divisor (fref b : Nat) : Nat := clamp 16 1048575 (nearestQuotient fref b)

/-- d was clamped (R6). -/
def divisorClamped (fref b : Nat) : Bool := divisor fref b != nearestQuotient fref b

/-- The rate error in parts per million, truncated toward zero (R6). -/
def ratePpm (fref b d : Nat) : Int :=
  Int.tdiv (1000000 * ((fref * 1000 : Nat) - (b * d : Nat) : Int)) ((b * d : Nat) : Int)

/-- The absolute error exceeds 25,000 ppm (R6). -/
def ratePoor (ppm : Int) : Bool := decide (25000 < ppm.natAbs)

/-- Half-bits of the stop bits: S2 of R8. -/
def LineSettings.stopHalves (l : LineSettings) : Nat :=
  match l.stop with
  | .one => 2
  | .long => if l.wordLen = 5 then 3 else 4

/-- Length of a character frame in half-bits (R8). -/
def LineSettings.halfBits (l : LineSettings) : Nat :=
  2 * (1 + l.wordLen + (if l.parity = .none then 0 else 1)) + l.stopHalves

/-- `k` character times in REFCLK cycles, rounded up to a whole cycle (R8, R12). -/
def characterCycles (k h d : Nat) : Nat := (k * h * d + 1) / 2

/-- The parity bit of the data bits `v` (R8); `none` without parity. -/
def Parity.bit (p : Parity) (v : Byte) : Option Bool :=
  let ones := ((List.range 8).countP (fun i => v.getLsbD i)) % 2
  match p with
  | .none => Option.none
  | .odd => some (ones == 0)
  | .even => some (ones == 1)
  | .mark => some true
  | .space => some false

/-- The low W bits of a byte (R8). -/
def lowBits (w : Nat) (b : Byte) : Byte := b &&& BitVec.ofNat 8 (2 ^ w - 1)

/-- The bits of a character frame before its stop bits: the start bit, the low W bits of the byte with the least
significant first, and the parity bit of those bits (R8). -/
def LineSettings.frameBits (l : LineSettings) (b : Byte) : List Bool :=
  false :: (List.range l.wordLen).map (fun i => b.getLsbD i) ++ (l.parity.bit (lowBits l.wordLen b)).toList

/-- The level of a character frame in each of its half-bits (R8). -/
def LineSettings.frameHalves (l : LineSettings) (b : Byte) : List Bool :=
  (l.frameBits b).flatMap (fun x => [x, x]) ++ List.replicate l.stopHalves true

/-- The cycle at which the last stop bit of a frame ends: one character time after its start (R8). -/
def TxFrame.ends (f : TxFrame) : Nat := f.start + characterCycles 1 f.halves.length f.period

/-- The level of a frame at a cycle: that of the half-bit the cycle lies in, and high after the last one (R8). -/
def TxFrame.level (f : TxFrame) (cycle : Nat) : Bool := (f.halves[2 * (cycle - f.start) / f.period]?).getD true

/-- Levels of CTXn. -/
inductive PinLevel where
  | low | high | floating
deriving DecidableEq, Repr

/-- What the transmitter drives on CTXn at a cycle: the frame being sent; low in a break; high-impedance while the node
is CUT; and high otherwise (R8, R21, R24). -/
def Transmitter.pin (cycle : Nat) : Transmitter → PinLevel
  | .idle => .high
  | .byte f => if f.level cycle then .high else .low
  | .brk _ => .low
  | .gap _ => .high
  | .floating _ => .floating

/-- The level of CTXn now. -/
def State.ctx (s : State) (n : NodeId) : PinLevel := (s.nd n).line.tx.pin s.clock.cycles

/-! ### The line of a node -/

/-- The rate a line runs at: its numeric rate when FIXED, the lock rate when LOCKED, none when HUNTING (R5). -/
def State.lineRate (s : State) (n : NodeId) : Option Nat :=
  match (s.nd n).line.autobaud with
  | .fixed => match (s.set n).line.rate with
    | .baud b => some b
    | .auto => none
  | .locked r _ => some r
  | .hunting _ => none

/-- The effective d of a line; a HUNTING line has none (R5). -/
def State.bitPeriod (s : State) (n : NodeId) : Option Nat := (s.lineRate n).map (divisor s.cfg.fref)

/-- `k` character times of the settings in force, when the line has a d. -/
def State.charCycles (s : State) (n : NodeId) (k : Nat) : Option Nat :=
  (s.bitPeriod n).map (characterCycles k (s.set n).line.halfBits)

/-- The idle-gap timer starts or restarts with G character times; it stops when G is 0 or the line is HUNTING
(R12). -/
def State.restartIdleGap (s : State) (n : NodeId) : State :=
  s.mapLine n (fun l =>
    { l with idleGap :=
        if (s.set n).delivery.gap = 0 then none
        else (s.charCycles n (s.set n).delivery.gap).map (s.clock.cycles + ·) })

/-! ### The transmitter -/

/-- The room-wanted flag at one of the moments of R23: set, with the occupancy at or below n, it is cleared and
CON_INPUT_ROOM becomes pending. -/
def Line.roomCheck (low : Nat) (l : Line) : Line :=
  if l.roomWanted ∧ l.queue.length ≤ low then { l with roomWanted := false, roomPending := true } else l

/-- R23 evaluated for node `n`. -/
def State.roomCheck (s : State) (n : NodeId) : State := s.mapLine n (Line.roomCheck (s.set n).line.roomLow)

/-- Free items of the transmit queue of node `n` (R19). -/
def State.txRoom (s : State) (n : NodeId) : Nat := Config.txItems - (s.nd n).line.queue.length

/-- The transmitter holds CTXn high for one character time, or from the lock on when the line has no d (R21). -/
def State.beginGap (s : State) (n : NodeId) : State :=
  s.mapLine n (fun l => { l with tx := .gap ((s.charCycles n 1).map (s.clock.cycles + ·)) })

/-- The frame of a byte that the transmitter of node `n` takes now, at bit period `d` (R8, R21). -/
def State.frameFor (s : State) (n : NodeId) (d : Nat) (b : Byte) : TxFrame :=
  { halves := (s.set n).line.frameHalves b, period := d, start := s.clock.cycles }

/-- The transmitter takes the item at the head of the queue when it is not sending, the node is not CUT and the line
is FIXED or LOCKED (R21). -/
def State.takeItem (s : State) (n : NodeId) : State :=
  if (s.nd n).line.tx = .idle ∧ s.condition n ≠ .cut then
    match s.bitPeriod n, (s.nd n).line.queue with
    | some d, .byte b :: q =>
      (s.mapLine n (fun l => { l with tx := .byte (s.frameFor n d b), queue := q })).roomCheck n
    | some _, .brk ms :: q =>
      ((s.mapLine n (fun l => { l with tx := .brk (s.clock.ticks + ms), queue := q })).record n .breakTx).roomCheck n
    | _, _ => s
  else s

/-- The transmitter is idle again and may take the next item. -/
def State.txFree (s : State) (n : NodeId) : State := (s.mapLine n (fun l => { l with tx := .idle })).takeItem n

/-- An idle character time that waits for the line's d starts now, when the line has one (R21). -/
def State.startWaitingGap (s : State) (n : NodeId) : State :=
  if (s.nd n).line.tx = .gap none then s.beginGap n else s

/-! ### Autobaud -/

/-- A line with rate AUTO enters HUNTING with no window; the receiver decodes nothing (R13). -/
def State.enterHunting (s : State) (n : NodeId) : State :=
  s.mapLine n (fun l => { l with autobaud := .hunting none, rx := .idle })

/-- The candidate rates of R15. -/
def candidateRates : List Nat :=
  [1200, 2400, 4800, 9600, 19200, 38400, 57600, 115200, 230400, 460800, 921600, 1500000, 3000000]

/-- The distance of S × Tmin from Fref × 1000 (R15). -/
def rateDistance (fref tmin r : Nat) : Nat := (fref * 1000 - r * tmin) + (r * tmin - fref * 1000)

/-- Of two candidates the nearer one, the earlier on a tie (R15). -/
def nearerRate (fref tmin : Nat) (best : Option Nat) (r : Nat) : Option Nat :=
  match best with
  | none => some r
  | some b => if rateDistance fref tmin r < rateDistance fref tmin b then some r else some b

/-- The candidate a completed window picks: reachable (S ≤ Fref × 1000 / 16) and nearest, the lower on a tie
(R15). -/
def pickRate (fref tmin : Nat) : Option Nat :=
  (candidateRates.filter (fun r => 16 * r ≤ fref * 1000)).foldl (nearerRate fref tmin) none

/-- The rate at which a completed window locks the line, when it lies within 4 % (R15). -/
def judgeWindow (fref tmin : Nat) : Option Nat :=
  match pickRate fref tmin with
  | none => none
  | some r => if rateDistance fref tmin r * 25 ≤ r * tmin then some r else none

/-- The line locks at `rate`: the receiver waits for CRXn to read 1 for one character time, and the edge that has
completed the window was a fall; AUTOBAUD_LOCK is recorded, the loss-of-lock check begins and the transmitter resumes
(R14, R16, notes/assumptions/36.md). -/
def State.lockLine (s : State) (n : NodeId) (rate : Nat) : State :=
  let t := s.mapLine n (fun l =>
    { l with autobaud := .locked rate (some { bytes := 0, framing := 0 }), rx := .lockWait none })
  let t := t.record n .autobaudLock (BitVec.ofNat 16 (min 65535 (rate / 100)))
  (t.startWaitingGap n).takeItem n

/-- The 32nd run ends: the window is judged and the line locks, or the window is discarded (R14, R15). -/
def State.completeWindow (s : State) (n : NodeId) (w : Window) (run : Nat) : State :=
  match judgeWindow s.cfg.fref (min w.shortest run) with
  | some r => s.lockLine n r
  | none => s.mapLine n (fun l => { l with autobaud := .hunting none })

/-- The wait after a lock at an edge of CRXn: a rise begins it, with the character time of the line then, and a fall
stops it until the next rise (R16, notes/assumptions/36.md). -/
def Receiver.waitEdge (falling : Bool) (ends : Option Nat) : Receiver → Receiver
  | .lockWait none => if falling then .lockWait none else .lockWait ends
  | .lockWait (some e) => if falling then .lockWait none else .lockWait (some e)
  | r => r

/-- An edge of CRXn reaches a receiver that waits after a lock (R16). -/
def State.waitEdge (s : State) (n : NodeId) (falling : Bool) : State :=
  s.mapLine n (fun l => { l with rx := l.rx.waitEdge falling ((s.charCycles n 1).map (s.clock.cycles + ·)) })

/-- The window with one more run (R14). -/
def Window.addRun (w : Window) (run : Nat) : Window :=
  { runs := w.runs + 1, shortest := if w.runs = 0 then run else min w.shortest run }

/-- A boot event re-arms an AUTO line with rearm on boot on (R18). -/
def State.rearmLine (s : State) (n : NodeId) : State :=
  if (s.set n).line.rate = .auto ∧ (s.set n).line.rearm then s.enterHunting n else s

/-- One byte has been handed on since the lock: the loss-of-lock check counts it (R17). -/
def State.lossCheck (s : State) (n : NodeId) (framing : Bool) : State :=
  match (s.nd n).line.autobaud with
  | .locked r (some c) =>
    let c : LockCheck := { bytes := c.bytes + 1, framing := c.framing + (if framing then 1 else 0) }
    if framing ∧ c.framing = 4 then (s.record n .autobaudLost).enterHunting n
    else s.mapLine n (fun l => { l with autobaud := .locked r (if c.bytes = 16 then none else some c) })
  | _ => s

/-! ### The node is CUT -/

/-- CTXn becomes high-impedance: a byte is abandoned, a break is suspended with its remaining ticks, the receiver
drops what it had, and a hunting window is discarded (R24). -/
def State.lineEntersCut (s : State) (n : NodeId) : State :=
  s.mapLine n (fun l =>
    { l with
      tx := .floating (match l.tx with | .brk e => some (s.remaining e) | _ => none)
      rx := .idle
      autobaud := match l.autobaud with | .hunting _ => .hunting none | a => a })

/-- The condition leaves CUT: a suspended break resumes for its remaining ticks, or an idle character time is held;
the receiver restarts in idle; an AUTO line enters HUNTING (R24). -/
def State.lineLeavesCut (s : State) (n : NodeId) : State :=
  let t :=
    match (s.nd n).line.tx with
    | .floating (some r) => s.mapLine n (fun l => { l with tx := .brk (s.clock.ticks + r) })
    | _ => s.beginGap n
  let t := t.mapLine n (fun l => { l with rx := .idle })
  if (s.set n).line.rate = .auto then t.enterHunting n else t

end Sys2Proof.Machine
end

