-- ==== Sys2Proof/Machine/Liveness.lean ====
section
/-! DEFINITION. The Liveness Monitor's operations: entering its states (R156, R157, R162), kicks (R155), and the
reports of the Power Controller (R154, R161). Its submissions stand in Machine/Power.lean. -/

namespace Sys2Proof.Machine

/-- Enters a monitor state; a change of state makes a LIV_STATE notice pending (R165). -/
def Live.enter (m : Monitor) (l : Live) : Live :=
  { l with monitor := m, statePending := l.statePending || l.monitor.code != m.code }

/-- The tick `sec` seconds from now; every period is counted at 1,000 ticks to the second (spec 08, settings). -/
def State.after (s : State) (sec : Nat) : Nat := s.clock.ticks + 1000 * sec

/-- Enters GRACE with the grace period started afresh (R156). -/
def State.enterGrace (s : State) (n : NodeId) : State :=
  s.mapLive n (Live.enter (.grace (s.after (s.set n).live.grace)))

/-- Enters WATCHING: the timeout period and the stable deadline start (R157). -/
def State.enterWatching (s : State) (n : NodeId) : State :=
  s.mapLive n (Live.enter
    (.watching (s.after (s.set n).live.timeout) (some (s.after (s.set n).live.stable))))

/-- Enters EXHAUSTED with a cause (R162). -/
def State.exhaust (s : State) (n : NodeId) (c : ExhaustCause) : State := s.mapLive n (Live.enter (.exhausted c))

/-- GRACE when the node is ON, DORMANT otherwise (R153, R162). -/
def State.enterByCondition (s : State) (n : NodeId) : State :=
  if s.condition n = .on then s.enterGrace n else s.mapLive n (Live.enter .dormant)

/-- The states in which the monitor is active: GRACE, WATCHING, WARNED and RECOVERING. -/
def Monitor.active : Monitor → Bool
  | .grace _ => true
  | .watching _ _ => true
  | .warned _ => true
  | .recovering => true
  | _ => false

/-- The states that count kicks (R155). -/
def Monitor.countsKicks : Monitor → Bool
  | .grace _ => true
  | .watching _ _ => true
  | .warned _ => true
  | _ => false

/-- A kick from this source would be counted now (R155). -/
def State.kickCounts (s : State) (n : NodeId) (k : KickSource) : Bool :=
  k.inMask (s.set n).live.kicks && (s.nd n).live.monitor.countsKicks

/-- A kick reaches the monitor. Counted in GRACE or WARNED it leads to WATCHING; in WATCHING it restarts the timeout
and leaves the stable deadline (R155 to R157, R159). -/
def State.kick (s : State) (n : NodeId) (k : KickSource) : State :=
  if s.kickCounts n k then
    match (s.nd n).live.monitor with
    | .watching _ st => s.mapLive n (Live.enter (.watching (s.after (s.set n).live.timeout) st))
    | _ => s.enterWatching n
  else s

/-- The node condition leaves ON (R154). -/
def State.liveLeavesOn (s : State) (n : NodeId) : State :=
  if (s.nd n).live.monitor.active then s.mapLive n (Live.enter .dormant) else s

/-- The condition becomes ON without a boot event, or is ON at the initial acceptance of pg (R154). -/
def State.liveBecomesOn (s : State) (n : NodeId) : State :=
  if (s.nd n).live.monitor = .dormant then s.enterGrace n else s

/-- A boot event reaches the monitor, judged against the condition (R154). -/
def State.liveBoot (s : State) (n : NodeId) : State :=
  if s.condition n = .on then
    if (s.nd n).live.monitor = .dormant ∨ (s.nd n).live.monitor.active then s.enterGrace n else s
  else s

/-- The monitor is neither DISABLED nor EXHAUSTED. -/
def Monitor.followsRecovery : Monitor → Bool
  | .disabled => false
  | .exhausted _ => false
  | _ => true

/-- The end of a recovery is reported while the recovery outstanding flag is set. `failed` is FAILED, REFUSED or
DISCARDED, or an entry into LOCKED (R161). -/
def State.recoveryReport (s : State) (n : NodeId) (failed : Bool) : State :=
  if (s.nd n).live.outstanding then
    let t := s.mapLive n (fun l => { l with outstanding := false })
    if (s.nd n).live.monitor.followsRecovery then
      if failed then t.exhaust n .recoveryFailed
      else if (s.nd n).live.monitor = .recovering then t.enterGrace n else t
    else t
  else s

end Sys2Proof.Machine
end

