-- ==== Sys2Proof/Machine/Cache.lean ====
section
/-! DEFINITION. The Page Pool (R60 to R68) and the Media Cache's entries and lists (R99 to R119): where pages go,
creating, finding, changing and freeing entries, and what an acknowledgement or a timeout does to them. -/

namespace Sys2Proof.Machine

/-! ### The free list -/

/-- Puts a page into the free list, which is kept in rising order. -/
def insertPage (p : Nat) : List Nat → List Nat
  | [] => [p]
  | q :: qs => if p ≤ q then p :: q :: qs else q :: insertPage p qs

/-- A page given back joins the free list (R67). -/
def State.givePage (s : State) (p : Nat) : State := { s with free := insertPage p s.free }

/-- Takes the lowest-numbered free page (R60). -/
def State.takeFree (s : State) : Option (Nat × State) :=
  match s.free with
  | [] => none
  | p :: ps => some (p, { s with free := ps })

/-- Evicts the least recently used VALID entry; its page goes to the requester (R65). -/
def State.evict (s : State) : Option (Nat × State) :=
  match s.lru with
  | [] => none
  | p :: ps => some (p, { s with lru := ps, entries := s.entries.filter (fun e => e.page != p) })

/-- Serves a ring or a media request: a free page, or an evicted one (R63, R66). `none` refuses. -/
def State.getPage (s : State) : Option (Nat × State) :=
  match s.takeFree with
  | some r => some r
  | none => s.evict

/-- Repeats `f`. -/
def times {α : Type} : Nat → (α → α) → α → α
  | 0, _, a => a
  | k + 1, f, a => times k f (f a)

/-- A ring gives one page back to the pool (R29, R67). -/
def State.shedOne (n : NodeId) (s : State) : State :=
  match (s.nd n).hist.shedPage (s.set n).delivery.mask (s.nd n).power.boot (s.set n).delivery.follow with
  | none => s
  | some (p, h) => (s.mapHist n (fun _ => h)).givePage p

/-- A ring above its max gives pages back until its page count equals the max (R62). -/
def State.shedRing (s : State) (n : NodeId) : State :=
  times ((s.nd n).hist.ring.length - (s.set n).quota.max) (State.shedOne n) s

/-- A ring receives one page, which joins its tail as a spare page, where the pool has one (R63, R64). -/
def State.growOne (n : NodeId) (s : State) : State :=
  match s.getPage with
  | none => s
  | some (p, t) => t.mapHist n (fun h => { h with ring := h.ring ++ [p] })

/-- A ring below its min is given pages until its page count equals the min (R64). -/
def State.growRing (s : State) (n : NodeId) : State :=
  times ((s.set n).quota.min - (s.nd n).hist.ring.length) (State.growOne n) s

/-- Pages held by the four rings (R70). -/
def State.consolePages (s : State) : Nat :=
  s.nodes.n0.hist.ring.length + s.nodes.n1.hist.ring.length + s.nodes.n2.hist.ring.length
    + s.nodes.n3.hist.ring.length

/-! ### Finding and counting entries -/

/-- The entry of a page (R99). -/
def State.tagged (s : State) (p : Nat) : Option Entry := s.entries.find? (fun e => e.page == p)

/-- The entry of a node's block (R99). -/
def State.entryFor (s : State) (n : NodeId) (lba : Nat) : Option Entry :=
  s.entries.find? (fun e => e.node == n && e.lba == lba)

def EntryState.isFilling : EntryState → Bool
  | .filling _ => true
  | _ => false

def EntryState.isValid : EntryState → Bool
  | .valid => true
  | _ => false

def EntryState.isDirty : EntryState → Bool
  | .dirty => true
  | _ => false

def EntryState.isFlushing : EntryState → Bool
  | .flushing _ _ _ => true
  | _ => false

/-- The entry holds data the node wrote that the image server has not acknowledged. -/
def EntryState.isUnstored (e : EntryState) : Bool := e.isDirty || e.isFlushing

/-- The node's entries in states that `f` accepts. -/
def State.countEntries (s : State) (n : NodeId) (f : EntryState → Bool) : Nat :=
  s.entries.countP (fun e => e.node == n && f e.state)

/-- The node's FILLING entries (R100). -/
def State.fillingCount (s : State) (n : NodeId) : Nat := s.countEntries n EntryState.isFilling

/-- The node's DIRTY and FLUSHING entries together (R100). -/
def State.unstoredCount (s : State) (n : NodeId) : Nat := s.countEntries n EntryState.isUnstored

/-! ### Changing and freeing entries -/

/-- Puts an entry into the table, which is kept in rising order of pages. -/
def insertEntry (e : Entry) : List Entry → List Entry
  | [] => [e]
  | f :: fs => if e.page ≤ f.page then e :: f :: fs else f :: insertEntry e fs

/-- Changes the state of the entry in page `p`. -/
def State.setEntry (s : State) (p : Nat) (st : EntryState) : State :=
  { s with entries := s.entries.map (fun e => if e.page = p then { e with state := st } else e) }

/-- The list without page `p`. -/
def without (p : Nat) (l : List Nat) : List Nat := l.filter (fun q => q != p)

/-- Frees an entry: it leaves the table and whichever list holds it, and its page is given back (R101). -/
def State.freeEntry (s : State) (e : Entry) : State :=
  (({ s with
      entries := s.entries.filter (fun f => f.page != e.page)
      lru := without e.page s.lru } : State).mapCache e.node (fun c =>
        { c with
          fetches := without e.page c.fetches
          queue := without e.page c.queue
          outstanding := without e.page c.outstanding })).givePage e.page

/-- Frees, one at a time, every entry that `f` accepts. -/
def State.freeWhere (s : State) (f : Entry → Bool) : State := (s.entries.filter f).foldl State.freeEntry s

/-- Creates a FILLING entry in page `p`; it joins the tail of the pending fetch list (R100, R103). -/
def State.newFilling (s : State) (n : NodeId) (lba p : Nat) : State :=
  ({ s with entries := insertEntry { page := p, node := n, lba := lba, state := .filling none } s.entries } : State).mapCache
    n (fun c => { c with fetches := c.fetches ++ [p] })

/-- Creates a DIRTY entry in page `p`; it joins the tail of the write-out queue (R100, R110). -/
def State.newDirty (s : State) (n : NodeId) (lba p : Nat) : State :=
  ({ s with entries := insertEntry { page := p, node := n, lba := lba, state := .dirty } s.entries } : State).mapCache
    n (fun c => { c with queue := c.queue ++ [p] })

/-- The entry becomes DIRTY and joins the tail of the write-out queue; it leaves the lists of the state it was in
(R96, R109, R110). -/
def State.makeDirty (s : State) (n : NodeId) (p : Nat) : State :=
  ({ s.setEntry p .dirty with lru := without p s.lru } : State).mapCache n (fun c =>
    { c with
      fetches := without p c.fetches
      outstanding := without p c.outstanding
      queue := c.queue ++ [p] })

/-- The entry becomes VALID and joins the most-recently-used end of the LRU list (R102). -/
def State.makeValid (s : State) (n : NodeId) (p : Nat) : State :=
  ({ s.setEntry p .valid with lru := without p s.lru ++ [p] } : State).mapCache n (fun c =>
    { c with
      fetches := without p c.fetches
      queue := without p c.queue
      outstanding := without p c.outstanding })

/-- The node is given the data of a VALID entry on a READ: it becomes the most recently used (R102). -/
def State.useEntry (s : State) (p : Nat) : State := { s with lru := without p s.lru ++ [p] }

/-! ### Fetches and write-outs -/

/-- The entries a MED_FETCH notice takes from the head of the list: a run of consecutive LBAs of at most `k`
(R104). -/
def fetchRun (s : State) : Nat → Nat → List Nat → List Nat
  | 0, _, _ => []
  | _ + 1, _, [] => []
  | k + 1, lba, p :: ps =>
    match s.tagged p with
    | none => []
    | some e => if e.lba = lba then p :: fetchRun s k (lba + 1) ps else []

/-- The LBA of the entry in page `p`, 0 where there is none. -/
def State.lbaOf (s : State) (p : Nat) : Nat := ((s.tagged p).map Entry.lba).getD 0

/-- The tags a MED_FETCH notice of node `n` carries now (R104). -/
def State.fetchTags (s : State) (n : NodeId) : List Nat :=
  match (s.nd n).cache.fetches with
  | [] => []
  | p :: ps => fetchRun s 16 (s.lbaOf p) (p :: ps)

/-- The fetches of `tags` have been sent: the entries leave the pending fetch list and receive their deadline
(R104). -/
def State.fetchesSent (s : State) (n : NodeId) (tags : List Nat) : State :=
  (tags.foldl (fun s p => s.setEntry p (.filling (some (s.clock.ticks + (s.set n).tuning.fetchTimeout)))) s).mapCache
    n (fun c => { c with fetches := c.fetches.drop tags.length })

/-- The head of the write-out queue is written out: it takes the next sequence number, becomes FLUSHING and joins
the outstanding list (R111, R112). -/
def State.writeOutHead (s : State) (n : NodeId) (p : Nat) : State :=
  (s.setEntry p (.flushing (s.nd n).cache.seq false (s.clock.ticks + (s.set n).tuning.storeTimeout))).mapCache n
    (fun c => { c with queue := c.queue.tail, outstanding := c.outstanding ++ [p], seq := c.seq + 1 })

/-- The write sequence number of the entry in page `p`. -/
def State.seqOf (s : State) (p : Nat) : Option Half :=
  match (s.tagged p).map Entry.state with
  | some (.flushing q _ _) => some q
  | _ => none

/-- oldest and newest of the outstanding list, absent when it is empty (R113). -/
def State.window (s : State) (n : NodeId) : Option (Half × Half) :=
  match (s.nd n).cache.outstanding with
  | [] => none
  | p :: ps =>
    match s.seqOf p with
    | none => none
    | some q => some (q, q + BitVec.ofNat 16 ps.length)

/-- The store deadline watched for node `n`: that of the front of its outstanding list, while the slot is READY or
WITHDRAWING (R117, R118). -/
def State.storeDeadline (s : State) (n : NodeId) : Option Nat :=
  match (s.nd n).media.slot with
  | none => none
  | some m =>
    if m.state = .faulted then none
    else
      match (s.nd n).cache.outstanding with
      | [] => none
      | p :: _ =>
        match (s.tagged p).map Entry.state with
        | some (.flushing _ _ d) => some d
        | _ => none

/-- The node's FLUSHING entries go back to DIRTY at the head of the write-out queue, in order of their numbers, each
losing its number, deadline and rewritten flag (R118, R119). -/
def State.returnFlushing (s : State) (n : NodeId) : State :=
  ((s.nd n).cache.outstanding.foldl (fun s p => s.setEntry p .dirty) s).mapCache n (fun c =>
    { c with queue := c.outstanding ++ c.queue, outstanding := [] })

end Sys2Proof.Machine
end

