-- ==== Sys2Proof/Machine/Media.lean ====
section
/-! DEFINITION. The Media Function's operations: range lists (R88, R91), ending a command (R74, R75, R79), withdrawal
(R81 to R86), the block list (R92 to R97) and read-ahead (R121). -/

namespace Sys2Proof.Machine

/-! ### Range lists -/

/-- The range covers the LBA. -/
def Range.covers (r : Range) (lba : Nat) : Bool := decide (r.first ≤ lba ∧ lba < r.first + r.count)

/-- Some range of the list covers the LBA. -/
def inRanges (t : List Range) (lba : Nat) : Bool := t.any (fun r => r.covers lba)

/-- Puts a range into a list sorted by first LBA. -/
def insertRange (r : Range) : List Range → List Range
  | [] => [r]
  | q :: qs => if r.first ≤ q.first then r :: q :: qs else q :: insertRange r qs

/-- Sorts ranges by first LBA (R88, step 2). -/
def sortRanges : List Range → List Range
  | [] => []
  | r :: rs => insertRange r (sortRanges rs)

/-- Merges `cur` with the ranges of a sorted list that overlap or touch it, and goes on with the rest (R88,
step 3). -/
def mergeFrom (cur : Range) : List Range → List Range
  | [] => [cur]
  | r :: rs =>
    if r.first ≤ cur.first + cur.count then
      mergeFrom { cur with count := max cur.count (r.first + r.count - cur.first) } rs
    else cur :: mergeFrom r rs

/-- Merges a sorted list (R88, step 3). -/
def mergeRanges : List Range → List Range
  | [] => []
  | r :: rs => mergeFrom r rs

/-- Clips a range to the capacity; one that starts at or beyond it is removed (R88, step 4). -/
def Range.clip (capacity : Nat) (r : Range) : Option Range :=
  if capacity ≤ r.first then none else some { r with count := min r.count (capacity - r.first) }

/-- The normal form of a range list (R88). -/
def normalRanges (capacity : Nat) (l : List Range) : List Range :=
  (mergeRanges (sortRanges (l.filter (fun r => r.count != 0)))).filterMap (Range.clip capacity)

/-- What remains of a range when a block inside it is written: a lower and a higher remnant, empty ones left out
(R91). -/
def Range.remnants (r : Range) (lba : Nat) : List Range :=
  [{ first := r.first, count := lba - r.first },
   { first := lba + 1, count := r.first + r.count - (lba + 1) }].filter (fun q => q.count != 0)

/-- The remnants a full table keeps: the longer one, the lower on a tie (R91). -/
def keepLonger : List Range → List Range
  | [lo, hi] => if hi.count ≤ lo.count then [lo] else [hi]
  | l => l

/-- Removes a written block from the zero table (R91). -/
def removeBlock (t : List Range) (lba : Nat) : List Range :=
  t.flatMap (fun r =>
    if r.covers lba then
      (if t.length < 16 then r.remnants lba else keepLonger (r.remnants lba))
    else [r])

/-! ### Commands and slots -/

/-- The slot of node `n`. -/
def State.slot (s : State) (n : NodeId) : Option Medium := (s.nd n).media.slot

/-- The slot of node `n` is READY. -/
def State.slotReady (s : State) (n : NodeId) : Bool :=
  match s.slot n with
  | some m => m.state == .ready
  | none => false

/-- Changes the slot record where there is a medium. -/
def State.mapSlot (s : State) (n : NodeId) (f : Medium → Medium) : State :=
  s.mapMedia n (fun m => { m with slot := m.slot.map f })

/-- The slot changes to a state other than ABSENT; a MED_STATE notice becomes pending (R76). -/
def State.slotTo (s : State) (n : NodeId) (st : SlotState) : State :=
  s.mapMedia n (fun m => { m with slot := m.slot.map (fun x => { x with state := st }), statePending := true })

/-- A command that is answered at once ends with a status and its data; the status becomes the last status (R73,
R74). -/
def State.answer (s : State) (n : NodeId) (st : NodeStatus) (d : PortData := .nothing) : State :=
  s.mapMedia n (fun m => { m with last := st, out := { status := some st, data := d } })

/-- The current READ or WRITE ends with a status: the block list is emptied and a block in the receive buffer is
dropped (R74, R79, R95, R97). The data given with the status stands in the port's latch. -/
def State.endCommand (s : State) (n : NodeId) (st : NodeStatus) (d : PortData := .nothing) : State :=
  s.mapMedia n (fun m =>
    { m with current := none, received := none, last := st, out := { status := some st, data := d } })

/-- The slot leaves READY: a current READ or WRITE ends NOT_READY (R79). -/
def State.leaveReady (s : State) (n : NodeId) : State :=
  if (s.nd n).media.current.isSome then s.endCommand n .notReady else s

/-- The current command is torn down without a status; the last status becomes GOOD. Without a current command
nothing changes (R74, R75). -/
def State.tearDown (s : State) (n : NodeId) : State :=
  if (s.nd n).media.current.isSome then
    s.mapMedia n (fun m =>
      { m with current := none, received := none, last := .good, out := { status := none, data := .nothing } })
  else s

/-- The slot becomes ABSENT: every field of the record and the continuation point become absent (R86). -/
def State.slotAbsent (s : State) (n : NodeId) : State :=
  s.mapMedia n (fun m => { m with slot := none, continuation := none, statePending := true })

/-- The end test of R82: a WITHDRAWING slot with no DIRTY or FLUSHING entry frees its remaining entries and becomes
ABSENT. -/
def State.drainEnd (s : State) (n : NodeId) : State :=
  match s.slot n with
  | none => s
  | some m =>
    if m.state = .withdrawing ∧ s.unstoredCount n = 0 then (s.freeWhere (fun e => e.node == n)).slotAbsent n else s

/-- A drain withdrawal is requested (R81). -/
def State.drain (s : State) (n : NodeId) : State :=
  match s.slot n with
  | none => s
  | some m =>
    if m.state = .withdrawing then s
    else
      let t := (s.slotTo n .withdrawing).leaveReady n
      let t := t.freeWhere (fun e => e.node == n && e.state.isFilling)
      let t := if m.state = .faulted then t.returnFlushing n else t
      t.drainEnd n

/-- MED_DETACH with DISCARD of a slot that is not ABSENT (R83). -/
def State.discard (s : State) (n : NodeId) : State :=
  ((s.leaveReady n).freeWhere (fun e => e.node == n)).slotAbsent n

/-- The ONCE rule at a boot event, with the boot number just reached (R85). -/
def State.onceRule (s : State) (n : NodeId) : State :=
  match s.slot n with
  | none => s
  | some m =>
    match m.present with
    | .persist => s
    | .once a => if 2 ≤ ((s.nd n).power.boot - a).toNat then s.drain n else s

/-! ### The block list -/

/-- What a READ block finds when it joins the list (R93). -/
def State.lookUp (s : State) (n : NodeId) (lba : Nat) : BlockStatus :=
  if ((s.slot n).map (fun m => inRanges m.zero lba)).getD false then .ready
  else
    match s.entryFor n lba with
    | none => .wanting
    | some e => if e.state.isFilling then .waiting else .ready

/-- The blocks not yet in the list that may join it now (R92). -/
def Command.joining (c : Command) : Nat := min (Config.listPlaces - c.list.length) (c.count - c.finished - c.list.length)

/-- The next blocks of the command join at the back of the list (R92, R93). -/
def State.joinBlocks (s : State) (n : NodeId) : State :=
  s.mapMedia n (fun m =>
    { m with current := m.current.map (fun c =>
        { c with list := c.list ++ (List.range c.joining).map (fun i =>
            let lba := c.lba + c.finished + c.list.length + i
            { lba := lba, status := if c.write then .ready else s.lookUp n lba }) }) })

/-- Changes the status of the place of an LBA in the block list. -/
def Command.mark (c : Command) (lba : Nat) (st : BlockStatus) : Command :=
  { c with list := c.list.map (fun p => if p.lba = lba then { p with status := st } else p) }

/-- Changes the current command. -/
def State.mapCommand (s : State) (n : NodeId) (f : Command → Command) : State :=
  s.mapMedia n (fun m => { m with current := m.current.map f })

/-- A block of the current READ waits on the entry of this LBA (R93). -/
def State.waitsOn (s : State) (n : NodeId) (lba : Nat) : Bool :=
  match (s.nd n).media.current with
  | none => false
  | some c => c.list.any (fun p => p.lba == lba && p.status == .waiting)

/-- The first block of the current READ that wants a FILLING entry, in LBA order (R92). -/
def Command.wanting (c : Command) : Option Nat :=
  if c.write then none else (c.list.find? (fun p => p.status == .wanting)).map (·.lba)

/-- The request of one READ block: below the FILLING cap it receives a page, the entry is created and its fetch
becomes pending (R92, R93, R100). `none` while no block wants an entry or the node is at its cap. -/
def State.serveRequest (s : State) (n : NodeId) : Option State :=
  match (s.nd n).media.current with
  | none => none
  | some c =>
    match c.wanting with
    | none => none
    | some lba =>
      if Config.fillingCap ≤ s.fillingCount n then none
      else
        match s.getPage with
        | none => none
        | some (p, t) => some ((t.newFilling n lba p).mapCommand n (fun c => c.mark lba .waiting))

/-- The requests of the list, one at a time in LBA order, until none is left or the node is at its cap (R92). -/
def State.serveRequests : Nat → NodeId → State → State
  | 0, _, s => s
  | k + 1, n, s =>
    match s.serveRequest n with
    | none => s
    | some t => State.serveRequests k n t

/-- The blocks of a command join, and those of a READ that need an entry make their requests (R92, R93). -/
def State.fillList (s : State) (n : NodeId) : State := State.serveRequests Config.listPlaces n (s.joinBlocks n)

/-! ### READ -/

/-- Read-ahead from `lba` on, over `k` blocks (R121, R68). -/
def State.readAhead : Nat → NodeId → Nat → State → State
  | 0, _, _, s => s
  | k + 1, n, lba, s =>
    match s.slot n with
    | none => s
    | some m =>
      if m.capacity ≤ lba then s
      else if inRanges m.zero lba then State.readAhead k n (lba + 1) s
      else if (s.entryFor n lba).isSome then State.readAhead k n (lba + 1) s
      else if Config.fillingCap ≤ s.fillingCount n then s
      else
        match s.takeFree with
        | none => s
        | some (p, t) => State.readAhead k n (lba + 1) (t.newFilling n lba p)

/-- A READ whose last block has been delivered ends GOOD: a READ that started at the continuation point is followed
by read-ahead, and the continuation point moves past it (R95). -/
def State.endRead (s : State) (n : NodeId) (c : Command) (d : PortData) : State :=
  let e := c.lba + c.count
  let t := s.endCommand n .good d
  let t :=
    if (s.nd n).media.continuation = some c.lba then
      State.readAhead (s.set n).tuning.readAhead n e t
    else t
  t.mapMedia n (fun m => { m with continuation := some e })

/-- The front block of a READ has been given to the node: it leaves the list, and the READ ends or its next block
joins (R92, R95). -/
def State.delivered (s : State) (n : NodeId) (c : Command) (bytes : List Byte) : State :=
  let c : Command := { c with finished := c.finished + 1, list := c.list.tail }
  if c.list = [] ∧ c.finished = c.count then
    (s.mapMedia n (fun m => { m with current := some c })).endRead n c (.block bytes)
  else
    (s.mapMedia n (fun m =>
      { m with current := some c, out := { status := none, data := .block bytes } })).fillList n

/-- The host asks for data and the front block is ready: it is looked up again (R94). -/
def State.deliverFront (s : State) (n : NodeId) (c : Command) (p : BlockPlace) : State :=
  if ((s.slot n).map (fun m => inRanges m.zero p.lba)).getD false then s.delivered n c zeroBlock
  else
    match s.entryFor n p.lba with
    | none => State.serveRequests Config.listPlaces n (s.mapCommand n (fun c => c.mark p.lba .wanting))
    | some e =>
      match e.state with
      | .filling _ => s.mapCommand n (fun c => c.mark p.lba .waiting)
      | .valid => (s.useEntry e.page).delivered n c (s.mem.page e.page)
      | .dirty => s.delivered n c (s.mem.page e.page)
      | .flushing _ _ _ => s.delivered n c (s.mem.page e.page)

/-! ### WRITE -/

/-- The write policy of node `n` is ACKED. -/
def State.ackedPolicy (s : State) (n : NodeId) : Bool :=
  match s.slot n with
  | some m => m.policy == .acked
  | none => false

/-- A WRITE whose last block has been accepted ends GOOD: under CACHED at once, under ACKED when its unstored count
is 0 (R97, R120). -/
def State.writeTest (s : State) (n : NodeId) : State :=
  match (s.nd n).media.current with
  | none => s
  | some c =>
    if c.write ∧ c.finished = c.count ∧ (s.ackedPolicy n = false ∨ c.unstored = 0) then s.endCommand n .good else s

/-- The accepted block leaves the list and the next one joins; an ACKED WRITE counts it as unstored; the WRITE may end
(R92, R96, R120). -/
def State.accepted (s : State) (n : NodeId) : State :=
  let t := s.mapMedia n (fun m =>
    { m with
      received := none
      current := m.current.map (fun c =>
        { c with
          finished := c.finished + 1
          list := c.list.tail
          unstored := if s.ackedPolicy n then c.unstored + 1 else c.unstored }) })
  (t.joinBlocks n).writeTest n

/-- The block is removed from the zero table, and its data is written into page `p` (R91, R96). -/
def State.placeBlock (s : State) (n : NodeId) (lba p : Nat) (bytes : List Byte) : State :=
  let t := s.mapSlot n (fun m => { m with zero := removeBlock m.zero lba })
  { t with mem := t.mem.writePage p bytes }

/-- The node is at its dirty cap (R92). -/
def State.atDirtyCap (s : State) (n : NodeId) : Bool := decide (Config.dirtyCap ≤ s.unstoredCount n)

/-- The buffered front block finds no entry: below the dirty cap it receives a page, and a new DIRTY entry holds its
data (R96). -/
def State.acceptNew (s : State) (n : NodeId) (lba : Nat) (bytes : List Byte) : State :=
  if s.atDirtyCap n then s
  else
    match s.getPage with
    | none => s
    | some (p, t) => ((t.placeBlock n lba p bytes).newDirty n lba p).accepted n

/-- The buffered front block is accepted by the entry found (R96, R109). A block that would add to the dirty count
waits at the cap. -/
def State.acceptFront (s : State) (n : NodeId) (lba : Nat) (bytes : List Byte) : State :=
  match s.entryFor n lba with
  | none => s.acceptNew n lba bytes
  | some e =>
    match e.state with
    | .dirty => (s.placeBlock n lba e.page bytes).accepted n
    | .flushing q _ d => ((s.placeBlock n lba e.page bytes).setEntry e.page (.flushing q true d)).accepted n
    | _ => if s.atDirtyCap n then s else ((s.placeBlock n lba e.page bytes).makeDirty n e.page).accepted n

/-- The front block of a current WRITE and the data in the receive buffer (R96). -/
def State.buffered (s : State) (n : NodeId) : Option (Nat × List Byte) :=
  match (s.nd n).media.current, (s.nd n).media.received with
  | some c, some bytes => if c.write then c.list.head?.map (fun p => (p.lba, bytes)) else none
  | _, _ => none

end Sys2Proof.Machine
end

