-- ==== Sys2Proof/Machine/Power.lean ====
section
/-! DEFINITION. The Power Controller's operations: changes of the node condition (R128), boot events (R129), the
phases of an action (R132 to R141), its end and what follows (R142, R145), submissions (R143, R144) and the changes
of pg (R127, R151); and the Liveness Monitor's expiries that submit actions (R157, R159 to R161). -/

namespace Sys2Proof.Machine

/-! ### Notices, condition, feed line -/

/-- A PWR_STATE notice becomes pending (R149). -/
def State.powerNotice (s : State) (n : NodeId) : State := s.mapPower n (fun p => { p with statePending := true })

/-- The condition of node `n` was `old` and has been re-derived: a change makes a PWR_STATE notice pending and is
handed to the Line Unit (into and out of CUT) and the Liveness Monitor (out of ON, and into ON where no boot event
comes with it) (R128, R154). -/
def State.conditionChange (s : State) (n : NodeId) (old : Condition) (withBoot : Bool) : State :=
  let new := s.condition n
  if new = old then s
  else
    let t := s.powerNotice n
    let t := if new = .cut then t.lineEntersCut n else if old = .cut then t.lineLeavesCut n else t
    if old = .on then t.liveLeavesOn n
    else if new = .on ∧ withBoot = false then t.liveBecomesOn n
    else t

/-- FEED_CUTn is asserted: CUT is recorded and the condition becomes CUT (R128, R136). -/
def State.assertFeedCut (s : State) (n : NodeId) : State :=
  let t := s.mapPower n (fun p => { p with feedCut := true })
  (t.record n .cut).conditionChange n (s.condition n) false

/-- FEED_CUTn is released: the condition becomes OFF or ON by pg (R128, R133). -/
def State.releaseFeedCut (s : State) (n : NodeId) : State :=
  (s.mapPower n (fun p => { p with feedCut := false })).conditionChange n (s.condition n) false

/-- pg of node `n` is high. -/
def State.pgHigh (s : State) (n : NodeId) : Bool := (s.nd n).power.pg == .high

/-! ### Boot events -/

/-- A boot event reaches the Watch Unit: every progress and every hit-since-boot flag is cleared (R53, R54). -/
def State.watchBoot (s : State) (n : NodeId) : State :=
  s.mapWatch n (fun ps => ps.map (fun _ => { progress := 0, hit := false }))

/-- A boot event: the boot number grows by one, BOOT is recorded, a PWR_STATE notice becomes pending, and the four
consumers react (R129). -/
def State.bootEvent (s : State) (n : NodeId) : State :=
  let t := (s.mapPower n (fun p => { p with boot := p.boot + 1 })).record n .boot
  let t := (t.powerNotice n).rearmLine n
  ((t.watchBoot n).liveBoot n).onceRule n

/-! ### Phases -/

/-- Releases the three button lines. -/
def State.releaseButtons (s : State) (n : NodeId) : State :=
  s.mapPower n (fun p => { p with btnPwr := false, btnRst := false, diag := false })

/-- The button lines an action phase names (R126): BTN_PWRn in PRESS and HOLD, BTN_RSTn in the PULSE of RESET,
DIAGn in the PULSE of DIAG. -/
def phaseLines (k : ActionKind) (ph : Phase) : Bool × Bool × Bool :=
  (ph = .press ∨ ph = .hold, ph = .pulse ∧ k = .reset, ph = .pulse ∧ k = .diag)

/-- The current action enters a phase of `ms` ticks: the record and the lines follow, and a PWR_STATE notice becomes
pending (R126, R132). -/
def State.enterPhase (s : State) (n : NodeId) (a : Action) (ph : Phase) (ms : Nat) : State :=
  s.mapPower n (fun p =>
    { p with
      btnPwr := (phaseLines a.kind ph).1
      btnRst := (phaseLines a.kind ph).2.1
      diag := (phaseLines a.kind ph).2.2
      statePending := true
      ctrl := match p.ctrl with
        | .acting _ q ab => .acting { a with phase := ph, ends := s.clock.ticks + ms } q ab
        | c => c })

/-- The timings of node `n` in force. -/
def State.timings (s : State) (n : NodeId) : Timings := (s.set n).timings

/-- The ON sequence begins (R133, R138): from CUT the feed is released, and the action has ended DONE (`true`) when
pg is high then, else SETTLE starts; from OFF, PRESS starts. -/
def State.beginOn (s : State) (n : NodeId) (a : Action) : State × Bool :=
  let a := { a with onPart := true }
  if s.condition n = .cut then
    let t := s.releaseFeedCut n
    if t.pgHigh n then (t, true) else (t.enterPhase n a .settle (s.timings n).settle, false)
  else if s.pgHigh n then (s, true)
  else (s.enterPhase n a .press (s.timings n).press, false)

/-- The feed is cut (R136): CUT_CHECK starts while pg is high; `true` where pg is low at that moment. -/
def State.beginCut (s : State) (n : NodeId) (a : Action) : State × Bool :=
  let t := s.assertFeedCut n
  if t.pgHigh n then (t.enterPhase n a .cutCheck (s.timings n).cutCheck, false) else (t, true)

/-- DWELL of a CYCLE starts (R138). -/
def State.beginDwell (s : State) (n : NodeId) (a : Action) : State :=
  s.enterPhase n a .dwell (s.timings n).dwell

/-- The first step of the current action; `true` where it ends DONE at once (R133 to R140). -/
def State.firstStep (s : State) (n : NodeId) (a : Action) : State × Bool :=
  match a.kind with
  | .on => s.beginOn n a
  | .offSoft => (s.enterPhase n a .press (s.timings n).press, false)
  | .offHard => (s.enterPhase n a .hold (s.timings n).hold, false)
  | .cut => s.beginCut n a
  | .reset => (s.enterPhase n a .pulse (s.timings n).resetPulse, false)
  | .diag => (s.enterPhase n a .pulse (s.timings n).diagPulse, false)
  | .cycle =>
    if s.condition n = .on then
      match a.method with
      | .soft => (s.enterPhase n a .press (s.timings n).press, false)
      | .hard => (s.enterPhase n a .hold (s.timings n).hold, false)
      | .cut =>
        let r := s.beginCut n a
        if r.2 then (r.1.beginDwell n a, false) else r
    else (s.beginDwell n a, false)

/-- The precondition of an action on the node condition (spec 07, actions). -/
def ActionKind.allowed (k : ActionKind) (c : Condition) : Bool :=
  match k with
  | .on => c == .off || c == .cut
  | .offSoft => c == .on
  | .offHard => c == .on
  | .reset => c == .on
  | .diag => c == .on
  | .cut => c == .off || c == .on
  | .cycle => c == .on || c == .off

/-- An action becomes the current action, ACTION_START is recorded, a PWR_STATE notice becomes pending, and its first
step begins; `true` where it ends DONE at once (R132). -/
def State.startAction (s : State) (n : NodeId) (k : ActionKind) (src : Source) : State × Bool :=
  let a : Action :=
    { kind := k, source := src, phase := .none, ends := s.clock.ticks, escalated := false,
      method := (s.set n).choices.method, onPart := false }
  let t := s.mapPower n (fun p => { p with ctrl := .acting a none false, statePending := true })
  (t.record n .actionStart (packDetail k.code src.code)).firstStep n a

/-! ### Ending an action -/

/-- Appends a final record to the ended list, which keeps the newest 4 and counts what it loses (R149). -/
def Power.addEnded (r : FinalRecord) (p : Power) : Power :=
  if p.ended.length < 4 then { p with ended := p.ended ++ [r] }
  else { p with ended := p.ended.tail ++ [r], endedLost := min 255 (p.endedLost + 1) }

/-- A LIVENESS action's end is reported to the monitor, which does not follow a warning DIAG (R142, R157, R161). -/
def State.reportEnd (s : State) (n : NodeId) (r : FinalRecord) : State :=
  if r.source = .liveness ∧ r.kind ≠ .diag then
    s.recoveryReport n (r.result = .failed ∨ r.result = .refused ∨ r.result = .discarded)
  else s

/-- An action has ended: ACTION_END is recorded with its kind and result, its final record joins the ended list, a
PWR_STATE notice becomes pending, and the monitor is told (R142, R145). The entry names the source of the action (R58, R165)
beside its detail, which kind and result fill (R32, notes/assumptions/35.md). -/
def State.recordEnd (s : State) (n : NodeId) (r : FinalRecord) : State :=
  let t := s.record n (.actionEnd r.source.code) (packDetail r.kind.code r.result.code)
  ((t.mapPower n (Power.addEnded r)).powerNotice n).reportEnd n r

/-- The final record of the current action. -/
def Action.final (a : Action) (r : ActionResult) (c : Option LockCause) : FinalRecord :=
  { kind := a.kind, source := a.source, result := r, cause := c, escalated := a.escalated }

/-- The final record of an action that has not started. -/
def Queued.final (q : Queued) (r : ActionResult) : FinalRecord :=
  { kind := q.kind, source := q.source, result := r, cause := none, escalated := false }

/-- The controller's state. -/
def State.ctrlTo (s : State) (n : NodeId) (c : Controller) : State := s.mapPower n (fun p => { p with ctrl := c })

/-- The current action, with nothing queued behind it, ends without a lock and the controller enters IDLE (R142). -/
def State.finishLast (s : State) (n : NodeId) (a : Action) (r : ActionResult) : State :=
  ((s.releaseButtons n).ctrlTo n .idle).recordEnd n (a.final r none)

/-- An action starts where nothing is queued; one that ends at once leaves the controller IDLE (R132, R142). -/
def State.launch (s : State) (n : NodeId) (k : ActionKind) (src : Source) : State :=
  let r := s.startAction n k src
  if r.2 then
    match (r.1.nd n).power.ctrl with
    | .acting a _ _ => r.1.finishLast n a .done
    | _ => r.1
  else r.1

/-- The queued action comes up: it starts when its precondition holds, and ends REFUSED when it does not (R145). -/
def State.comeUp (s : State) (n : NodeId) (q : Queued) : State :=
  if q.kind.allowed (s.condition n) then s.launch n q.kind q.source
  else s.recordEnd n (q.final .refused)

/-- The current action ends without a lock: it is recorded, and the queued action comes up or the controller enters
IDLE (R142, R145). -/
def State.finish (s : State) (n : NodeId) (r : ActionResult) : State :=
  match (s.nd n).power.ctrl with
  | .acting a q _ =>
    let t := s.finishLast n a r
    match q with
    | none => t
    | some q => t.comeUp n q
  | _ => s

/-- The current action ends FAILED with a lock cause: the controller enters LOCKED, the monitor is told, and a queued
action ends DISCARDED (R142, R145). -/
def State.lock (s : State) (n : NodeId) (c : LockCause) : State :=
  match (s.nd n).power.ctrl with
  | .acting a q _ =>
    let t := ((s.releaseButtons n).ctrlTo n (.locked c)).recordEnd n (a.final .failed (some c))
    let t := t.recoveryReport n true
    match q with
    | none => t
    | some q => t.recordEnd n (q.final .discarded)
  | _ => s

/-! ### Submitting -/

/-- What becomes of a submission (R143). -/
inductive Disposition where
  | started | queued
  | refused (r : Result)
deriving DecidableEq, Repr

/-- How the controller judges a submission now (R143, R144). -/
def State.judge (s : State) (n : NodeId) (k : ActionKind) : Disposition :=
  match (s.nd n).power.ctrl with
  | .locked _ => .refused .locked
  | .idle =>
    if k.allowed (s.condition n) ∧ (s.nd n).power.pg ≠ .settling then .started else .refused .badState
  | .acting _ none _ => .queued
  | .acting _ (some _) _ => .refused .busy

/-- A submission is carried out as judged; a refused one changes nothing (R143, R144). -/
def State.submit (s : State) (n : NodeId) (k : ActionKind) (src : Source) : State :=
  match s.judge n k with
  | .started => s.launch n k src
  | .queued =>
    s.mapPower n (fun p =>
      { p with
        statePending := true
        ctrl := match p.ctrl with
          | .acting a _ ab => .acting a (some { kind := k, source := src }) ab
          | c => c })
  | .refused _ => s

/-! ### Phases that end by their timer -/

/-- The current action in phase `ph`. -/
def State.inPhase (s : State) (n : NodeId) (ph : Phase) : Option Action :=
  match (s.nd n).power.ctrl with
  | .acting a _ _ => if a.phase = ph then some a else none
  | _ => none

/-- A PHASE_END abort lets the current phase finish (R146). -/
def State.aborting (s : State) (n : NodeId) : Bool :=
  match (s.nd n).power.ctrl with
  | .acting _ _ ab => ab
  | _ => false

/-- AWAIT_DOWN is the hard-off check after a hold, not the soft-off wait (R134, R135, R137). -/
def Action.afterHold (a : Action) : Bool :=
  a.escalated || a.kind == .offHard || (a.kind == .cycle && a.method == .hard)

/-- An OFF_SOFT or SOFT CYCLE goes on to a hold (R134, R137). -/
def State.escalate (s : State) (n : NodeId) (a : Action) : State :=
  s.enterPhase n { a with escalated := true } .hold (s.timings n).hold

/-- SETTLE ends: PRESS begins (R133). -/
def State.settleEnds (s : State) (n : NodeId) (a : Action) : State :=
  s.enterPhase n a .press (s.timings n).press

/-- PRESS ends: an abort ends the action; otherwise AWAIT_UP or AWAIT_DOWN begins (R133, R134, R147). -/
def State.pressEnds (s : State) (n : NodeId) (a : Action) : State :=
  if s.aborting n then s.finish n .aborted
  else if a.onPart then s.enterPhase n a .awaitUp (s.timings n).startWait
  else s.enterPhase n a .awaitDown (s.timings n).softOffWait

/-- HOLD ends: an abort ends the action; otherwise the hard-off check begins (R135, R147). -/
def State.holdEnds (s : State) (n : NodeId) (a : Action) : State :=
  if s.aborting n then s.finish n .aborted
  else s.enterPhase n a .awaitDown (s.timings n).hardOffCheck

/-- AWAIT_DOWN expires with pg high: after a hold the controller locks; an OFF_SOFT fails or escalates by the choice
in force, and a CYCLE escalates (R134, R135, R137). -/
def State.awaitDownExpires (s : State) (n : NodeId) (a : Action) : State :=
  if a.afterHold then s.lock n .holdIneffective
  else if a.kind = .cycle ∨ (s.set n).choices.escalation = .hard then s.escalate n a
  else s.finish n .failed

/-- DWELL expires: the ON sequence runs from the present condition (R138). -/
def State.dwellExpires (s : State) (n : NodeId) (a : Action) : State :=
  let r := s.beginOn n a
  if r.2 then r.1.finish n .done else r.1

/-- PULSE ends: the line is released; a RESET raises a boot event; the action ends DONE, or ABORTED while an abort
lets the phase finish (R139, R140, R147). -/
def State.pulseEnds (s : State) (n : NodeId) (a : Action) : State :=
  let t := s.releaseButtons n
  let t := if a.kind = .reset then t.bootEvent n else t
  t.finish n (if s.aborting n then .aborted else .done)

/-! ### Changes of pg -/

/-- A rise of pg ends the current phase early (spec 07, phase table; R133, R138). -/
def Action.endsOnRise (a : Action) : Bool :=
  match a.phase with
  | .settle => true
  | .awaitUp => true
  | .dwell => true
  | .press => a.onPart
  | _ => false

/-- A fall of pg ends the current phase early (spec 07, phase table; R134 to R137, R139). -/
def Action.endsOnFall (a : Action) : Bool :=
  match a.phase with
  | .press => !a.onPart
  | .awaitDown => true
  | .hold => true
  | .cutCheck => true
  | .pulse => a.kind == .reset
  | _ => false

/-- A rise reaches the running action: it ends DONE, or ABORTED while an abort lets the phase finish; a feed that a
CYCLE cut is released as it ends in DWELL (R133, R138, R147). -/
def State.actionRise (s : State) (n : NodeId) : State :=
  match (s.nd n).power.ctrl with
  | .acting a _ ab =>
    if a.endsOnRise then
      if ab then s.finish n .aborted
      else if a.phase = .dwell ∧ (s.nd n).power.feedCut then (s.releaseFeedCut n).finish n .done
      else s.finish n .done
    else s
  | _ => s

/-- A fall reaches the running action: the off part of a CYCLE goes on to DWELL, a RESET locks, any other action that
waits for it ends DONE; while an abort lets the phase finish it ends ABORTED (R134 to R139, R147). -/
def State.actionFall (s : State) (n : NodeId) : State :=
  match (s.nd n).power.ctrl with
  | .acting a _ ab =>
    if a.endsOnFall then
      if ab then s.finish n .aborted
      else if a.kind = .reset then s.lock n .resetDroppedPower
      else if a.kind = .cycle then s.beginDwell n a
      else s.finish n .done
    else s
  | _ => s

/-- The initial acceptance of pg after a part reset: not a boot event (R151, R154). -/
def State.initialPg (s : State) (n : NodeId) (high : Bool) : State :=
  let t := s.mapPower n (fun p => { p with pg := if high then .high else .low, debounce := none })
  let t := if high then t.record n .pgUp else t
  (t.powerNotice n).conditionChange n (s.condition n) false

/-- An accepted rise of pg: PG_UP, the condition, the boot event, then the running action (R127 to R129). -/
def State.pgRise (s : State) (n : NodeId) : State :=
  let t := (s.mapPower n (fun p => { p with pg := .high, debounce := none })).record n .pgUp
  let t := (t.powerNotice n).conditionChange n (s.condition n) true
  (t.bootEvent n).actionRise n

/-- An accepted fall of pg: PG_DOWN, the condition, then the running action (R127, R128). -/
def State.pgFall (s : State) (n : NodeId) : State :=
  let t := (s.mapPower n (fun p => { p with pg := .low, debounce := none })).record n .pgDown
  let t := (t.powerNotice n).conditionChange n (s.condition n) false
  t.actionFall n

/-- The level of PG_SENSEn is accepted as pg (R127, R151). -/
def State.acceptPg (s : State) (n : NodeId) : State :=
  let high := (s.nd n).power.sense
  match (s.nd n).power.pg with
  | .settling => s.initialPg n high
  | .low => if high then s.pgRise n else s.mapPower n (fun p => { p with debounce := none })
  | .high => if high then s.mapPower n (fun p => { p with debounce := none }) else s.pgFall n

/-- PG_SENSEn reads a level other than pg, or pg is settling. -/
def Power.unsettled (p : Power) : Bool :=
  match p.pg with
  | .settling => true
  | .low => p.sense
  | .high => !p.sense

/-- The debounce interval starts, restarts or stops after a change of PG_SENSEn; with a debounce time of 0 the level
is accepted at once (R127, R151). -/
def State.debouncePg (s : State) (n : NodeId) : State :=
  if (s.nd n).power.unsettled then
    if (s.timings n).debounce = 0 then s.acceptPg n
    else s.mapPower n (fun p => { p with debounce := some (s.clock.ticks + (s.timings n).debounce) })
  else s.mapPower n (fun p => { p with debounce := none })

/-! ### The monitor's submissions -/

/-- The timeout expires: the monitor enters WARNED, the warning count grows, and NOTICE_DIAG submits a DIAG (R157). -/
def State.warn (s : State) (n : NodeId) : State :=
  let t := s.mapLive n (fun l =>
    { Live.enter (.warned (s.after (s.set n).live.warn)) l with warnings := min 255 (l.warnings + 1) })
  match (s.set n).live.warning with
  | .notice => t
  | .noticeDiag => t.submit n .diag .liveness

/-- A recovery is deferred: the deferral count grows and GRACE starts afresh (R160). -/
def State.defer (s : State) (n : NodeId) : State :=
  (s.mapLive n (fun l => { l with deferrals := min 255 (l.deferrals + 1) })).enterGrace n

/-- A recovery is submitted (R161). -/
def State.recover (s : State) (n : NodeId) (k : ActionKind) : State :=
  (s.mapLive n (fun l =>
    { Live.enter .recovering l with recoveries := l.recoveries + 1, outstanding := true })).submit n k .liveness

/-- The warn period expires: exhaustion, deferral or submission, decided in this order (R159). -/
def State.warnExpires (s : State) (n : NodeId) : State :=
  if (s.nd n).live.recoveries = (s.set n).live.maxRecoveries then s.exhaust n .maxReached
  else
    match (s.set n).live.recovery with
    | .none => s.exhaust n .noRecovery
    | .reset => decide_ .reset
    | .cycle => decide_ .cycle
where
  /-- Steps 2 to 4 of R159. -/
  decide_ (k : ActionKind) : State :=
    match (s.nd n).power.ctrl with
    | .locked _ => s.exhaust n .controllerLocked
    | .acting _ _ _ => s.defer n
    | .idle => s.recover n k

end Sys2Proof.Machine
end

