-- ==== Sys2Proof/Machine/Layout.lean ====
section
/-! DEFINITION. The byte layouts of frames, shared records, settings and notices (R167, R193, spec 11). -/

namespace Sys2Proof.Machine

/-! ### Frames -/

/-- LEN, KIND, TAG, NODE and PAYLOAD of a frame, in the order they are sent (R167). -/
def Frame.body (f : Frame) : List Byte :=
  leBytes 2 (f.payload.length + 3) ++ f.kind :: f.tag :: f.node :: f.payload

/-- The bytes of a frame on the line: START, the body and the CRC over the body, low byte first (R167, R168). -/
def Frame.wire (f : Frame) : List Byte := 0xA5 :: f.body ++ leBytes 2 (crc16 f.body).toNat

/-! ### Shared records -/

/-- An offset field that may be absent (R193). -/
def offsetField (o : Option Nat) : List Byte := leBytes 6 (o.getD absentOffset)

/-- Event entry, 11 bytes. -/
def Event.layout (e : Event) : List Byte :=
  leBytes 6 e.offset ++ BitVec.ofNat 8 e.kind.code :: leBytes 2 e.detail.toNat ++ leBytes 2 e.boot.toNat

/-- Action record, 11 bytes. -/
def recordLayout (k : ActionKind) (src : Source) (ph : Phase) (flags result cause : Byte) (remaining : Nat) : List Byte :=
  [k.code, src.code, src.tag, ph.code, flags, result, cause] ++ leBytes 4 remaining

/-- A place that holds no record: 11 bytes of 0. -/
def noRecord : List Byte := List.replicate 11 0

/-- The current action's record, with the time remaining in its phase (R149). -/
def Action.layout (a : Action) (aborting : Bool) (remaining : Nat) : List Byte :=
  recordLayout a.kind a.source a.phase (flagByte a.escalated aborting) 0 0 remaining

/-- The queued action's record. -/
def Queued.layout (q : Queued) : List Byte := recordLayout q.kind q.source .none 0 0 0 0

/-- A final record. -/
def FinalRecord.layout (r : FinalRecord) : List Byte :=
  recordLayout r.kind r.source .none (flagByte r.escalated) r.result.code (causeCode r.cause) 0

/-- Lock cause of a controller, absent unless it is LOCKED. -/
def Controller.cause : Controller → Option LockCause
  | .locked c => some c
  | _ => none

/-- The two action records of a power state block. -/
def State.actionRecords (s : State) (n : NodeId) : List Byte :=
  match (s.nd n).power.ctrl with
  | .acting a q ab =>
    a.layout ab (s.remaining a.ends) ++ (match q with
      | some q => q.layout
      | none => noRecord)
  | _ => noRecord ++ noRecord

/-- Power state block, 28 bytes. -/
def State.powerBlock (s : State) (n : NodeId) : List Byte :=
  let p := (s.nd n).power
  p.condition.code :: p.pg.code :: leBytes 2 p.boot.toNat ++ [p.ctrl.code, causeCode p.ctrl.cause]
    ++ s.actionRecords n

/-- PWR_STATE content, 30 to 74 bytes (R149). -/
def State.powerContent (s : State) (n : NodeId) : List Byte :=
  let p := (s.nd n).power
  s.powerBlock n ++ [BitVec.ofNat 8 p.ended.length, BitVec.ofNat 8 p.endedLost] ++ p.ended.flatMap FinalRecord.layout

/-- Slot block, 14 bytes; in ABSENT every field after the state is 0. -/
def slotBlock : Option Medium → List Byte
  | none => List.replicate 14 0
  | some m =>
    let boot := match m.present with
      | .once a => some a
      | .persist => none
    [m.state.code, flagByte m.removable m.changed boot.isSome] ++ leBytes 4 m.imageId ++ leBytes 4 m.capacity
      ++ [m.policy.code, m.present.code] ++ leBytes 2 (boot.getD 0).toNat

/-- A range on the link: first LBA (4) and count (4). -/
def Range.layout (r : Range) : List Byte := leBytes 4 r.first ++ leBytes 4 r.count

/-- Sequence flags, oldest and newest of the outstanding list (R113). -/
def State.sequenceFields (s : State) (n : NodeId) : List Byte :=
  match s.window n with
  | none => 0 :: leBytes 2 0 ++ leBytes 2 0
  | some (o, w) => 1 :: leBytes 2 o.toNat ++ leBytes 2 w.toNat

/-- Media state block, 34 to 226 bytes (R123, R124). -/
def State.mediaBlock (s : State) (n : NodeId) : List Byte :=
  let c := (s.nd n).cache
  let m := s.slot n
  let zero := (m.map (·.zero)).getD []
  let protect := (m.map (·.protect)).getD []
  slotBlock m ++ leBytes 2 (s.fillingCount n) ++ leBytes 2 (s.countEntries n EntryState.isValid)
    ++ leBytes 2 (s.countEntries n EntryState.isDirty) ++ leBytes 2 (s.countEntries n EntryState.isFlushing)
    ++ leBytes 1 c.fetches.length ++ leBytes 1 (s.fillingCount n - c.fetches.length)
    ++ s.sequenceFields n ++ leBytes 2 c.seq.toNat ++ leBytes 1 c.queue.length
    ++ leBytes 1 zero.length ++ leBytes 1 protect.length
    ++ zero.flatMap Range.layout ++ protect.flatMap Range.layout

/-- The ms that remain to a deadline, or `absent` where there is none. -/
def State.remainingField (s : State) (absent : Nat) (e : Option Nat) : List Byte :=
  leBytes 4 ((e.map s.remaining).getD absent)

/-- Liveness state block, 17 bytes (R165). -/
def State.liveBlock (s : State) (n : NodeId) : List Byte :=
  let l := (s.nd n).live
  [l.monitor.code, l.monitor.causeCode, BitVec.ofNat 8 l.recoveries, BitVec.ofNat 8 (s.set n).live.maxRecoveries,
    l.monitor.period.1]
    ++ s.remainingField 0 l.monitor.period.2 ++ s.remainingField 0xFFFFFFFF l.monitor.stableEnds
    ++ [flagByte l.outstanding, BitVec.ofNat 8 l.warnings, BitVec.ofNat 8 l.deferrals, (s.set n).live.kicks]

/-! ### Settings in replies -/

/-- The eleven timings in their order on the link. -/
def Timings.toList (t : Timings) : List Nat :=
  [t.debounce, t.settle, t.press, t.hold, t.resetPulse, t.diagPulse, t.startWait, t.softOffWait, t.hardOffCheck,
    t.cutCheck, t.dwell]

/-- Timings and choices, 47 bytes. -/
def timingLayout (t : Timings) (c : Choices) : List Byte :=
  t.toList.flatMap (leBytes 4) ++ [c.escalation.code, c.method.code, c.abort.code]

/-- Liveness settings, 15 bytes. -/
def LiveSettings.layout (l : LiveSettings) : List Byte :=
  flagByte l.enable :: leBytes 2 l.timeout ++ leBytes 2 l.warn ++ leBytes 2 l.grace ++ leBytes 4 l.stable
    ++ [BitVec.ofNat 8 l.maxRecoveries, l.warning.code, l.recovery.code, l.kicks]

/-- Media tuning, 7 bytes. -/
def Tuning.layout (t : Tuning) : List Byte :=
  leBytes 1 t.readAhead ++ leBytes 2 t.fetchTimeout ++ leBytes 4 t.storeTimeout

/-- Delivery settings in the CON_DELIVERY_SET reply. -/
def DeliverySettings.layout (d : DeliverySettings) : List Byte :=
  flagByte d.follow :: leBytes 2 d.count ++ leBytes 2 d.delay ++ leBytes 1 d.gap ++ leBytes 2 d.mask.toNat

/-- The quotas of the four nodes, min first (POOL_SET). -/
def State.quotaLayout (s : State) : List Byte :=
  NodeId.all.flatMap (fun n => [BitVec.ofNat 8 (s.set n).quota.min, BitVec.ofNat 8 (s.set n).quota.max])

/-- The pool counts free, console and media (R70). -/
def State.poolCounts (s : State) : List Byte :=
  leBytes 2 s.free.length ++ leBytes 2 s.consolePages ++ leBytes 2 s.entries.length

/-- Node summary of PART_STATUS, 7 bytes (R181). -/
def State.nodeSummary (s : State) (n : NodeId) : List Byte :=
  let x := s.nd n
  [x.power.condition.code, flagByte (x.power.pg == .settling), x.power.ctrl.code, x.live.monitor.code,
    slotCode x.media.slot, BitVec.ofNat 8 x.hist.ring.length, x.line.autobaud.code]

/-- Save state code (R187). -/
def Store.saveCode (t : Store) : Byte := if t.save.isSome then 1 else 0

end Sys2Proof.Machine
end

