-- ==== Sys2Proof/Machine/Link.lean ====
section
/-! DEFINITION. The Management Link: receiving frames (R169 to R171), taking requests and making replies (R173 to
R176), and the outbound arbiter (R177 to R180). -/

namespace Sys2Proof.Machine

/-! ### Receiving -/

/-- The receiver discards what it was assembling: DISCARDED is set and it is HUNTING again (R170). -/
def Link.discard (l : Link) : Link := { l with assembling := none, discarded := true }

/-- An inbound buffer is free (R171). -/
def Link.bufferFree (l : Link) : Bool := decide (l.complete.length < Config.inboundBuffers)

/-- The LEN field of the bytes after START. -/
def lenOf (bytes : List Byte) : Nat := leNat (bytes.take 2)

/-- The frame of the bytes after START, when they are whole and their CRC agrees (R167 to R169). -/
def frameOf (bytes : List Byte) : Option Frame :=
  let body := bytes.take (lenOf bytes + 2)
  if leNat (bytes.drop (lenOf bytes + 2)) = (crc16 body).toNat then
    match body.drop 2 with
    | kind :: tag :: node :: payload => some { kind := kind, tag := tag, node := node, payload := payload }
    | _ => none
  else none

/-- Bytes of the frame being assembled that are still to come, once LEN is in (R169). -/
def Assembly.missing (a : Assembly) : Nat := lenOf a.bytes + 4 - a.bytes.length

/-- The next byte that arrives is the last CRC byte. -/
def Assembly.atLast (a : Assembly) : Bool := decide (2 ≤ a.bytes.length ∧ a.missing = 1)

/-- A byte joins the frame being assembled: the LEN check at the second LEN byte, the CRC check at the last byte
(R169, R170). -/
def Link.assemble (now : Nat) (a : Assembly) (b : Byte) (l : Link) : Link :=
  let a : Assembly := { bytes := a.bytes ++ [b], gapEnds := now + 2 }
  if a.bytes.length = 2 ∧ (lenOf a.bytes < 3 ∨ 544 < lenOf a.bytes) then l.discard
  else if 2 ≤ a.bytes.length ∧ a.missing = 0 then
    match frameOf a.bytes with
    | some f => { l with assembling := none, complete := l.complete ++ [f] }
    | none => l.discard
  else { l with assembling := some a }

/-- The frame being assembled is discarded where its gap limit has passed (R170). -/
def Link.lapse (now : Nat) (l : Link) : Link :=
  match l.assembling with
  | some a => if a.gapEnds ≤ now then l.discard else l
  | none => l

/-- A byte joins the frame being assembled, or is examined as a possible START (R169, R170). `stopBit = false` is a link
framing error. -/
def Link.take (now : Nat) (b : Byte) (stopBit : Bool) (l : Link) : Link :=
  match l.assembling with
  | some a => if stopBit then l.assemble now a b else l.discard
  | none =>
    if stopBit ∧ b = 0xA5 then
      if l.bufferFree then { l with assembling := some { bytes := [], gapEnds := now + 2 } } else l.discard
    else l

/-- A byte arrives on LRX. One that comes after the gap limit ends the gap: the frame has been discarded, and the byte is
examined as a possible START (R169, R170). -/
def Link.receive (now : Nat) (b : Byte) (stopBit : Bool) (l : Link) : Link := (l.lapse now).take now b stopBit

/-- The receiver listens: the part is not in reset and PART_READY has been sent (R184). -/
def State.listening (s : State) : Bool := !s.held && s.link.up

/-! ### Taking requests -/

/-- The dispatcher may take a frame: a reply place is free, no save reply waits, restart taken is clear (R173), and
the link is open (R184). -/
def State.dispatcherReady (s : State) : Bool :=
  s.listening && decide (s.link.replies.length < Config.replyPlaces) && s.link.saveReply.isNone
    && s.link.restart.isNone

/-- The dispatcher takes this frame now: it is the oldest complete frame, or, with both inbound buffers empty, the
command brings it whole (notes/assumptions/4.md). -/
def State.takes (s : State) (f : Frame) : Bool :=
  s.dispatcherReady &&
    (s.link.complete.head? == some f || (s.link.complete.isEmpty && s.link.assembling.isNone))

/-- Taking a frame empties its buffer (R173). -/
def State.takeFrame (s : State) : State := s.mapLink (fun l => { l with complete := l.complete.tail })

/-- What a request is answered: its result and the fields of its kind (R175). -/
structure Answer where
  result : Result
  fields : List Byte
deriving DecidableEq, Repr

/-- The reply to a frame: the request's kind with its most significant bit set, its tag and NODE byte; result, link
flags with DISCARDED, fields (R167, R175). -/
def Frame.reply (f : Frame) (discarded : Bool) (a : Answer) : Frame :=
  { kind := f.kind ||| 0x80, tag := f.tag, node := f.node,
    payload := a.result.code :: flagByte discarded :: a.fields }

/-- A reply is made and joins the tail of the reply queue; the DISCARDED flag is copied into it and cleared (R173,
R175). -/
def State.reply (s : State) (f : Frame) (a : Answer) : State :=
  s.mapLink (fun l => { l with replies := l.replies ++ [f.reply l.discarded a], discarded := false })

/-- A reply refused under R174 carries the result and the link flags alone (R175). -/
def Answer.refused (r : Result) : Answer := { result := r, fields := [] }

/-- What carrying out a request gives: the state it leaves, and its answer where one is made at once. -/
structure Carried where
  state  : State
  answer : Option Answer

/-- An answer made at once. -/
def State.answers (s : State) (r : Result) (fields : List Byte) : Carried :=
  { state := s, answer := some { result := r, fields := fields } }

/-- The reply of a carried-out request is made from the state it leaves (R173). -/
def Carried.settle (o : Carried) (f : Frame) : State :=
  match o.answer with
  | some a => o.state.reply f a
  | none => o.state

/-- A part-wide request: NODE must be FFh, the payload length must pass (R174), and `carry` carries it out. -/
def partRequest (kind tag node : Byte) (payload : List Byte) (lengthOk : Bool) (carry : State → Carried)
    (s : State) : State :=
  let f : Frame := { kind := kind, tag := tag, node := node, payload := payload }
  if s.takes f then
    let t := s.takeFrame
    if node ≠ 0xFF then t.reply f (.refused .badNode)
    else if lengthOk then (carry t).settle f
    else t.reply f (.refused .badParam)
  else s

/-- A request for a node: NODE must be 0 to 3, the payload length must pass (R174), and `carry` carries it out. -/
def nodeRequest (kind tag node : Byte) (payload : List Byte) (lengthOk : Bool) (carry : NodeId → State → Carried)
    (s : State) : State :=
  let f : Frame := { kind := kind, tag := tag, node := node, payload := payload }
  if s.takes f then
    let t := s.takeFrame
    match NodeId.ofByte node with
    | none => t.reply f (.refused .badNode)
    | some n => if lengthOk then (carry n t).settle f else t.reply f (.refused .badParam)
  else s

/-! ### Notices -/

/-- Kind values of the notices (spec 09, catalogue). -/
def StateNotice.kind : StateNotice → Byte
  | .pwr => 0x60 | .liv => 0x68 | .med => 0x52 | .evt => 0x42 | .room => 0x43

/-- The class 2 kinds in cyclic order, starting after `k` (R179). -/
def StateNotice.after : StateNotice → List StateNotice
  | .pwr => [.liv, .med, .evt, .room, .pwr]
  | .liv => [.med, .evt, .room, .pwr, .liv]
  | .med => [.evt, .room, .pwr, .liv, .med]
  | .evt => [.room, .pwr, .liv, .med, .evt]
  | .room => [.pwr, .liv, .med, .evt, .room]

/-- The pending flag of a class 2 notice (R177). -/
def State.stateNoticePending (s : State) (n : NodeId) : StateNotice → Bool
  | .pwr => (s.nd n).power.statePending
  | .liv => (s.nd n).live.statePending
  | .med => (s.nd n).media.statePending
  | .evt => (s.nd n).hist.eventPending
  | .room => (s.nd n).line.roomPending

/-- A MED_WRITE_OUT notice is pending exactly while the write-out queue is not empty and the slot is READY or
WITHDRAWING (R111). -/
def State.writeOutPending (s : State) (n : NodeId) : Bool :=
  !(s.nd n).cache.queue.isEmpty &&
    (match s.slot n with
     | some m => m.state != .faulted
     | none => false)

/-- The pending flag of a bulk notice: CON_DATA exactly while the pacer is DUE (R39), MED_FETCH exactly while the
pending fetch list is not empty (R103), MED_WRITE_OUT by R111. -/
def State.bulkPending (s : State) (n : NodeId) : Bulk → Bool
  | .fetch => !(s.nd n).cache.fetches.isEmpty
  | .data => (s.nd n).hist.pacer == .due
  | .writeOut => s.writeOutPending n

/-- The frame begins on the outgoing line. -/
def State.send (s : State) (f : Frame) (isReply : Bool) : State :=
  s.mapLink (fun l => { l with sending := some { frame := f, isReply := isReply, sent := 0 } })

/-- A notice of node `n` is sent with tag 0 (R177). -/
def State.sendNotice (s : State) (n : NodeId) (kind : Byte) (payload : List Byte) : State :=
  s.send { kind := kind, tag := 0, node := n.toByte, payload := payload } false

/-- The entries a CON_EVENT notice carries: the oldest of the unsent list, up to 8 (R46). -/
def History.eventsToSend (h : History) : List Event := (h.index.filter (·.unsent)).take 8

/-- Takes the first `k` entries off the unsent list. -/
def markSent : Nat → List Event → List Event
  | 0, es => es
  | _ + 1, [] => []
  | k + 1, e :: es => if e.unsent then { e with unsent := false } :: markSent k es else e :: markSent (k + 1) es

/-- More than 8 entries are on the unsent list (R46). -/
def History.moreEvents (h : History) : Bool := decide (8 < (h.index.filter (·.unsent)).length)

/-- CON_EVENT payload (R46). -/
def History.eventPayload (h : History) : List Byte :=
  [flagByte h.moreEvents, BitVec.ofNat 8 h.lost, BitVec.ofNat 8 h.eventsToSend.length]
    ++ h.eventsToSend.flatMap Event.layout

/-- What building a CON_EVENT notice leaves: the entries leave the unsent list, the lost count returns to 0, and the
notice stays pending while entries remain (R46). -/
def History.eventsSent (h : History) : History :=
  { h with index := markSent 8 h.index, lost := 0, eventPending := h.moreEvents }

/-- Builds a class 2 notice of node `n` and sends it (R23, R46, R124, R149, R165). -/
def State.buildStateNotice (s : State) (n : NodeId) (k : StateNotice) : State :=
  match k with
  | .pwr =>
    (s.sendNotice n k.kind (s.powerContent n)).mapPower n (fun p =>
      { p with ended := [], endedLost := 0, statePending := false })
  | .liv =>
    (s.sendNotice n k.kind (s.liveBlock n)).mapLive n (fun l =>
      { l with warnings := 0, deferrals := 0, statePending := false })
  | .med => (s.sendNotice n k.kind (s.mediaBlock n)).mapMedia n (fun m => { m with statePending := false })
  | .evt => (s.sendNotice n k.kind (s.nd n).hist.eventPayload).mapHist n History.eventsSent
  | .room =>
    (s.sendNotice n k.kind (leBytes 2 (s.txRoom n))).mapLine n (fun l => { l with roomPending := false })

/-- The `k` bytes of the history of node `n` from offset `o` on (R26). -/
def State.historyBytes (s : State) (n : NodeId) (o : Nat) : Nat → List Byte
  | 0 => []
  | k + 1 =>
    (match (s.nd n).hist.address o with
     | some a => s.mem.read a
     | none => 0) :: State.historyBytes s n (o + 1) k

/-- Builds the CON_DATA notice: up to 512 bytes from deliver_offset, the GAP flag and the gap count; deliver_offset
advances and the pacer is set anew (R42). -/
def State.buildData (s : State) (n : NodeId) : State :=
  let h := (s.nd n).hist
  let c := min 512 h.undelivered
  let payload := leBytes 6 h.deliver ++ flagByte (h.gapCount != 0) :: leBytes 4 h.gapCount ++ leBytes 2 c
    ++ s.historyBytes n h.deliver c
  (s.sendNotice n 0x41 payload).mapHist n (fun h =>
    History.paceAnew (s.set n).delivery s.clock.ticks { h with deliver := h.deliver + c, gapCount := 0 })

/-- Builds the MED_FETCH notice (R104). -/
def State.buildFetch (s : State) (n : NodeId) : State :=
  let tags := s.fetchTags n
  let payload := leBytes 4 (s.lbaOf (tags.headD 0)) ++ BitVec.ofNat 8 tags.length :: tags.flatMap (leBytes 2)
  (s.sendNotice n 0x50 payload).fetchesSent n tags

/-- Builds the MED_WRITE_OUT notice of the entry at the head of the write-out queue (R112). -/
def State.buildWriteOut (s : State) (n : NodeId) : State :=
  match (s.nd n).cache.queue with
  | [] => s
  | p :: _ =>
    let payload := leBytes 2 (s.nd n).cache.seq.toNat ++ leBytes 4 (s.lbaOf p) ++ leBytes 2 p ++ s.mem.page p
    (s.sendNotice n 0x51 payload).writeOutHead n p

/-- Builds a bulk notice of node `n` and sends it. -/
def State.buildBulk (s : State) (n : NodeId) : Bulk → State
  | .fetch => s.buildFetch n
  | .data => s.buildData n
  | .writeOut => s.buildWriteOut n

/-! ### The arbiter -/

/-- The node and kind that class 2 serves next (R179). -/
def State.pickStateNotice (s : State) : Option (NodeId × StateNotice) :=
  (s.link.lastState.after.find? (fun n => (s.link.lastKind.get n).after.any (s.stateNoticePending n))).bind
    (fun n => ((s.link.lastKind.get n).after.find? (s.stateNoticePending n)).map (fun k => (n, k)))

/-- The class after a bulk class in the rotation (R180). -/
def Bulk.succ : Bulk → Bulk
  | .fetch => .data
  | .data => .writeOut
  | .writeOut => .fetch

/-- The node last served in a bulk class (R180). -/
def Link.lastBulk (l : Link) : Bulk → NodeId
  | .fetch => l.lastFetch
  | .data => l.lastData
  | .writeOut => l.lastWriteOut

/-- The rotation pointer and a bulk class's node pointer after a grant (R180). -/
def Link.bulkServed (l : Link) (b : Bulk) (n : NodeId) : Link :=
  match b with
  | .fetch => { l with lastFetch := n, rotation := b.succ }
  | .data => { l with lastData := n, rotation := b.succ }
  | .writeOut => { l with lastWriteOut := n, rotation := b.succ }

/-- The first node with a frame pending in a bulk class, beginning after the node last served in it (R180). -/
def State.pickBulkNode (s : State) (b : Bulk) : Option NodeId :=
  (s.link.lastBulk b).after.find? (fun n => s.bulkPending n b)

/-- The bulk class and node that have the next turn (R180). -/
def State.pickBulk (s : State) : Option (Bulk × NodeId) :=
  [s.link.rotation, s.link.rotation.succ, s.link.rotation.succ.succ].findSome? (fun b =>
    (s.pickBulkNode b).map (fun n => (b, n)))

/-- PART_READY payload: revision, settings source, reset cause (R184). -/
def State.readyPayload (s : State) : List Byte :=
  [Config.revision, s.store.source.code, s.resetCause.code]

/-- A class 2 turn goes to kind `k` of node `n`: the pointers name them (R179). -/
def Link.stateServed (l : Link) (n : NodeId) (k : StateNotice) : Link :=
  { l with lastState := n, lastKind := l.lastKind.set n k }

/-- The arbiter's choice among notices. A CON_EVENT whose unsent list has emptied sends nothing: its flag is cleared
and the choice is made again (R46, R177 to R180). `fuel` bounds the choices: each clears a flag. -/
def State.grantNotice : Nat → State → State
  | 0, s => s
  | fuel + 1, s =>
    match s.pickStateNotice with
    | some (n, k) =>
      let t := s.mapLink (fun l => l.stateServed n k)
      if k = .evt ∧ (s.nd n).hist.eventsToSend = [] then
        State.grantNotice fuel (t.mapHist n (fun h => { h with eventPending := false }))
      else t.buildStateNotice n k
    | none =>
      match s.pickBulk with
      | some (b, n) => (s.mapLink (fun l => l.bulkServed b n)).buildBulk n b
      | none => s

/-- The arbiter grants the next frame: replies first, then PART_READY, then notices; replies alone once restart taken
is set (R178, R179, R183). -/
def State.grant (s : State) : State :=
  match s.link.replies with
  | r :: _ => s.send r true
  | [] =>
    if s.link.restart.isSome then s
    else if s.link.readyPending then
      (s.mapLink (fun l => { l with readyPending := false })).send
        { kind := 0x40, tag := 0, node := 0xFF, payload := s.readyPayload } false
    else s.grantNotice 5

end Sys2Proof.Machine
end

