-- ==== Sys2Proof/Machine/Reset.lean ====
section
/-! DEFINITION. The Settings Store (R185 to R190) and the part reset with its start-up (R191, R192, and the
"After a part reset" rule of every chapter). -/

namespace Sys2Proof.Machine

/-! ### Ranges of the stored settings (R186) -/

/-- `lo ≤ v ≤ hi`. -/
def within (lo hi v : Nat) : Bool := decide (lo ≤ v ∧ v ≤ hi)

def Quota.inRange (q : Quota) : Bool := within 2 160 q.min && within 2 160 q.max && decide (q.min ≤ q.max)

def LineSettings.inRange (l : LineSettings) : Bool :=
  (match l.rate with
   | .auto => true
   | .baud b => within 300 3000000 b) &&
    within 5 8 l.wordLen && within 1 128 l.roomHigh && within 0 255 l.roomLow

def DeliverySettings.inRange (d : DeliverySettings) : Bool :=
  within 1 512 d.count && within 0 1000 d.delay && within 0 255 d.gap && (d.mask &&& definedEvents) == d.mask

def Pattern.inRange (p : Pattern) : Bool := within 1 32 p.bytes.length

def Timings.inRange (t : Timings) : Bool :=
  within 0 255 t.debounce && within 100 5000 t.settle && within 50 2000 t.press && within 4000 15000 t.hold &&
    within 10 1000 t.resetPulse && within 10 1000 t.diagPulse && within 1000 120000 t.startWait &&
    within 5000 600000 t.softOffWait && within 500 10000 t.hardOffCheck && within 500 10000 t.cutCheck &&
    within 1000 60000 t.dwell

def LiveSettings.inRange (l : LiveSettings) : Bool :=
  within 1 3600 l.timeout && within 1 600 l.warn && within 10 3600 l.grace && within 60 86400 l.stable &&
    within 1 8 l.maxRecoveries && (l.kicks &&& definedKicks) == l.kicks

def Tuning.inRange (t : Tuning) : Bool :=
  within 0 32 t.readAhead && within 100 60000 t.fetchTimeout && within 500 120000 t.storeTimeout

def NodeSettings.inRange (x : NodeSettings) : Bool :=
  x.quota.inRange && x.line.inRange && x.delivery.inRange && x.watch.length == 8 &&
    x.watch.all (fun p => (p.map Pattern.inRange).getD true) && x.timings.inRange && x.live.inRange &&
    x.tuning.inRange

/-- Every stored value lies within the range its owning chapter gives it (R186). -/
def Settings.inRange (x : Settings) : Bool :=
  within 12000 50000 x.fref && x.nodes.n0.inRange && x.nodes.n1.inRange && x.nodes.n2.inRange && x.nodes.n3.inRange &&
    decide (x.nodes.n0.quota.max + x.nodes.n1.quota.max + x.nodes.n2.quota.max + x.nodes.n3.quota.max ≤ 640)

/-! ### The image -/

/-- The CRC-32 the Settings Store computes over the image of given settings (R186). -/
def imageCrc (x : Settings) : Word := crc32 (Config.imageBytes x)

/-- The settings of a good image: its CRC agrees and every value is in range (R186). -/
def Image.good : Image → Option Settings
  | .bad => none
  | .written x crc => if crc = imageCrc x ∧ x.inRange then some x else none

/-- The settings a part start loads and their source (R190). -/
def State.loaded (s : State) : Settings × SettingsSource :=
  if s.restartDefaults then (.default, .defaults)
  else
    match s.store.image.good with
    | some x => (x, .stored)
    | none => (.default, .defaults)

/-! ### Part reset -/

/-- A node in reset: its lines released, its port disconnected, its blocks in their reset states with no page held;
the input pins keep their levels (R151, R191). -/
def Node.inReset (x : Node) : Node :=
  { line := .fresh, hist := .fresh [], watch := Place.fresh, media := .fresh x.media.vbus, cache := .fresh,
    power := .fresh x.power.sense none, live := .fresh x.live.hbPin none }

/-- A part reset begins: every block enters its reset state, the link goes quiet, all pages are free, and a settings
write in progress is lost, its image left bad since it began (R71, R184, R189, R191). -/
def State.partReset (s : State) (cause : ResetCause) (defaults : Bool) : State :=
  { s with
    held := true
    resetCause := cause
    restartDefaults := defaults
    clock := { cycles := 0, ticks := 0, tickCycles := 0 }
    cfg := .default
    nodes := ⟨s.nodes.n0.inReset, s.nodes.n1.inReset, s.nodes.n2.inReset, s.nodes.n3.inReset⟩
    free := List.range' 0 Config.pages
    entries := []
    lru := []
    link := .fresh s.link.lrts false
    store := { s.store with save := none } }

/-! ### Start-up -/

/-- The link rate of the strap levels (R184, notes/assumptions/8.md). -/
def LinkRate.ofStraps (b : BitVec 2) : LinkRate :=
  if b = 0 then .baud921600 else if b = 1 then .baud3000000 else if b = 2 then .baud6000000 else .baud12000000

/-- A Line Unit takes up its loaded settings: HUNTING when the rate is AUTO, FIXED when it is a number (R25). -/
def State.startLine (s : State) (n : NodeId) : State :=
  s.mapLine n (fun l =>
    { l with autobaud := match (s.set n).line.rate with | .auto => .hunting none | .baud _ => .fixed })

/-- A Liveness Monitor is DISABLED or DORMANT, and begins filtering HBn (R166, R191). -/
def State.startLive (s : State) (n : NodeId) : State :=
  s.mapLive n (fun l =>
    { l with
      monitor := if (s.set n).live.enable then .dormant else .disabled
      hbFilter := some (s.clock.ticks + 1) })

/-- Step 4 of R191 for one node: its Line Unit, its ring's min pages, its monitor, and the debounce of PG_SENSEn at
the loaded debounce time. -/
def State.startNode (s : State) (n : NodeId) : State :=
  (((s.startLine n).growRing n).startLive n).debouncePg n

/-- The part starts up: straps, settings, Time Base, blocks, PART_READY (R191). -/
def State.startUp (s : State) (straps : BitVec 2) : State :=
  let x := s.loaded
  let t : State :=
    { s with
      held := false
      restartDefaults := false
      linkRate := LinkRate.ofStraps straps
      cfg := x.1
      store := { s.store with source := x.2 } }
  (NodeId.all.foldl State.startNode t).mapLink (fun l => { l with readyPending := true })

end Sys2Proof.Machine
end

