-- ==== Sys2Proof/Machine/Watch.lean ====
section
/-! DEFINITION. The Watch Unit (R50 to R58), storing a console byte (R27) and handing it on to the three blocks
(R11). -/

namespace Sys2Proof.Machine

/-! ### Matching -/

/-- An ASCII capital letter and the same letter in small form (R50). -/
def letterPair (x y : Byte) : Bool := decide (0x41 ≤ x.toNat ∧ x.toNat ≤ 0x5A ∧ y.toNat = x.toNat + 0x20)

/-- A received byte matches a pattern byte; folding reaches the ASCII letters alone (R50). -/
def bytesMatch (fold : Bool) (x y : Byte) : Bool := x == y || (fold && (letterPair x y || letterPair y x))

/-- Two runs of bytes match, byte for byte. -/
def runsMatch (fold : Bool) : List Byte → List Byte → Bool
  | [], [] => true
  | x :: xs, y :: ys => bytesMatch fold x y && runsMatch fold xs ys
  | _, _ => false

/-- The first `j` bytes of the pattern match the last `j` of its first `k` (R51). -/
def Pattern.isBorder (p : Pattern) (k j : Nat) : Bool :=
  runsMatch p.fold (p.bytes.take j) ((p.bytes.take k).drop (k - j))

/-- The longest border of length at most `j` of the pattern's first `k` bytes. -/
def Pattern.borderUpTo (p : Pattern) (k : Nat) : Nat → Nat
  | 0 => 0
  | j + 1 => if p.isBorder k (j + 1) then j + 1 else p.borderUpTo k j

/-- The longest border shorter than the pattern's first `k` bytes (R51). -/
def Pattern.border (p : Pattern) (k : Nat) : Nat := p.borderUpTo k (k - 1)

/-- The progress after a byte: it grows where the byte matches at position `progress`, and otherwise falls back
through the borders of the part already matched; each border is shorter, so `fuel` above `progress` suffices
(R51). -/
def Pattern.advance (p : Pattern) (b : Byte) : Nat → Nat → Nat
  | 0, _ => 0
  | fuel + 1, k =>
    if ((p.bytes[k]?).map (bytesMatch p.fold b)).getD false then k + 1
    else if k = 0 then 0
    else Pattern.advance p b fuel (p.border k)

/-- The new progress of a pattern and whether it hits on this byte (R51). -/
def Pattern.examine (p : Pattern) (b : Byte) (progress : Nat) : Nat × Bool :=
  let k := p.advance b (progress + 1) progress
  if k = p.bytes.length then (p.border k, true) else (k, false)

/-- Brings one place's progress up to date; an empty place takes no part (R48, R52). -/
def examinePlace (b : Byte) (pat : Option Pattern) (pl : Place) : Place × Bool :=
  match pat with
  | none => (pl, false)
  | some p => let r := p.examine b pl.progress; ({ pl with progress := r.1 }, r.2)

/-! ### Hits and their actions -/

/-- Changes the working state of place `i`. -/
def State.mapPlace (s : State) (n : NodeId) (i : Nat) (f : Place → Place) : State :=
  s.mapWatch n (fun ps => ps.modify i f)

/-- The pattern of place `i`. -/
def State.pattern (s : State) (n : NodeId) (i : Nat) : Option Pattern := ((s.set n).watch[i]?).getD none

/-- The working state of place `i`. -/
def State.place (s : State) (n : NodeId) (i : Nat) : Place := ((s.nd n).watch[i]?).getD { progress := 0, hit := false }

/-- Sets the "power dropped" flag of the entry just recorded (R32, R58). -/
def History.dropPower (h : History) : History :=
  { h with index := h.index.modify (h.index.length - 1) (fun e => { e with detail := e.detail ||| powerDropped }) }

/-- A POWER action passes the test of R58: the node is ON, the controller is not LOCKED and does not hold both a
current and a queued action. -/
def State.watchMaySubmit (s : State) (n : NodeId) : Bool :=
  s.condition n == .on &&
    (match (s.nd n).power.ctrl with
     | .idle => true
     | .acting _ none _ => true
     | _ => false)

/-- Runs a pattern's action (R55 to R58); `len` is the pattern's length. -/
def State.watchAction (s : State) (n : NodeId) (len : Nat) (a : WatchAction) : State :=
  match a with
  | .notice => s
  | .mark => s.setMark n ((s.nd n).hist.next - len)
  | .kick => s.kick n .watch
  | .power k => if s.watchMaySubmit n then s.submit n k.action .watch else s.mapHist n History.dropPower
  | .detach => s.drain n

/-- Takes the hit of place `i`: it is recorded, and its action runs unless the once-per-boot option finds the
hit-since-boot flag set (R54). -/
def State.takeHit (s : State) (n : NodeId) (i : Nat) : State :=
  match s.pattern n i with
  | none => s
  | some p =>
    let t := s.record n .watchHit (BitVec.ofNat 16 i)
    if p.once ∧ (s.place n i).hit then t
    else
      let t := if p.once then t.mapPlace n i (fun pl => { pl with hit := true }) else t
      t.watchAction n p.bytes.length p.action

/-- The places that hit on this byte, lowest first, numbered from `i`. -/
def hitPlaces (b : Byte) : Nat → List (Option Pattern) → List Place → List Nat
  | i, pat :: pats, pl :: pls =>
    if (examinePlace b pat pl).2 then i :: hitPlaces b (i + 1) pats pls else hitPlaces b (i + 1) pats pls
  | _, _, _ => []

/-- The Watch Unit examines a byte: every progress is brought up to date, then the hits are taken in place order
(R52). -/
def State.watchByte (s : State) (n : NodeId) (b : Byte) : State :=
  let hits := hitPlaces b 0 (s.set n).watch (s.nd n).watch
  let t := s.mapWatch n (fun pls => List.zipWith (fun pat pl => (examinePlace b pat pl).1) (s.set n).watch pls)
  hits.foldl (fun t i => t.takeHit n i) t

/-- Clears the match progress of every pattern of the node (R53). -/
def State.clearProgress (s : State) (n : NodeId) : State :=
  s.mapWatch n (fun ps => ps.map (fun p => { p with progress := 0 }))

/-! ### A byte of the console -/

/-- The oldest page of the ring of node `n` is recycled (R28). -/
def State.recycle (s : State) (n : NodeId) : State :=
  s.mapHist n (History.recycle (s.set n).delivery.mask (s.nd n).power.boot (s.set n).delivery.follow)

/-- Room for one byte: a full ring below its max asks the pool for a page, and recycles its oldest page when the pool
refuses or the ring is at its max (R27, R63). -/
def State.makeRoom (s : State) (n : NodeId) : State :=
  if (s.nd n).hist.full then
    if (s.nd n).hist.ring.length < (s.set n).quota.max then
      match s.getPage with
      | some (p, t) => t.mapHist n (fun h => { h with ring := h.ring ++ [p] })
      | none => s.recycle n
    else s.recycle n
  else s

/-- Writes a byte at next_offset in the buffer memory. -/
def State.writeHistory (s : State) (n : NodeId) (b : Byte) : State :=
  match (s.nd n).hist.address (s.nd n).hist.next with
  | some a => { s with mem := s.mem.write a [b] }
  | none => s

/-- The History Buffer stores a byte with its marks (R27). -/
def State.storeByte (s : State) (n : NodeId) (b : Byte) (framing parity : Bool) : State :=
  let t := s.makeRoom n
  let t := if framing then t.recordError n .framing else t
  let t := if parity then t.recordError n .parity else t
  let t := t.writeHistory n b
  t.mapHist n (fun h =>
    History.paceByte (s.set n).delivery s.clock.ticks { h with next := h.next + 1, lineIdle := false })

/-- A byte the receiver has produced is handed on: History Buffer, Watch Unit, Liveness Monitor; then the
loss-of-lock check counts it (R11, R12, R17). -/
def State.handOn (s : State) (n : NodeId) (b : Byte) (framing parity : Bool) : State :=
  let t := (s.restartIdleGap n).storeByte n b framing parity
  ((t.watchByte n b).kick n .console).lossCheck n framing

/-- The receiver decides a break: BREAK_RX is recorded, match progress is cleared, and the receiver stays in the
break (R10). -/
def State.receiveBreak (s : State) (n : NodeId) : State :=
  ((s.mapLine n (fun l => { l with rx := .inBreak })).record n .breakRx).clearProgress n

/-- The receiver decodes characters: the line is FIXED or LOCKED, the node is not CUT, and the receiver is idle or
waits after a framing error for CRXn to read 1, which a new start bit implies (R9). -/
def State.decodes (s : State) (n : NodeId) : Bool :=
  !s.held && s.condition n != .cut && (s.bitPeriod n).isSome &&
    ((s.nd n).line.rx == .idle || (s.nd n).line.rx == .awaitHigh)

/-- The receiver samples the first stop bit of a character (R9): a break when every sampled position reads 0,
otherwise a byte with its marks. -/
def State.receiveCharacter (s : State) (n : NodeId) (data : Byte) (parityBit stopBit : Bool) : State :=
  let l := (s.set n).line
  let b := lowBits l.wordLen data
  let parityWrong := match l.parity.bit b with
    | none => false
    | some e => e != parityBit
  if b = 0 ∧ (l.parity = .none ∨ parityBit = false) ∧ stopBit = false then s.receiveBreak n
  else
    (s.mapLine n (fun l => { l with rx := if stopBit then .idle else .awaitHigh })).handOn n b (!stopBit) parityWrong

end Sys2Proof.Machine
end

