-- ==== Sys2Proof/Machine/ConsoleRequests.lean ====
section
/-! DEFINITION. The console requests (R3, R4, R6, R19, R20, R22, R30, R35 to R38, R44, R49). -/

namespace Sys2Proof.Machine

/-! ### CON_LINE_SET -/

/-- The line settings a CON_LINE_SET payload carries, with m clamped into 1 to 128; `none` where a check of R3
fails. -/
def LineSettings.ofPayload (p : List Byte) : Option LineSettings :=
  match Parity.ofCode (byteAt p 5), StopBits.ofCode (byteAt p 6) with
  | some pa, some st =>
    if (fieldAt p 0 4 = 0 ∨ within 300 3000000 (fieldAt p 0 4)) ∧ within 5 8 (fieldAt p 4 1) then
      some
        { rate := LineRate.ofField (fieldAt p 0 4), wordLen := fieldAt p 4 1, parity := pa, stop := st,
          rearm := optionBit (byteAt p 7) 0, roomHigh := clamp 1 128 (fieldAt p 8 1), roomLow := fieldAt p 9 1 }
    else none
  | _, _ => none

/-- The settings replace the line's, and the Line Unit acts on the line: autobaud state (R3), receiver, match
progress and idle-gap timer (R4); the transmitter goes on under the new settings. -/
def State.applyLine (s : State) (n : NodeId) (x : LineSettings) : State :=
  let t := s.mapSet n (fun y => { y with line := x })
  let t := t.mapLine n (fun l =>
    { l with autobaud := match x.rate with | .auto => .hunting none | .baud _ => .fixed, rx := .idle })
  (((t.clearProgress n).restartIdleGap n).startWaitingGap n).takeItem n

/-- A signed 32-bit field (R193). -/
def signedField (v : Int) : List Byte := leBytes 4 (BitVec.ofInt 32 v).toNat

/-- The rate flags and figures of the CON_LINE_SET reply, and whether a cause of ADJUSTED stands among them (R6). -/
def LineSettings.figures (x : LineSettings) (fref : Nat) (auto : Autobaud) (mClamped : Bool) : Bool × List Byte :=
  match x.rate with
  | .auto => (mClamped, flagByte false false mClamped :: auto.code :: leBytes 4 0 ++ leBytes 4 0 ++ leBytes 4 0)
  | .baud b =>
    let d := divisor fref b
    let ppm := ratePpm fref b d
    (ratePoor ppm || divisorClamped fref b || mClamped,
      flagByte (ratePoor ppm) (divisorClamped fref b) mClamped :: auto.code :: leBytes 4 d
        ++ leBytes 4 (nearestQuotient fref d) ++ signedField ppm)

/-- A CON_LINE_SET is carried out (R3, R4, R6). A refused one reports the autobaud state, and 0 in every other field
(R195, notes/assumptions/23.md). -/
def State.setLine (s : State) (n : NodeId) (payload : List Byte) : Carried :=
  match LineSettings.ofPayload payload with
  | none => s.answers .badParam (0 :: (s.nd n).line.autobaud.code :: List.replicate 14 0)
  | some x =>
    let t := s.applyLine n x
    let r := x.figures s.cfg.fref (t.nd n).line.autobaud (x.roomHigh != fieldAt payload 8 1)
    t.answers (Result.adjustedIf r.1) (r.2 ++ leBytes 1 x.roomHigh ++ leBytes 1 x.roomLow)

/-- CON_LINE_SET (R3, R4, R6). -/
def execConLineSet (tag node : Byte) (payload : List Byte) (s : State) : Host.Outcome State Fault Refusal :=
  .next (nodeRequest 0x10 tag node payload (payload.length == 10) (fun n s => s.setLine n payload) s)

/-! ### CON_WRITE, CON_BREAK, CON_TX_FLUSH -/

/-- Items join the tail of the transmit queue (R19, R20). -/
def State.appendItems (s : State) (n : NodeId) (items : List TxItem) : State :=
  s.mapLine n (fun l => { l with queue := l.queue ++ items })

/-- The room-wanted flag after an append: set when items were refused or the occupancy is at or above 256 - m, and
evaluated as it is set. An append that does not set it is no moment of R23. -/
def State.wantRoom (s : State) (n : NodeId) (refused : Bool) : State :=
  if refused ∨ Config.txItems ≤ (s.nd n).line.queue.length + (s.set n).line.roomHigh then
    (s.mapLine n (fun l => { l with roomWanted := true })).roomCheck n
  else s

/-- A CON_WRITE is carried out (R19, R21, R23). -/
def State.writeConsole (s : State) (n : NodeId) (bytes : List Byte) : Carried :=
  let k := min bytes.length (s.txRoom n)
  let t := ((s.appendItems n ((bytes.take k).map .byte)).wantRoom n (decide (k < bytes.length))).takeItem n
  t.answers .ok (leBytes 2 k ++ leBytes 2 (t.txRoom n))

/-- CON_WRITE (R19). -/
def execConWrite (tag node : Byte) (payload : List Byte) (s : State) : Host.Outcome State Fault Refusal :=
  .next (nodeRequest 0x11 tag node payload (within 1 512 payload.length) (fun n s => s.writeConsole n payload) s)

/-- A CON_BREAK is carried out (R20, R21, R23). -/
def State.queueBreak (s : State) (n : NodeId) (payload : List Byte) : Carried :=
  let v := fieldAt payload 0 2
  let ms := clamp 1 5000 v
  if s.txRoom n = 0 then (s.wantRoom n true).answers .noRoom (leBytes 2 0)
  else (((s.appendItems n [.brk ms]).wantRoom n false).takeItem n).answers (Result.adjustedIf (ms != v)) (leBytes 2 ms)

/-- CON_BREAK (R20). -/
def execConBreak (tag node : Byte) (payload : List Byte) (s : State) : Host.Outcome State Fault Refusal :=
  .next (nodeRequest 0x12 tag node payload (payload.length == 2) (fun n s => s.queueBreak n payload) s)

/-- A break being held ends, and the idle character time follows; one suspended by a cut has ended (R22, R24). -/
def State.endBreak (s : State) (n : NodeId) : State :=
  match (s.nd n).line.tx with
  | .brk _ => s.beginGap n
  | .floating _ => s.mapLine n (fun l => { l with tx := .floating none })
  | _ => s

/-- A CON_TX_FLUSH is carried out (R22, R23). -/
def State.flushConsole (s : State) (n : NodeId) : Carried :=
  ((((s.mapLine n (fun l => { l with queue := [] })).endBreak n).roomCheck n)).answers .ok
    (leBytes 2 (s.nd n).line.queue.length)

/-- CON_TX_FLUSH (R22). -/
def execConTxFlush (tag node : Byte) (payload : List Byte) (s : State) : Host.Outcome State Fault Refusal :=
  .next (nodeRequest 0x18 tag node payload (payload.length == 0) (fun n s => s.flushConsole n) s)

/-! ### CON_READ -/

/-- oldest_offset, next_offset and the mark, as CON_READ replies carry them. -/
def History.bounds (h : History) : List Byte := leBytes 6 h.oldest ++ leBytes 6 h.next ++ offsetField h.mark

/-- A CON_READ is carried out (R35). -/
def State.readConsole (s : State) (n : NodeId) (payload : List Byte) : Carried :=
  let h := (s.nd n).hist
  let off := fieldAt payload 0 6
  let len := fieldAt payload 6 2
  if within 1 512 len then
    let start := max off h.oldest
    let k := min len (h.next - start)
    s.answers (Result.adjustedIf (decide (off < h.oldest)))
      (flagByte (decide (off < h.oldest)) :: leBytes 6 start ++ leBytes 2 k ++ h.bounds ++ s.historyBytes n start k)
  else s.answers .badParam (flagByte false :: leBytes 6 0 ++ leBytes 2 0 ++ h.bounds)

/-- CON_READ (R35). -/
def execConRead (tag node : Byte) (payload : List Byte) (s : State) : Host.Outcome State Fault Refusal :=
  .next (nodeRequest 0x13 tag node payload (payload.length == 8) (fun n s => s.readConsole n payload) s)

/-! ### CON_MARK -/

/-- The reply fields of CON_MARK (R30). -/
def History.markFields (h : History) : List Byte := offsetField h.mark ++ leBytes 6 h.oldest ++ leBytes 6 h.next

/-- A CON_MARK is carried out (R30). -/
def State.markConsole (s : State) (n : NodeId) (payload : List Byte) : Carried :=
  let o := fieldAt payload 0 6
  if o = absentOffset then
    let t := s.mapHist n (fun h => { h with mark := none })
    t.answers .ok (t.nd n).hist.markFields
  else
    let t := s.setMark n o
    t.answers (Result.adjustedIf ((s.nd n).hist.clampOffset o != o)) (t.nd n).hist.markFields

/-- CON_MARK (R30). -/
def execConMark (tag node : Byte) (payload : List Byte) (s : State) : Host.Outcome State Fault Refusal :=
  .next (nodeRequest 0x14 tag node payload (payload.length == 6) (fun n s => s.markConsole n payload) s)

/-! ### CON_EVENTS -/

/-- Passes over the first `k` entries whose offset is exactly `o` (R36). -/
def skipEqual (o : Nat) : Nat → List Event → List Event
  | 0, es => es
  | _ + 1, [] => []
  | k + 1, e :: es => if e.offset = o then skipEqual o k es else e :: skipEqual o (k + 1) es

/-- The index entries a CON_EVENTS selects and does not skip (R36). -/
def History.selected (h : History) (o skip : Nat) : List Event :=
  skipEqual o skip (h.index.filter (fun e => o ≤ e.offset))

/-- A CON_EVENTS is carried out (R36). -/
def State.readEvents (s : State) (n : NodeId) (payload : List Byte) : Carried :=
  let h := (s.nd n).hist
  let skip := fieldAt payload 6 1
  let es := h.selected (fieldAt payload 0 6) skip
  if skip ≤ 63 then
    s.answers .ok (flagByte (decide (16 < es.length)) :: leBytes 1 h.index.length ++ leBytes 1 (es.take 16).length
      ++ (es.take 16).flatMap Event.layout)
  else s.answers .badParam (flagByte false :: leBytes 1 h.index.length ++ leBytes 1 0)

/-- CON_EVENTS (R36). -/
def execConEvents (tag node : Byte) (payload : List Byte) (s : State) : Host.Outcome State Fault Refusal :=
  .next (nodeRequest 0x15 tag node payload (payload.length == 7) (fun n s => s.readEvents n payload) s)

/-! ### CON_DELIVERY_SET -/

/-- The delivery settings of a payload, clamped (R37); `none` where the follow code is not listed. -/
def DeliverySettings.ofPayload (p : List Byte) : Option DeliverySettings :=
  (onOffOfCode (byteAt p 0)).map (fun f =>
    { follow := f, count := clamp 1 512 (fieldAt p 1 2), delay := clamp 0 1000 (fieldAt p 3 2),
      gap := fieldAt p 5 1, mask := BitVec.ofNat 16 (fieldAt p 6 2) &&& definedEvents })

/-- A value of the payload was clamped or cleared (R37). -/
def DeliverySettings.changedFrom (d : DeliverySettings) (p : List Byte) : Bool :=
  d.count != fieldAt p 1 2 || d.delay != fieldAt p 3 2 || d.mask != BitVec.ofNat 16 (fieldAt p 6 2)

/-- Where the start choice places deliver_offset, and whether that clears the gap count (R38). -/
def History.startAt (h : History) (wasOn : Bool) : StartChoice → Nat × Bool
  | .now => (h.next, true)
  | .offset o => (h.clampOffset o, true)
  | .continue_ => if wasOn then (h.deliver, false) else (h.next, true)

/-- The start choice was an offset that had to be clamped (R38). -/
def History.startClamped (h : History) : StartChoice → Bool
  | .offset o => h.clampOffset o != o
  | _ => false

/-- Follow is applied: on, deliver_offset is placed and the pacer set anew (R38); off, the pacer is IDLE and the gap
count is cleared (R44). -/
def History.applyFollow (d : DeliverySettings) (now : Nat) (wasOn : Bool) (c : StartChoice) (h : History) : History :=
  if d.follow then
    let p := h.startAt wasOn c
    History.paceAnew d now { h with deliver := p.1, gapCount := if p.2 then 0 else h.gapCount }
  else { h with pacer := .idle, gapCount := 0 }

/-- The five settings replace the old ones; a changed G restarts the idle-gap timer and clears the line-idle flag; the
mask prunes the unsent list; then follow is applied (R37). -/
def State.applyDelivery (s : State) (n : NodeId) (d : DeliverySettings) (c : StartChoice) : State :=
  let old := (s.set n).delivery
  let t := s.mapSet n (fun x => { x with delivery := d })
  let t := if d.gap = old.gap then t else (t.restartIdleGap n).mapHist n (fun h => { h with lineIdle := false })
  t.mapHist n (fun h => History.applyFollow d s.clock.ticks old.follow c (h.applyMask d.mask))

/-- deliver_offset, next_offset and the pacer state, as the CON_DELIVERY_SET reply carries them. -/
def History.deliveryFields (h : History) : List Byte := leBytes 6 h.deliver ++ leBytes 6 h.next ++ [h.pacer.code]

/-- A CON_DELIVERY_SET is carried out (R37, R38, R44). -/
def State.setDelivery (s : State) (n : NodeId) (payload : List Byte) : Carried :=
  match DeliverySettings.ofPayload payload, StartChoice.ofCode (byteAt payload 8) (fieldAt payload 9 6) with
  | some d, some c =>
    let t := s.applyDelivery n d c
    t.answers (Result.adjustedIf (d.changedFrom payload || (d.follow && (s.nd n).hist.startClamped c)))
      (d.layout ++ (t.nd n).hist.deliveryFields)
  | _, _ => s.answers .badParam (List.replicate 8 0 ++ (s.nd n).hist.deliveryFields)

/-- CON_DELIVERY_SET (R37). -/
def execConDeliverySet (tag node : Byte) (payload : List Byte) (s : State) : Host.Outcome State Fault Refusal :=
  .next (nodeRequest 0x16 tag node payload (payload.length == 15) (fun n s => s.setDelivery n payload) s)

/-! ### CON_WATCH_SET -/

/-- The length rule of CON_WATCH_SET (R194). -/
def watchLengthOk (p : List Byte) : Bool :=
  (byteAt p 1 == 0 && p.length == 2) || (byteAt p 1 == 1 && decide (6 ≤ p.length) && p.length == 6 + fieldAt p 5 1)

/-- The pattern record of a payload with choice 1; `none` where R49 refuses it. -/
def Pattern.ofPayload (p : List Byte) : Option Pattern :=
  if within 1 32 (fieldAt p 5 1) then
    (WatchAction.ofCode (byteAt p 3) (byteAt p 4)).map (fun a =>
      { bytes := p.drop 6, fold := optionBit (byteAt p 2) 0, once := optionBit (byteAt p 2) 1, action := a })
  else none

/-- What a CON_WATCH_SET puts in its place: `some none` empties it; `none` is a refused record (R49). -/
def watchChoice (p : List Byte) : Option (Option Pattern) :=
  if byteAt p 1 = 0 then some none else (Pattern.ofPayload p).map some

/-- A place takes a record or is emptied; its progress becomes 0 and its flag is cleared (R49). -/
def State.applyWatch (s : State) (n : NodeId) (i : Nat) (x : Option Pattern) : State :=
  (s.mapSet n (fun y => { y with watch := y.watch.set i x })).mapPlace n i (fun _ => { progress := 0, hit := false })

/-- The reply fields of CON_WATCH_SET: the index, and the places that hold a pattern (R49). -/
def State.watchFields (s : State) (n : NodeId) (i : Nat) : List Byte :=
  [BitVec.ofNat 8 i, BitVec.ofNat 8 ((s.set n).watch.countP Option.isSome)]

/-- A CON_WATCH_SET is carried out (R49). -/
def State.setWatch (s : State) (n : NodeId) (payload : List Byte) : Carried :=
  let i := fieldAt payload 0 1
  match watchChoice payload with
  | none => s.answers .badParam (s.watchFields n i)
  | some x =>
    if i ≤ 7 then
      let t := s.applyWatch n i x
      t.answers .ok (t.watchFields n i)
    else s.answers .badParam (s.watchFields n i)

/-- CON_WATCH_SET (R49, R194). -/
def execConWatchSet (tag node : Byte) (payload : List Byte) (s : State) : Host.Outcome State Fault Refusal :=
  .next (nodeRequest 0x17 tag node payload (watchLengthOk payload) (fun n s => s.setWatch n payload) s)

end Sys2Proof.Machine
end

