-- ==== Sys2Proof/Machine/LineEvents.lean ====
section
/-! DEFINITION. The events of the Line Units and of the pacers (R9 to R17, R21, R40, R41). -/

namespace Sys2Proof.Machine

/-! ### The receiver -/

/-- CHARACTER_RECEIVED (R9, R11). -/
def execCharacterReceived (n : NodeId) (data : Byte) (parityBit stopBit : Bool) (s : State) :
    Host.Outcome State Fault Refusal :=
  .next (if s.decodes n then s.receiveCharacter n data parityBit stopBit else s)

/-- BREAK_RX (R10). -/
def execBreakRx (n : NodeId) (s : State) : Host.Outcome State Fault Refusal :=
  .next (if s.decodes n then s.receiveBreak n else s)

/-- CRXn reads 1 again: a receiver that waits for it is idle (R9, R10). -/
def Receiver.lineHigh : Receiver → Receiver
  | .inBreak => .idle
  | .awaitHigh => .idle
  | r => r

/-- RX_BREAK_END (R10). -/
def execRxBreakEnd (n : NodeId) (s : State) : Host.Outcome State Fault Refusal :=
  .next (s.running (fun s => s.mapLine n (fun l => { l with rx := l.rx.lineHigh })))

/-- The idle-gap timer ends: it stops, and the pacer is signalled (R12, R41). -/
def State.idleGapEnds (s : State) (n : NodeId) (e : Nat) : State :=
  ((s.toCycle e).mapLine n (fun l => { l with idleGap := none })).mapHist n History.lineIdleSignal

/-- IDLE_GAP_SIGNAL (R12, R41). -/
def execIdleGapSignal (n : NodeId) (s : State) : Host.Outcome State Fault Refusal :=
  .next (s.given (s.nd n).line.idleGap (s.idleGapEnds n))

/-- The tick at which the delay timer of a COLLECTING pacer ends. -/
def Pacer.delayEnds : Pacer → Option Nat
  | .collecting e => e
  | _ => none

/-- The delay timer expires: the pacer enters DUE (R40). -/
def State.pacerDelayEnds (s : State) (n : NodeId) (e : Nat) : State :=
  (s.toTick e).mapHist n (fun h => { h with pacer := .due })

/-- PACER_DELAY_EXPIRY (R40). -/
def execPacerDelayExpiry (n : NodeId) (s : State) : Host.Outcome State Fault Refusal :=
  .next (s.given (s.nd n).hist.pacer.delayEnds (s.pacerDelayEnds n))

/-! ### Autobaud -/

/-- The line measures: it is HUNTING, and the node is not CUT (R13, R14). -/
def State.measures (s : State) (n : NodeId) : Bool :=
  !s.held && s.condition n != .cut &&
    (match (s.nd n).line.autobaud with
     | .hunting _ => true
     | _ => false)

/-- The hunting window that is open. -/
def Autobaud.window : Autobaud → Option Window
  | .hunting w => w
  | _ => none

/-- An accepted edge ends a run of `run` cycles: the 32nd completes the window (R14). -/
def State.runEnds (s : State) (n : NodeId) (run : Nat) (w : Window) : State :=
  if w.runs = 31 then s.completeWindow n w run
  else s.mapLine n (fun l => { l with autobaud := .hunting (some (w.addRun run)) })

/-- An accepted edge of a line that measures: the first falling one opens the window, and every later one ends a run
(R14). -/
def State.acceptedEdge (s : State) (n : NodeId) (falling : Bool) (run : Nat) : State :=
  match (s.nd n).line.autobaud.window with
  | some w => s.runEnds n run w
  | none =>
    if falling then s.mapLine n (fun l => { l with autobaud := .hunting (some { runs := 0, shortest := 0 }) }) else s

/-- AUTOBAUD_ACCEPTED_EDGE (R14). The edges of the wait after a lock come by this command too (R16,
notes/assumptions/36.md). -/
def execAutobaudAcceptedEdge (n : NodeId) (falling : Bool) (run : Nat) (s : State) :
    Host.Outcome State Fault Refusal :=
  .next (if s.measures n then s.acceptedEdge n falling run else s.running (fun s => s.waitEdge n falling))

/-- A window of 31 runs, which the next run completes. -/
def Autobaud.fullWindow (a : Autobaud) : Option Window := a.window.filter (fun w => w.runs == 31)

/-- AUTOBAUD_WINDOW_COMPLETE: the 32nd run of the window ends (R14 to R16). -/
def execAutobaudWindowComplete (n : NodeId) (run : Nat) (s : State) : Host.Outcome State Fault Refusal :=
  .next
    (if s.measures n then
      s.given (s.nd n).line.autobaud.fullWindow (fun w => s.completeWindow n w run)
    else s)

/-- The cycle at which the wait after a lock ends, while CRXn reads 1. -/
def Receiver.lockWaitEnds : Receiver → Option Nat
  | .lockWait e => e
  | _ => none

/-- CRXn has read 1 for one character time after a lock: the receiver is idle (R16). -/
def State.lockWaitEnd (s : State) (n : NodeId) (e : Nat) : State :=
  (s.toCycle e).mapLine n (fun l => { l with rx := .idle })

/-- LOCK_IDLE_WAIT_END (R16). -/
def execLockIdleWaitEnd (n : NodeId) (s : State) : Host.Outcome State Fault Refusal :=
  .next (s.given (s.nd n).line.rx.lockWaitEnds (s.lockWaitEnd n))

/-! ### The transmitter -/

/-- The cycle at which the byte being sent ends. -/
def Transmitter.byteEnds : Transmitter → Option Nat
  | .byte f => some f.ends
  | _ => none

/-- The tick at which the break being held ends. -/
def Transmitter.breakEnds : Transmitter → Option Nat
  | .brk e => some e
  | _ => none

/-- The cycle at which the idle character time ends. -/
def Transmitter.gapEnds : Transmitter → Option Nat
  | .gap e => e
  | _ => none

/-- TX_CHARACTER_SENT (R21). -/
def execTxCharacterSent (n : NodeId) (s : State) : Host.Outcome State Fault Refusal :=
  .next (s.given (s.nd n).line.tx.byteEnds (fun e => (s.toCycle e).txFree n))

/-- TX_BREAK_END (R21). -/
def execTxBreakEnd (n : NodeId) (s : State) : Host.Outcome State Fault Refusal :=
  .next (s.given (s.nd n).line.tx.breakEnds (fun e => (s.toTick e).beginGap n))

/-- TX_IDLE_TIME_END (R21, R24). -/
def execTxIdleTimeEnd (n : NodeId) (s : State) : Host.Outcome State Fault Refusal :=
  .next (s.given (s.nd n).line.tx.gapEnds (fun e => (s.toCycle e).txFree n))

end Sys2Proof.Machine
end

