-- ==== Sys2Proof/Machine/LinkEvents.lean ====
section
/-! DEFINITION. The events of the Management Link (R169 to R172, R174 to R178, R183, R184), and the part resets and
start-up (R191, R192). -/

namespace Sys2Proof.Machine

/-! ### Frames of an unknown kind -/

/-- A frame whose KIND is no request kind is answered UNKNOWN_KIND (R174). A request kind has a command of its own and
is left alone here (notes/assumptions/3.md). -/
def State.unknownKind (s : State) (f : Frame) : State :=
  if isRequestKind f.kind = false ∧ s.takes f then s.takeFrame.reply f (.refused .unknownKind) else s

/-- UNKNOWN_KIND_FRAME (R174). -/
def execUnknownKindFrame (kind tag node : Byte) (payload : List Byte) (s : State) : Host.Outcome State Fault Refusal :=
  .next (s.unknownKind { kind := kind, tag := tag, node := node, payload := payload })

/-! ### Bytes on LRX -/

/-- The byte that arrives next is the last CRC byte of the frame being assembled. -/
def Link.atLast (l : Link) : Bool :=
  match l.assembling with
  | some a => a.atLast
  | none => false

/-- A byte arrives (R169, R170). -/
def State.linkByte (s : State) (b : Byte) (stopBit : Bool) : State :=
  s.mapLink (Link.receive s.clock.ticks b stopBit)

/-- LINK_FRAME_RECEIVED: the last CRC byte arrives, or, past the gap limit, the byte in its place (R169, R170). -/
def execLinkFrameReceived (byte : Byte) (s : State) : Host.Outcome State Fault Refusal :=
  .next (if s.listening && s.link.atLast then s.linkByte byte true else s)

/-- LINK_BYTE_RECEIVED: a byte before the last CRC byte, or a character whose stop bit reads 0 (R169, R170). -/
def execLinkByteReceived (byte : Byte) (stopBit : Bool) (s : State) : Host.Outcome State Fault Refusal :=
  .next (if s.listening && !((s.link.lapse s.clock.ticks).atLast && stopBit) then s.linkByte byte stopBit else s)

/-- The gap limit of the frame being assembled passes (R170). -/
def State.gapTimeout (s : State) (a : Assembly) : State := (s.toTick a.gapEnds).mapLink Link.discard

/-- LINK_GAP_TIMEOUT (R170). -/
def execLinkGapTimeout (s : State) : Host.Outcome State Fault Refusal :=
  .next (s.given s.link.assembling s.gapTimeout)

/-! ### LRTS and the transmitter -/

/-- The frame pauses when the byte in progress is finished, with `k` of its bytes sent: at least one, since the transmitter
begins a frame at once, and none fewer than at the fall of LRTS before. They can be as many as then: LRTS is tested between
two bytes only, so one byte can be in progress at both falls (R172, notes/assumptions/26.md). -/
def Sending.pause (k : Nat) (x : Sending) : Sending :=
  { x with sent := min x.frame.wire.length (max (max 1 x.sent) k) }

/-- LRTS is deasserted, and the frame on LTX pauses with `k` bytes sent (R172). -/
def Link.lrtsFalls (k : Nat) (l : Link) : Link :=
  { l with lrts := false, sending := l.sending.map (Sending.pause k) }

/-- LRTS is deasserted: how many bytes are sent is the free value of this pause (R172, notes/assumptions/26.md). -/
def State.lrtsFalls (s : State) : State :=
  { s.mapLink (Link.lrtsFalls (Config.bytesSent s.pauses)) with pauses := s.pauses + 1 }

/-- LRTS_DEASSERTED (R172). -/
def execLrtsDeasserted (s : State) : Host.Outcome State Fault Refusal :=
  .next (if s.link.lrts then s.lrtsFalls else s)

/-- LRTS_ASSERTED (R172). -/
def execLrtsAsserted (s : State) : Host.Outcome State Fault Refusal :=
  .next (s.mapLink (fun l => { l with lrts := true }))

/-- What the transmitter does on LTX: it holds the line high, or sends these bytes of the frame (R172). -/
inductive LtxDrive where
  | high
  | bytes (rest : List Byte)
deriving DecidableEq, Repr

/-- What stands on LTX: high with no frame, and while LRTS is deasserted; otherwise the bytes of the frame from the one
after the last pause on. A byte in progress as LRTS changes is among those sent, and its end is not spoken of (R172,
notes/assumptions/27.md). -/
def Link.ltx (l : Link) : LtxDrive :=
  match l.sending with
  | some x => if l.lrts then .bytes (x.frame.wire.drop x.sent) else .high
  | none => .high

/-- A grant may be made: the part is not in reset, the transmitter is idle and LRTS is asserted (R172, R178). -/
def State.mayGrant (s : State) : Bool := !s.held && s.link.sending.isNone && s.link.lrts

/-- ARBITER_GRANT (R177 to R180). -/
def execArbiterGrant (s : State) : Host.Outcome State Fault Refusal := .next (if s.mayGrant then s.grant else s)

/-- A waiting save reply takes the place that has just freed (R176). -/
def Link.placeWaiting (l : Link) : Link :=
  match l.saveReply with
  | some f => { l with replies := l.replies ++ [f], saveReply := none }
  | none => l

/-- The frame is the reply to an accepted PART_RESTART (R183). -/
def Frame.restartReply (f : Frame) : Bool := f.kind == 0x83 && f.payload.head? == some Result.ok.code

/-- A reply has been sent whole: its place is free. The reply to an accepted PART_RESTART starts the part reset; before
that a waiting save reply takes the place (R176, R183). -/
def State.replySent (s : State) (f : Frame) : State :=
  let t := s.mapLink (fun l => { l with sending := none, replies := l.replies.tail })
  match s.link.restart with
  | some d => if f.restartReply then t.partReset .restart d else t
  | none => t.mapLink Link.placeWaiting

/-- A notice has been sent whole; PART_READY opens the link (R184). -/
def State.noticeSent (s : State) (f : Frame) : State :=
  s.mapLink (fun l => { l with sending := none, up := l.up || f.kind == 0x40 })

/-- The last byte of the outgoing frame has been sent (R172). -/
def State.frameSent (s : State) (x : Sending) : State := if x.isReply then s.replySent x.frame else s.noticeSent x.frame

/-- The frame on LTX whose last byte may be sent: LRTS is asserted, or every byte had been sent when it was deasserted
(R172). -/
def Link.ending (l : Link) : Option Sending :=
  l.sending.filter (fun x => l.lrts || x.sent == x.frame.wire.length)

/-- FRAME_SENT (R172, R176, R183, R184). -/
def execFrameSent (s : State) : Host.Outcome State Fault Refusal := .next (s.given s.link.ending s.frameSent)

/-! ### Resets and start-up -/

/-- RESET_N_ASSERTED (R191, R192). -/
def execResetNAsserted (s : State) : Host.Outcome State Fault Refusal := .next (s.partReset .pin false)

/-- POWER_ON (R191, R192). -/
def execPowerOn (s : State) : Host.Outcome State Fault Refusal := .next (s.partReset .powerOn false)

/-- START_UP: the reset cause has ended (R191). A part that is not in reset has nothing to start. -/
def execStartUp (straps : BitVec 2) (s : State) : Host.Outcome State Fault Refusal :=
  .next (if s.held then s.startUp straps else s)

end Sys2Proof.Machine
end

