-- ==== Sys2Proof/Machine/LivenessEvents.lean ====
section
/-! DEFINITION. The events of the Liveness Monitors (R155 to R159). -/

namespace Sys2Proof.Machine

/-! ### The heartbeat -/

/-- HBn reads a level other than the accepted one, or none has been accepted yet. -/
def Live.unsettled (l : Live) : Bool :=
  match l.hb with
  | .settling => true
  | .low => l.hbPin
  | .high => !l.hbPin

/-- The 1 ms filter starts, restarts or stops after a change of HBn (R155). -/
def Live.filterHb (now : Nat) (l : Live) : Live := { l with hbFilter := if l.unsettled then some (now + 1) else none }

/-- HBn takes a new level (R155). In reset the pin alone changes. -/
def State.hbChange (s : State) (n : NodeId) (high : Bool) : State :=
  let t := s.mapLive n (fun l => { l with hbPin := high })
  if s.held then t else t.mapLive n (Live.filterHb s.clock.ticks)

/-- HB_INPUT_CHANGE (R155). -/
def execHbInputChange (n : NodeId) (high : Bool) (s : State) : Host.Outcome State Fault Refusal :=
  .next (if (s.nd n).live.hbPin = high then s else s.hbChange n high)

/-- HBn's level is accepted; it is a kick, but for the first acceptance after a part reset (R155). -/
def State.acceptHb (s : State) (n : NodeId) : State :=
  let t := s.mapLive n (fun l => { l with hb := if l.hbPin then .high else .low, hbFilter := none })
  if (s.nd n).live.hb = .settling then t else t.kick n .hb

/-- HB_LEVEL_ACCEPTED (R155). -/
def execHbLevelAccepted (n : NodeId) (s : State) : Host.Outcome State Fault Refusal :=
  .next (s.given (s.nd n).live.hbFilter (fun e => (s.toTick e).acceptHb n))

/-! ### Periods -/

/-- The tick at which the grace period ends. -/
def Monitor.graceEnds : Monitor → Option Nat
  | .grace e => some e
  | _ => none

/-- The tick at which the timeout period ends. -/
def Monitor.timeoutEnds : Monitor → Option Nat
  | .watching e _ => some e
  | _ => none

/-- The tick at which the warn period ends. -/
def Monitor.warnEnds : Monitor → Option Nat
  | .warned e => some e
  | _ => none

/-- GRACE_EXPIRY (R156). -/
def execGraceExpiry (n : NodeId) (s : State) : Host.Outcome State Fault Refusal :=
  .next (s.given (s.nd n).live.monitor.graceEnds (fun e => (s.toTick e).enterWatching n))

/-- TIMEOUT_EXPIRY (R157). -/
def execTimeoutExpiry (n : NodeId) (s : State) : Host.Outcome State Fault Refusal :=
  .next (s.given (s.nd n).live.monitor.timeoutEnds (fun e => (s.toTick e).warn n))

/-- WARN_EXPIRY (R159 to R162). -/
def execWarnExpiry (n : NodeId) (s : State) : Host.Outcome State Fault Refusal :=
  .next (s.given (s.nd n).live.monitor.warnEnds (fun e => (s.toTick e).warnExpires n))

/-- The monitor without its stable deadline. -/
def Monitor.withoutStable : Monitor → Monitor
  | .watching e _ => .watching e none
  | m => m

/-- The stable deadline passes: the recovery count becomes 0, and no new deadline is set (R158). -/
def State.stablePasses (s : State) (n : NodeId) : State :=
  s.mapLive n (fun l => { l with recoveries := 0, statePending := true, monitor := l.monitor.withoutStable })

/-- STABLE_DEADLINE_EXPIRY (R158). -/
def execStableDeadlineExpiry (n : NodeId) (s : State) : Host.Outcome State Fault Refusal :=
  .next (s.given (s.nd n).live.monitor.stableEnds (fun e => (s.toTick e).stablePasses n))

end Sys2Proof.Machine
end

