-- ==== Sys2Proof/Machine/MediaRequests.lean ====
section
/-! DEFINITION. The media requests (R77, R80, R81, R83, R88 to R90, R105 to R107, R114 to R116, R119, R122, R123). -/

namespace Sys2Proof.Machine

/-! ### MED_ATTACH -/

/-- The medium a MED_ATTACH payload describes for a node with this boot number; `none` where R77 refuses it. -/
def Medium.ofPayload (p : List Byte) (boot : Half) : Option Medium :=
  match WritePolicy.ofCode (byteAt p 8), Presentation.ofCode (byteAt p 9) boot with
  | some w, some pr =>
    if fieldAt p 4 4 = 0 then none
    else
      some
        { state := .ready, imageId := fieldAt p 0 4, capacity := fieldAt p 4 4, policy := w, present := pr,
          removable := optionBit (byteAt p 10) 0, changed := true, protect := [], zero := [] }
  | _, _ => none

/-- A MED_ATTACH is carried out (R77). -/
def State.attach (s : State) (n : NodeId) (payload : List Byte) : Carried :=
  match Medium.ofPayload payload (s.nd n).power.boot with
  | none => s.answers .badParam (slotBlock (s.slot n))
  | some x =>
    if (s.slot n).isSome then s.answers .badState (slotBlock (s.slot n))
    else
      let t := s.mapMedia n (fun m => { m with slot := some x, continuation := none, statePending := true })
      t.answers .ok (slotBlock (t.slot n))

/-- MED_ATTACH (R77). -/
def execMedAttach (tag node : Byte) (payload : List Byte) (s : State) : Host.Outcome State Fault Refusal :=
  .next (nodeRequest 0x20 tag node payload (payload.length == 11) (fun n s => s.attach n payload) s)

/-! ### MED_DETACH -/

/-- A MED_DETACH is carried out: DRAIN under R81, DISCARD under R83. With an unlisted mode the count of the refused reply is that
of the entries that remain to be stored (R81, R195). -/
def State.detach (s : State) (n : NodeId) (payload : List Byte) : Carried :=
  match discardOfCode (byteAt payload 0), s.slot n with
  | none, _ => s.answers .badParam (slotCode (s.slot n) :: leBytes 2 (s.unstoredCount n))
  | some _, none => s.answers .badState (slotCode (s.slot n) :: leBytes 2 0)
  | some false, some _ =>
    let t := s.drain n
    t.answers .ok (slotCode (t.slot n) :: leBytes 2 (t.unstoredCount n))
  | some true, some _ =>
    let t := s.discard n
    t.answers .ok (slotCode (t.slot n) :: leBytes 2 (s.unstoredCount n))

/-- MED_DETACH (R81, R83). -/
def execMedDetach (tag node : Byte) (payload : List Byte) (s : State) : Host.Outcome State Fault Refusal :=
  .next (nodeRequest 0x21 tag node payload (payload.length == 1) (fun n s => s.detach n payload) s)

/-! ### MED_FILL, MED_FILL_FAIL -/

/-- The FILLING entry of this tag, node and LBA (R105). -/
def State.fillable (s : State) (n : NodeId) (tag lba : Nat) : Option Entry :=
  match s.tagged tag with
  | some e => if e.node = n ∧ e.lba = lba ∧ e.state.isFilling then some e else none
  | none => none

/-- A fill is accepted: the data is written, the entry becomes VALID, and a block that waits on it becomes ready
(R105). -/
def State.fill (s : State) (n : NodeId) (e : Entry) (data : List Byte) : State :=
  let t := ({ s with mem := s.mem.writePage e.page data } : State).makeValid n e.page
  if s.waitsOn n e.lba then t.mapCommand n (fun c => c.mark e.lba .ready) else t

/-- A MED_FILL is carried out (R105, R106). -/
def State.takeFill (s : State) (n : NodeId) (payload : List Byte) : Carried :=
  let tag := fieldAt payload 0 2
  if 1023 < tag then s.answers .badParam []
  else
    match s.fillable n tag (fieldAt payload 2 4) with
    | none => s.answers .stale []
    | some e => (s.fill n e (payload.drop 6)).answers .ok []

/-- MED_FILL (R105, R106). -/
def execMedFill (tag node : Byte) (payload : List Byte) (s : State) : Host.Outcome State Fault Refusal :=
  .next (nodeRequest 0x22 tag node payload (payload.length == 518) (fun n s => s.takeFill n payload) s)

/-- A FILLING entry ends without data: it is freed, and a READ that waits on it ends with `st` (R95, R107, R108). -/
def State.failFill (s : State) (e : Entry) (st : NodeStatus) : State :=
  let t := s.freeEntry e
  if s.waitsOn e.node e.lba then t.endCommand e.node st else t

/-- A MED_FILL_FAIL is carried out (R107). -/
def State.takeFillFail (s : State) (n : NodeId) (payload : List Byte) : Carried :=
  let tag := fieldAt payload 0 2
  if 1023 < tag then s.answers .badParam []
  else
    match s.fillable n tag (fieldAt payload 2 4) with
    | none => s.answers .stale []
    | some e => (s.failFill e .mediumError).answers .ok []

/-- MED_FILL_FAIL (R107). -/
def execMedFillFail (tag node : Byte) (payload : List Byte) (s : State) : Host.Outcome State Fault Refusal :=
  .next (nodeRequest 0x23 tag node payload (payload.length == 6) (fun n s => s.takeFillFail n payload) s)

/-! ### MED_STORED -/

/-- The cases of R114; `resolve k` resolves the `k` oldest entries. -/
inductive Acknowledgement where
  | nothing | resolve (k : Nat) | behind | beyond
deriving DecidableEq, Repr

/-- How MED_STORED's number stands against the outstanding list (R114). -/
def State.classify (s : State) (n : NodeId) (through : Half) : Acknowledgement :=
  match s.window n with
  | none => .nothing
  | some (oldest, _) =>
    let k := (s.nd n).cache.outstanding.length
    let x := (through - oldest).toNat
    if x < k then .resolve (x + 1) else if 32768 ≤ x then .behind else .beyond

/-- A stored block of a current ACKED WRITE is no longer counted as unstored (R120). -/
def State.storedBlock (s : State) (n : NodeId) (lba : Nat) : State :=
  s.mapCommand n (fun c =>
    if c.write ∧ s.ackedPolicy n ∧ c.lba ≤ lba ∧ lba < c.lba + c.finished then { c with unstored := c.unstored - 1 }
    else c)

/-- The front of the outstanding list is resolved: VALID, or DIRTY again when it was rewritten (R115). -/
def State.resolveFront (n : NodeId) (s : State) : State :=
  match (s.nd n).cache.outstanding with
  | [] => s
  | p :: _ =>
    match s.tagged p with
    | none => s
    | some e =>
      match e.state with
      | .flushing _ rewritten _ =>
        if rewritten then s.makeDirty n p else (s.makeValid n p).storedBlock n e.lba
      | _ => s

/-- A store timeout: a READY slot becomes FAULTED and a current READ or WRITE ends NOT_READY (R117); a WITHDRAWING one
sends its FLUSHING entries again (R118). -/
def State.storeTimesOut (s : State) (n : NodeId) : State :=
  match s.slot n with
  | none => s
  | some m =>
    match m.state with
    | .ready => (s.slotTo n .faulted).leaveReady n
    | .withdrawing => s.returnFlushing n
    | .faulted => s

/-- The new front of the outstanding list has a deadline that has already passed: the timeout applies at once
(R115). -/
def State.overdue (s : State) (n : NodeId) : State :=
  match s.storeDeadline n with
  | some d => if d ≤ s.clock.ticks then s.storeTimesOut n else s
  | none => s

/-- An acknowledgement in the window resolves `k` entries, and the follow-ups are made in their order (R115, R116). -/
def State.resolve (s : State) (n : NodeId) (k : Nat) : State :=
  (((times k (State.resolveFront n) s).overdue n).writeTest n).drainEnd n

/-- A MED_STORED is carried out (R114 to R116). -/
def State.takeStored (s : State) (n : NodeId) (payload : List Byte) : Carried :=
  match s.classify n (BitVec.ofNat 16 (fieldAt payload 0 2)) with
  | .nothing => s.answers .ok (s.sequenceFields n ++ leBytes 1 0)
  | .behind => s.answers .ok (s.sequenceFields n ++ leBytes 1 0)
  | .beyond => s.answers .badParam (s.sequenceFields n ++ leBytes 1 0)
  | .resolve k =>
    let t := s.resolve n k
    t.answers .ok (t.sequenceFields n ++ leBytes 1 k)

/-- MED_STORED (R114 to R116). -/
def execMedStored (tag node : Byte) (payload : List Byte) (s : State) : Host.Outcome State Fault Refusal :=
  .next (nodeRequest 0x24 tag node payload (payload.length == 2) (fun n s => s.takeStored n payload) s)

/-! ### MED_EXTENTS_SET -/

/-- The length rule of MED_EXTENTS_SET (R194). -/
def extentsLengthOk (p : List Byte) : Bool := p.length == 2 + 8 * fieldAt p 1 1

/-- An entry of the node whose LBA lies inside the ranges, in a state that `f` accepts. -/
def Entry.inside (n : NodeId) (l : List Range) (f : EntryState → Bool) (e : Entry) : Bool :=
  e.node == n && f e.state && inRanges l e.lba

/-- The states a ZERO table frees: VALID and FILLING (R89). -/
def EntryState.isClean (e : EntryState) : Bool := e.isValid || e.isFilling

/-- The blocks of a current READ when the zero table becomes `new`: one inside it becomes ready as zeros, and one that has
left the table `old` is looked up by `find` (R89, R93). -/
def Command.retabled (old new : List Range) (find : Nat → BlockStatus) (c : Command) : Command :=
  { c with list := c.list.map (fun p =>
      if inRanges new p.lba then { p with status := .ready }
      else if inRanges old p.lba ∧ c.write = false then { p with status := find p.lba }
      else p) }

/-- A normalised ZERO list becomes the zero table in the place of `old`: the clean entries inside it are freed, and the
blocks of a current READ are looked at again; those that need an entry then make their requests (R89, R92). -/
def State.setZero (s : State) (n : NodeId) (old l : List Range) : State :=
  let t := (s.mapSlot n (fun m => { m with zero := l })).freeWhere (Entry.inside n l EntryState.isClean)
  State.serveRequests Config.listPlaces n (t.mapCommand n (Command.retabled old l (t.lookUp n)))

/-- The reply fields of MED_EXTENTS_SET. -/
def extentFields (count freed : Nat) : List Byte := leBytes 1 count ++ leBytes 2 freed

/-- A ZERO list for a slot that is not ABSENT is carried out (R88, R89). -/
def State.takeZero (s : State) (n : NodeId) (m : Medium) (l : List Range) : Carried :=
  if 16 < l.length then s.answers .noRoom (extentFields m.zero.length 0)
  else if s.entries.any (Entry.inside n l EntryState.isUnstored) then
    s.answers .badState (extentFields m.zero.length 0)
  else
    (s.setZero n m.zero l).answers .ok
      (extentFields l.length (s.entries.countP (Entry.inside n l EntryState.isClean)))

/-- A PROTECT list for a slot that is not ABSENT is carried out (R88, R90). -/
def State.takeProtect (s : State) (n : NodeId) (m : Medium) (l : List Range) : Carried :=
  if 8 < l.length then s.answers .noRoom (extentFields m.protect.length 0)
  else (s.mapSlot n (fun m => { m with protect := l })).answers .ok (extentFields l.length 0)

/-- The ranges in the table of a kind, 0 for an unknown kind or an ABSENT slot. -/
def tableCount (slot : Option Medium) : Option Bool → Nat
  | some true => ((slot.map Medium.protect).getD []).length
  | some false => ((slot.map Medium.zero).getD []).length
  | none => 0

/-- A MED_EXTENTS_SET is carried out (R88 to R90). -/
def State.setExtents (s : State) (n : NodeId) (payload : List Byte) : Carried :=
  let kind := protectOfCode (byteAt payload 0)
  let k := fieldAt payload 1 1
  if kind = none ∨ 32 < k then s.answers .badParam (extentFields (tableCount (s.slot n) kind) 0)
  else
    match s.slot n with
    | none => s.answers .badState (extentFields 0 0)
    | some m =>
      let l := normalRanges m.capacity (rangesAt (payload.drop 2) k)
      if kind = some true then s.takeProtect n m l else s.takeZero n m l

/-- MED_EXTENTS_SET (R88 to R90). -/
def execMedExtentsSet (tag node : Byte) (payload : List Byte) (s : State) : Host.Outcome State Fault Refusal :=
  .next (nodeRequest 0x25 tag node payload (extentsLengthOk payload) (fun n s => s.setExtents n payload) s)

/-! ### MED_RECOVER, MED_STATUS, MED_TUNING_SET -/

/-- The slot of node `n` is FAULTED. -/
def State.slotFaulted (s : State) (n : NodeId) : Bool :=
  match s.slot n with
  | some m => m.state == .faulted
  | none => false

/-- A MED_RECOVER is carried out (R80, R119). -/
def State.recoverMedia (s : State) (n : NodeId) : Carried :=
  if s.slotFaulted n then
    let t := (s.slotTo n .ready).returnFlushing n
    t.answers .ok (leBytes 1 (s.nd n).cache.outstanding.length ++ leBytes 1 (t.nd n).cache.queue.length)
  else s.answers .badState (leBytes 1 0 ++ leBytes 1 (s.nd n).cache.queue.length)

/-- MED_RECOVER (R80, R119). -/
def execMedRecover (tag node : Byte) (payload : List Byte) (s : State) : Host.Outcome State Fault Refusal :=
  .next (nodeRequest 0x26 tag node payload (payload.length == 0) (fun n s => s.recoverMedia n) s)

/-- MED_STATUS (R123). -/
def execMedStatus (tag node : Byte) (payload : List Byte) (s : State) : Host.Outcome State Fault Refusal :=
  .next (nodeRequest 0x27 tag node payload (payload.length == 0)
    (fun n s => s.answers .ok (s.mediaBlock n ++ (s.set n).tuning.layout)) s)

/-- The tuning of a payload, clamped into its ranges (R122). -/
def Tuning.ofPayload (p : List Byte) : Tuning :=
  { readAhead := clamp 0 32 (fieldAt p 0 1), fetchTimeout := clamp 100 60000 (fieldAt p 1 2),
    storeTimeout := clamp 500 120000 (fieldAt p 3 4) }

/-- A MED_TUNING_SET is carried out (R122). -/
def State.setTuning (s : State) (n : NodeId) (payload : List Byte) : Carried :=
  let x := Tuning.ofPayload payload
  (s.mapSet n (fun y => { y with tuning := x })).answers
    (Result.adjustedIf (x.readAhead != fieldAt payload 0 1 || x.fetchTimeout != fieldAt payload 1 2
      || x.storeTimeout != fieldAt payload 3 4)) x.layout

/-- MED_TUNING_SET (R122). -/
def execMedTuningSet (tag node : Byte) (payload : List Byte) (s : State) : Host.Outcome State Fault Refusal :=
  .next (nodeRequest 0x28 tag node payload (payload.length == 7) (fun n s => s.setTuning n payload) s)

end Sys2Proof.Machine
end

