-- ==== Sys2Proof/Machine/MediaEvents.lean ====
section
/-! DEFINITION. The node's USB port (R72 to R75, R78, R84, R87), the service of its READ and WRITE blocks (R92 to R97),
and the timeouts of the Media Cache (R108, R117, R118). -/

namespace Sys2Proof.Machine

/-! ### The port -/

/-- VBUS_PRESENT (R72). -/
def execVbusPresent (n : NodeId) (s : State) : Host.Outcome State Fault Refusal :=
  .next (s.mapMedia n (fun m => { m with vbus := true }))

/-- VBUS_ABSENT (R75). -/
def execVbusAbsent (n : NodeId) (s : State) : Host.Outcome State Fault Refusal :=
  .next ((s.tearDown n).mapMedia n (fun m => { m with vbus := false }))

/-- USB_BUS_RESET (R75). -/
def execUsbBusReset (n : NodeId) (s : State) : Host.Outcome State Fault Refusal :=
  .next (if s.connected n then s.tearDown n else s)

/-- The port takes a command block: it is connected, and no command is current (R72). -/
def State.portFree (s : State) (n : NodeId) : Bool := s.connected n && (s.nd n).media.current.isNone

/-! ### Commands answered at once -/

/-- INVALID_COMMAND (R72). -/
def execInvalidCommand (n : NodeId) (s : State) : Host.Outcome State Fault Refusal :=
  .next (if s.portFree n then s.answer n .invalidRequest else s)

/-- The medium-changed flag is clear now, and the command that was not carried out ends MEDIUM_CHANGED (R78). -/
def State.tellChanged (s : State) (n : NodeId) : State :=
  (s.mapSlot n (fun m => { m with changed := false })).answer n .mediumChanged

/-- The medium of a READY slot. -/
def State.readyMedium (s : State) (n : NodeId) : Option Medium :=
  match s.slot n with
  | some m => if m.state = .ready then some m else none
  | none => none

/-- READY is answered by the slot state (R73, R78). -/
def State.answerReady (s : State) (n : NodeId) : State :=
  match s.readyMedium n with
  | none => s.answer n .notReady
  | some m => if m.changed then s.tellChanged n else s.answer n .good

/-- READY (R73, R78). -/
def execReady (n : NodeId) (s : State) : Host.Outcome State Fault Refusal :=
  .next (if s.portFree n then s.answerReady n else s)

/-- CAPACITY is answered by the slot state (R73). -/
def State.answerCapacity (s : State) (n : NodeId) : State :=
  match s.readyMedium n with
  | none => s.answer n .notReady
  | some m => s.answer n .good (.capacity m.capacity Config.pageBytes)

/-- CAPACITY (R73). -/
def execCapacity (n : NodeId) (s : State) : Host.Outcome State Fault Refusal :=
  .next (if s.portFree n then s.answerCapacity n else s)

/-- EJECT is answered by the slot state and the removable option (R84). -/
def State.answerEject (s : State) (n : NodeId) : State :=
  match s.slot n with
  | none => s.answer n .notReady
  | some m => if m.removable then (s.drain n).answer n .good else s.answer n .invalidRequest

/-- EJECT (R84). -/
def execEject (n : NodeId) (s : State) : Host.Outcome State Fault Refusal :=
  .next (if s.portFree n then s.answerEject n else s)

/-- SENSE returns the last status as one coded byte, with its own status GOOD; the last status is GOOD then (R73, R74). -/
def State.answerSense (s : State) (n : NodeId) : State := s.answer n .good (.sense (s.nd n).media.last.code)

/-- SENSE (R73, R74). -/
def execSense (n : NodeId) (s : State) : Host.Outcome State Fault Refusal :=
  .next (if s.portFree n then s.answerSense n else s)

/-! ### READ and WRITE -/

/-- Some block of the command lies inside the protect table (R87). -/
def protects (t : List Range) (lba count : Nat) : Bool :=
  t.any (fun r => decide (max lba r.first < min (lba + count) (r.first + r.count)))

/-- The status with which a READ or WRITE fails its checks, the first failing check deciding (R72, R87). -/
def State.checkCommand (s : State) (n : NodeId) (write : Bool) (lba count : Nat) : Option NodeStatus :=
  if count = 0 then some .invalidRequest
  else
    match s.readyMedium n with
    | none => some .notReady
    | some m =>
      if m.changed then some .mediumChanged
      else if m.capacity < lba + count then some .lbaRange
      else if write ∧ (m.policy = .readOnly ∨ protects m.protect lba count) then some .writeProtected
      else none

/-- A READ or WRITE becomes the current command, and its first blocks join the list (R92). -/
def State.beginCommand (s : State) (n : NodeId) (write : Bool) (lba count : Nat) : State :=
  (s.mapMedia n (fun m =>
    { m with
      current := some { write := write, lba := lba, count := count, finished := 0, list := [], unstored := 0 }
      out := { status := none, data := .nothing } })).fillList n

/-- A READ or WRITE reaches the port: it ends with the status of the first failing check, or is served through the
block list (R78, R87, R92). -/
def State.takeCommand (s : State) (n : NodeId) (write : Bool) (lba count : Nat) : State :=
  match s.checkCommand n write lba count with
  | some .mediumChanged => s.tellChanged n
  | some st => s.answer n st
  | none => s.beginCommand n write lba count

/-- READ (R87, R92, R93). -/
def execRead (n : NodeId) (lba : Word) (count : Half) (s : State) : Host.Outcome State Fault Refusal :=
  .next (if s.portFree n then s.takeCommand n false lba.toNat count.toNat else s)

/-- WRITE (R87, R92). -/
def execWrite (n : NodeId) (lba : Word) (count : Half) (s : State) : Host.Outcome State Fault Refusal :=
  .next (if s.portFree n then s.takeCommand n true lba.toNat count.toNat else s)

/-- The first block that needs a new entry makes its request: a READ block that wants a FILLING entry, or the buffered
WRITE block that finds no entry (R66, R92, R100). -/
def State.requestEntry (s : State) (n : NodeId) : State :=
  match s.serveRequest n with
  | some t => t
  | none =>
    match s.buffered n with
    | none => s
    | some (lba, bytes) => if (s.entryFor n lba).isNone then s.acceptNew n lba bytes else s

/-- NEW_ENTRY_REQUEST (R66, R92). -/
def execNewEntryRequest (n : NodeId) (s : State) : Host.Outcome State Fault Refusal :=
  .next (s.running (fun s => s.requestEntry n))

/-- The current READ whose front block is ready, with that block. -/
def State.readyFront (s : State) (n : NodeId) : Option (Command × BlockPlace) :=
  match (s.nd n).media.current with
  | none => none
  | some c =>
    match c.list with
    | [] => none
    | p :: _ => if c.write = false ∧ p.status = .ready then some (c, p) else none

/-- BLOCK_DELIVERY (R94, R95). -/
def execBlockDelivery (n : NodeId) (s : State) : Host.Outcome State Fault Refusal :=
  .next (s.given (s.readyFront n) (fun x => s.deliverFront n x.1 x.2))

/-- The port takes data of the current WRITE: blocks remain, and the receive buffer is empty (R96). -/
def State.takesData (s : State) (n : NodeId) : Bool :=
  match (s.nd n).media.current with
  | none => false
  | some c => c.write && !c.list.isEmpty && (s.nd n).media.received.isNone

/-- WRITE_BLOCK_RECEIVED (R72, R96). -/
def execWriteBlockReceived (n : NodeId) (data : List Byte) (s : State) : Host.Outcome State Fault Refusal :=
  .next
    (if s.connected n && s.takesData n && data.length == Config.pageBytes then
      s.mapMedia n (fun m => { m with received := some data })
    else s)

/-- BLOCK_ACCEPT (R91, R96, R97, R109, R120). -/
def execBlockAccept (n : NodeId) (s : State) : Host.Outcome State Fault Refusal :=
  .next (s.given (s.buffered n) (fun x => s.acceptFront n x.1 x.2))

/-! ### Timeouts of the Media Cache -/

/-- The FILLING entry of this page whose fetch has been sent, with its deadline (R108). -/
def State.sentFetch (s : State) (page : Nat) : Option (Entry × Nat) :=
  match s.tagged page with
  | none => none
  | some e =>
    match e.state with
    | .filling (some d) => if (s.slot e.node).isSome then some (e, d) else none
    | _ => none

/-- FETCH_TIMEOUT (R108). -/
def execFetchTimeout (page : Nat) (s : State) : Host.Outcome State Fault Refusal :=
  .next (s.given (s.sentFetch page) (fun x => (s.toTick x.2).failFill x.1 .timedOut))

/-- STORE_TIMEOUT (R117, R118). -/
def execStoreTimeout (n : NodeId) (s : State) : Host.Outcome State Fault Refusal :=
  .next (s.given (s.storeDeadline n) (fun d => (s.toTick d).storeTimesOut n))

end Sys2Proof.Machine
end

