-- ==== Sys2Proof/Machine/PartRequests.lean ====
section
/-! DEFINITION. The part-wide requests (R1, R61, R62, R181 to R183, R187, R188) and the end of a settings write. -/

namespace Sys2Proof.Machine

/-! ### PART_STATUS -/

/-- The reply fields of PART_STATUS, 41 bytes (R181). -/
def State.statusFields (s : State) : List Byte :=
  Config.revision :: leBytes 4 s.cfg.fref ++ [s.store.source.code, s.store.saveCode] ++ s.poolCounts
    ++ NodeId.all.flatMap s.nodeSummary

/-- PART_STATUS (R181). -/
def execPartStatus (tag node : Byte) (payload : List Byte) (s : State) : Host.Outcome State Fault Refusal :=
  .next (partRequest 0x01 tag node payload (payload.length == 0) (fun s => s.answers .ok s.statusFields) s)

/-! ### PART_SAVE -/

/-- A PART_SAVE is carried out: refused BUSY while a write runs, with the CRC field 0; otherwise the snapshot is
taken, the image is bad, and no reply is made yet (R187, R188). -/
def State.save (s : State) (tag node : Byte) : Carried :=
  if s.store.save.isSome then s.answers .busy (leBytes 4 0)
  else
    { state := { s with
        store := { s.store with image := .bad, save := some { snapshot := s.cfg, tag := tag, node := node } } }
      answer := none }

/-- PART_SAVE (R187, R188). -/
def execPartSave (tag node : Byte) (payload : List Byte) (s : State) : Host.Outcome State Fault Refusal :=
  .next (partRequest 0x02 tag node payload (payload.length == 0) (fun s => s.save tag node) s)

/-- The save's reply, made when the write ends (R175, R187). -/
def SaveJob.reply (j : SaveJob) (discarded : Bool) : Frame :=
  Frame.reply { kind := 0x02, tag := j.tag, node := j.node, payload := [] } discarded
    { result := .ok, fields := leBytes 4 (imageCrc j.snapshot).toNat }

/-- A reply made joins the tail of the reply queue, or waits where the queue is full (R176). -/
def Link.placeSave (f : Frame) (l : Link) : Link :=
  if l.replies.length < Config.replyPlaces then { l with replies := l.replies ++ [f], discarded := false }
  else { l with saveReply := some f, discarded := false }

/-- The write ends: the image is good and holds the snapshot, the save state is IDLE, and the reply is made (R176,
R187). -/
def State.saveEnds (s : State) (j : SaveJob) : State :=
  ({ s with
      store := { s.store with image := .written j.snapshot (imageCrc j.snapshot), save := none } } : State).mapLink
    (fun l => l.placeSave (j.reply l.discarded))

/-- SAVE_WRITE_END (R187). -/
def execSaveWriteEnd (s : State) : Host.Outcome State Fault Refusal := .next (s.given s.store.save s.saveEnds)

/-! ### PART_RESTART -/

/-- A PART_RESTART is carried out: restart taken is set with the defaults flag; an unlisted flag value is refused
(R183, R193). -/
def State.takeRestart (s : State) (payload : List Byte) : Carried :=
  match onOffOfCode (byteAt payload 0) with
  | none => s.answers .badParam []
  | some d => (s.mapLink (fun l => { l with restart := some d })).answers .ok []

/-- PART_RESTART (R183). -/
def execPartRestart (tag node : Byte) (payload : List Byte) (s : State) : Host.Outcome State Fault Refusal :=
  .next (partRequest 0x03 tag node payload (payload.length == 1) (fun s => s.takeRestart payload) s)

/-! ### POOL_SET -/

/-- The quota pair of the `i`-th node in a POOL_SET payload, min first. -/
def quotaAt (p : List Byte) (i : Nat) : Quota := { min := fieldAt p (2 * i) 1, max := fieldAt p (2 * i + 1) 1 }

/-- The quotas of the four nodes in a POOL_SET payload. -/
def quotasOf (p : List Byte) : PerNode Quota := ⟨quotaAt p 0, quotaAt p 1, quotaAt p 2, quotaAt p 3⟩

/-- Every min and max lies in 2 to 160 and no min exceeds its max (R61). -/
def PerNode.validQuotas (q : PerNode Quota) : Bool :=
  q.n0.inRange && q.n1.inRange && q.n2.inRange && q.n3.inRange

/-- The quotas become the node quotas in force (R61). -/
def State.setQuotas (s : State) (q : PerNode Quota) : State :=
  NodeId.all.foldl (fun s n => s.mapSet n (fun x => { x with quota := q.get n })) s

/-- The shedding pass, then the growth pass, each N0 first (R62). -/
def State.applyQuotas (s : State) : State :=
  NodeId.all.foldl State.growRing (NodeId.all.foldl State.shedRing s)

/-- The reply fields of POOL_SET: the quotas in force, the ring page counts and the pool counts (R62). -/
def State.poolFields (s : State) : List Byte :=
  s.quotaLayout ++ NodeId.all.map (fun n => BitVec.ofNat 8 (s.nd n).hist.ring.length) ++ s.poolCounts

/-- A POOL_SET is carried out (R61, R62). -/
def State.setPool (s : State) (payload : List Byte) : Carried :=
  if (quotasOf payload).validQuotas then
    let t := (s.setQuotas (quotasOf payload)).applyQuotas
    t.answers .ok t.poolFields
  else s.answers .badParam s.poolFields

/-- POOL_SET (R61, R62). -/
def execPoolSet (tag node : Byte) (payload : List Byte) (s : State) : Host.Outcome State Fault Refusal :=
  .next (partRequest 0x04 tag node payload (payload.length == 8) (fun s => s.setPool payload) s)

/-! ### CLOCK_SET -/

/-- Fref takes a value in range, and the tick in progress follows R2. -/
def State.setFref (s : State) (f : Nat) : State :=
  { s with cfg := { s.cfg with fref := f }, clock := s.clock.newFref f }

/-- The idle-gap timer of a line whose d has changed from `old` restarts (R7, R12). -/
def State.recomputedLine (old : State) (s : State) (n : NodeId) : State :=
  if s.bitPeriod n = old.bitPeriod n then s else s.restartIdleGap n

/-- The figures d and Ba of a line, 0 while it is HUNTING (R1). -/
def State.lineFigures (s : State) (n : NodeId) : List Byte :=
  match s.bitPeriod n with
  | none => leBytes 4 0 ++ leBytes 4 0
  | some d => leBytes 4 d ++ leBytes 4 (nearestQuotient s.cfg.fref d)

/-- A CLOCK_SET is carried out (R1, R7, R182). -/
def State.setClock (s : State) (payload : List Byte) : Carried :=
  let v := fieldAt payload 0 4
  let f := clamp 12000 50000 v
  let t := NodeId.all.foldl s.recomputedLine (s.setFref f)
  t.answers (Result.adjustedIf (f != v)) (leBytes 4 f ++ NodeId.all.flatMap t.lineFigures)

/-- CLOCK_SET (R1, R182). -/
def execClockSet (tag node : Byte) (payload : List Byte) (s : State) : Host.Outcome State Fault Refusal :=
  .next (partRequest 0x05 tag node payload (payload.length == 4) (fun s => s.setClock payload) s)

end Sys2Proof.Machine
end

