-- ==== Sys2Proof/Machine/PowerEvents.lean ====
section
/-! DEFINITION. The events of the Power Controllers (R127, R133 to R141, R147, R151). -/

namespace Sys2Proof.Machine

/-- PG_SENSEn takes a new level: the debounce interval starts, restarts or stops (R127, R151). In reset the pin alone
changes. -/
def State.senseChange (s : State) (n : NodeId) (high : Bool) : State :=
  let t := s.mapPower n (fun p => { p with sense := high })
  if s.held then t else t.debouncePg n

/-- PG_SENSE_CHANGE (R127, R151). -/
def execPgSenseChange (n : NodeId) (high : Bool) (s : State) : Host.Outcome State Fault Refusal :=
  .next (if (s.nd n).power.sense = high then s else s.senseChange n high)

/-- PG_ACCEPTED: the debounce interval ends (R127, R151). -/
def execPgAccepted (n : NodeId) (s : State) : Host.Outcome State Fault Refusal :=
  .next (s.given (s.nd n).power.debounce (fun e => (s.toTick e).acceptPg n))

/-- SETTLE_EXPIRY (R133). -/
def execSettleExpiry (n : NodeId) (s : State) : Host.Outcome State Fault Refusal :=
  .next (s.given (s.inPhase n .settle) (fun a => (s.toTick a.ends).settleEnds n a))

/-- PRESS_END (R133, R134, R147). -/
def execPressEnd (n : NodeId) (s : State) : Host.Outcome State Fault Refusal :=
  .next (s.given (s.inPhase n .press) (fun a => (s.toTick a.ends).pressEnds n a))

/-- AWAIT_UP_EXPIRY (R133, R138). -/
def execAwaitUpExpiry (n : NodeId) (s : State) : Host.Outcome State Fault Refusal :=
  .next (s.given (s.inPhase n .awaitUp) (fun a => (s.toTick a.ends).lock n .startTimeout))

/-- AWAIT_DOWN_EXPIRY (R134, R135, R137). -/
def execAwaitDownExpiry (n : NodeId) (s : State) : Host.Outcome State Fault Refusal :=
  .next (s.given (s.inPhase n .awaitDown) (fun a => (s.toTick a.ends).awaitDownExpires n a))

/-- HOLD_END (R135, R147). -/
def execHoldEnd (n : NodeId) (s : State) : Host.Outcome State Fault Refusal :=
  .next (s.given (s.inPhase n .hold) (fun a => (s.toTick a.ends).holdEnds n a))

/-- CUT_CHECK_EXPIRY (R136, R137). -/
def execCutCheckExpiry (n : NodeId) (s : State) : Host.Outcome State Fault Refusal :=
  .next (s.given (s.inPhase n .cutCheck) (fun a => (s.toTick a.ends).lock n .cutIneffective))

/-- DWELL_EXPIRY (R138). -/
def execDwellExpiry (n : NodeId) (s : State) : Host.Outcome State Fault Refusal :=
  .next (s.given (s.inPhase n .dwell) (fun a => (s.toTick a.ends).dwellExpires n a))

/-- PULSE_END (R139, R140, R147). -/
def execPulseEnd (n : NodeId) (s : State) : Host.Outcome State Fault Refusal :=
  .next (s.given (s.inPhase n .pulse) (fun a => (s.toTick a.ends).pulseEnds n a))

end Sys2Proof.Machine
end

