-- ==== Sys2Proof/Machine/PowerRequests.lean ====
section
/-! DEFINITION. The power and liveness requests (R131, R143, R146 to R150, R152, R153, R162, R163). -/

namespace Sys2Proof.Machine

/-! ### PWR_ACTION -/

/-- A PWR_ACTION is carried out: judged by the table of R143, and answered with its disposition and the power state
block after it. -/
def State.takeAction (s : State) (n : NodeId) (tag : Byte) (payload : List Byte) : Carried :=
  match ActionKind.ofCode (byteAt payload 0) with
  | none => s.answers .badParam (0 :: s.powerBlock n)
  | some k =>
    let t := s.submit n k (.link tag)
    match s.judge n k with
    | .refused r => s.answers r (0 :: s.powerBlock n)
    | .started => t.answers .ok (1 :: t.powerBlock n)
    | .queued => t.answers .ok (2 :: t.powerBlock n)

/-- PWR_ACTION (R143). -/
def execPwrAction (tag node : Byte) (payload : List Byte) (s : State) : Host.Outcome State Fault Refusal :=
  .next (nodeRequest 0x30 tag node payload (payload.length == 1) (fun n s => s.takeAction n tag payload) s)

/-! ### PWR_ABORT -/

/-- The phases that hold a button line asserted (spec 07, phase table). -/
def Phase.isAssert : Phase → Bool
  | .press => true
  | .hold => true
  | .pulse => true
  | _ => false

/-- A queued action ends DISCARDED; `a` and its aborting flag stay (R146, step 1). -/
def State.discardQueued (s : State) (n : NodeId) (a : Action) (q : Option Queued) (aborting : Bool) : State :=
  match q with
  | none => s
  | some q => (s.ctrlTo n (.acting a none aborting)).recordEnd n (q.final .discarded)

/-- The current action is aborted: at once, or at the end of an assert phase under PHASE_END; a second abort leaves
the running phase as it is (R146, R147). -/
def State.abort (s : State) (n : NodeId) (a : Action) (q : Option Queued) (aborting : Bool) : State :=
  let t := s.discardQueued n a q aborting
  if aborting then t
  else if (s.set n).choices.abort = .phaseEnd ∧ a.phase.isAssert then t.ctrlTo n (.acting a none true)
  else t.finish n .aborted

/-- A PWR_ABORT is carried out (R146, R147). -/
def State.takeAbort (s : State) (n : NodeId) : Carried :=
  match (s.nd n).power.ctrl with
  | .acting a q ab =>
    let t := s.abort n a q ab
    t.answers .ok (t.powerBlock n)
  | _ => s.answers .badState (s.powerBlock n)

/-- PWR_ABORT (R146, R147). -/
def execPwrAbort (tag node : Byte) (payload : List Byte) (s : State) : Host.Outcome State Fault Refusal :=
  .next (nodeRequest 0x31 tag node payload (payload.length == 0) (fun n s => s.takeAbort n) s)

/-! ### PWR_CLEAR -/

/-- A PWR_CLEAR is carried out (R148). -/
def State.clearLock (s : State) (n : NodeId) : Carried :=
  match (s.nd n).power.ctrl with
  | .locked _ =>
    let t := (s.ctrlTo n .idle).powerNotice n
    t.answers .ok (t.powerBlock n)
  | _ => s.answers .badState (s.powerBlock n)

/-- PWR_CLEAR (R148). -/
def execPwrClear (tag node : Byte) (payload : List Byte) (s : State) : Host.Outcome State Fault Refusal :=
  .next (nodeRequest 0x32 tag node payload (payload.length == 0) (fun n s => s.clearLock n) s)

/-! ### PWR_TIMING_SET, PWR_STATUS -/

/-- The timings of a payload, each clamped into its range (R131). -/
def Timings.ofPayload (p : List Byte) : Timings :=
  { debounce := clamp 0 255 (fieldAt p 0 4)
    settle := clamp 100 5000 (fieldAt p 4 4)
    press := clamp 50 2000 (fieldAt p 8 4)
    hold := clamp 4000 15000 (fieldAt p 12 4)
    resetPulse := clamp 10 1000 (fieldAt p 16 4)
    diagPulse := clamp 10 1000 (fieldAt p 20 4)
    startWait := clamp 1000 120000 (fieldAt p 24 4)
    softOffWait := clamp 5000 600000 (fieldAt p 28 4)
    hardOffCheck := clamp 500 10000 (fieldAt p 32 4)
    cutCheck := clamp 500 10000 (fieldAt p 36 4)
    dwell := clamp 1000 60000 (fieldAt p 40 4) }

/-- The eleven timings as a payload sends them. -/
def sentTimings (p : List Byte) : List Nat := (List.range 11).map (fun i => fieldAt p (4 * i) 4)

/-- The choices of a payload; `none` where a code is not listed (R131). -/
def Choices.ofPayload (p : List Byte) : Option Choices :=
  match Escalation.ofCode (byteAt p 44), CycleMethod.ofCode (byteAt p 45), AbortPolicy.ofCode (byteAt p 46) with
  | some e, some m, some a => some { escalation := e, method := m, abort := a }
  | _, _, _ => none

/-- A PWR_TIMING_SET is carried out (R131). -/
def State.setTimings (s : State) (n : NodeId) (payload : List Byte) : Carried :=
  match Choices.ofPayload payload with
  | none => s.answers .badParam (List.replicate 47 0)
  | some c =>
    let x := Timings.ofPayload payload
    (s.mapSet n (fun y => { y with timings := x, choices := c })).answers
      (Result.adjustedIf (x.toList != sentTimings payload)) (timingLayout x c)

/-- PWR_TIMING_SET (R131). -/
def execPwrTimingSet (tag node : Byte) (payload : List Byte) (s : State) : Host.Outcome State Fault Refusal :=
  .next (nodeRequest 0x33 tag node payload (payload.length == 47) (fun n s => s.setTimings n payload) s)

/-- PWR_STATUS (R150). -/
def execPwrStatus (tag node : Byte) (payload : List Byte) (s : State) : Host.Outcome State Fault Refusal :=
  .next (nodeRequest 0x34 tag node payload (payload.length == 0)
    (fun n s => s.answers .ok (s.powerContent n ++ timingLayout (s.set n).timings (s.set n).choices)) s)

/-! ### LIV_SET -/

/-- The liveness settings of a payload, clamped and cleared (R152); `none` where a code is not listed. -/
def LiveSettings.ofPayload (p : List Byte) : Option LiveSettings :=
  match WarningAction.ofCode (byteAt p 12), RecoveryAction.ofCode (byteAt p 13) with
  | some w, some r =>
    some
      { enable := optionBit (byteAt p 0) 0
        timeout := clamp 1 3600 (fieldAt p 1 2)
        warn := clamp 1 600 (fieldAt p 3 2)
        grace := clamp 10 3600 (fieldAt p 5 2)
        stable := clamp 60 86400 (fieldAt p 7 4)
        maxRecoveries := clamp 1 8 (fieldAt p 11 1)
        warning := w
        recovery := r
        kicks := byteAt p 14 &&& definedKicks }
  | _, _ => none

/-- A value of the payload was clamped or cleared (R152). -/
def LiveSettings.changedFrom (x : LiveSettings) (p : List Byte) : Bool :=
  x.timeout != fieldAt p 1 2 || x.warn != fieldAt p 3 2 || x.grace != fieldAt p 5 2 || x.stable != fieldAt p 7 4
    || x.maxRecoveries != fieldAt p 11 1 || x.kicks != byteAt p 14

/-- The monitor after an accepted LIV_SET (R153): enabled from DISABLED it starts by the condition; disabled it stops
and forgets; otherwise it keeps its state, and the count is lowered to a smaller maximum. -/
def State.applyLive (s : State) (n : NodeId) (x : LiveSettings) : State :=
  let t := s.mapSet n (fun y => { y with live := x })
  if x.enable then
    if (s.nd n).live.monitor = .disabled then t.enterByCondition n
    else t.mapLive n (fun l => { l with recoveries := min l.recoveries x.maxRecoveries })
  else t.mapLive n (fun l => { Live.enter .disabled l with recoveries := 0, outstanding := false })

/-- The monitor state and the recovery count, as LIV_SET and LIV_CLEAR replies carry them. -/
def Live.brief (l : Live) : List Byte := l.monitor.code :: leBytes 1 l.recoveries

/-- A LIV_SET is carried out (R152, R153). -/
def State.setLive (s : State) (n : NodeId) (payload : List Byte) : Carried :=
  match LiveSettings.ofPayload payload with
  | none => s.answers .badParam (List.replicate 15 0 ++ (s.nd n).live.brief)
  | some x =>
    let t := s.applyLive n x
    t.answers (Result.adjustedIf (x.changedFrom payload)) (x.layout ++ (t.nd n).live.brief)

/-- LIV_SET (R152, R153). -/
def execLivSet (tag node : Byte) (payload : List Byte) (s : State) : Host.Outcome State Fault Refusal :=
  .next (nodeRequest 0x38 tag node payload (payload.length == 15) (fun n s => s.setLive n payload) s)

/-! ### LIV_KICK, LIV_CLEAR -/

/-- The reply fields of LIV_KICK (R163). -/
def State.kickFields (s : State) (n : NodeId) (counted : Bool) : List Byte :=
  flagByte counted :: (s.nd n).live.monitor.code :: s.remainingField 0 (s.nd n).live.monitor.period.2

/-- A LIV_KICK is carried out (R163). -/
def State.linkKick (s : State) (n : NodeId) : Carried :=
  let t := s.kick n .link
  t.answers .ok (t.kickFields n (s.kickCounts n .link))

/-- LIV_KICK (R163). -/
def execLivKick (tag node : Byte) (payload : List Byte) (s : State) : Host.Outcome State Fault Refusal :=
  .next (nodeRequest 0x39 tag node payload (payload.length == 0) (fun n s => s.linkKick n) s)

/-- A LIV_CLEAR is carried out (R162). -/
def State.clearLive (s : State) (n : NodeId) : Carried :=
  let t := s.mapLive n (fun l => { l with recoveries := 0, statePending := true })
  match (s.nd n).live.monitor with
  | .disabled => s.answers .badState (s.nd n).live.brief
  | .exhausted _ =>
    let t := t.enterByCondition n
    t.answers .ok (t.nd n).live.brief
  | _ => t.answers .ok (t.nd n).live.brief

/-- LIV_CLEAR (R162). -/
def execLivClear (tag node : Byte) (payload : List Byte) (s : State) : Host.Outcome State Fault Refusal :=
  .next (nodeRequest 0x3A tag node payload (payload.length == 0) (fun n s => s.clearLive n) s)

end Sys2Proof.Machine
end

