-- ==== Sys2Proof/Machine/Dispatch.lean ====
section
/-! DEFINITION. The meaning of every command, one arm each. -/

namespace Sys2Proof.Machine

def exec (i : Instr) (s : State) : Host.Outcome State Fault Refusal :=
  match i with
  | .partStatus tag node payload => Sys2Proof.Machine.execPartStatus tag node payload s
  | .partSave tag node payload => Sys2Proof.Machine.execPartSave tag node payload s
  | .saveWriteEnd => Sys2Proof.Machine.execSaveWriteEnd s
  | .partRestart tag node payload => Sys2Proof.Machine.execPartRestart tag node payload s
  | .poolSet tag node payload => Sys2Proof.Machine.execPoolSet tag node payload s
  | .clockSet tag node payload => Sys2Proof.Machine.execClockSet tag node payload s
  | .conLineSet tag node payload => Sys2Proof.Machine.execConLineSet tag node payload s
  | .conWrite tag node payload => Sys2Proof.Machine.execConWrite tag node payload s
  | .conBreak tag node payload => Sys2Proof.Machine.execConBreak tag node payload s
  | .conRead tag node payload => Sys2Proof.Machine.execConRead tag node payload s
  | .conMark tag node payload => Sys2Proof.Machine.execConMark tag node payload s
  | .conEvents tag node payload => Sys2Proof.Machine.execConEvents tag node payload s
  | .conDeliverySet tag node payload => Sys2Proof.Machine.execConDeliverySet tag node payload s
  | .conWatchSet tag node payload => Sys2Proof.Machine.execConWatchSet tag node payload s
  | .conTxFlush tag node payload => Sys2Proof.Machine.execConTxFlush tag node payload s
  | .medAttach tag node payload => Sys2Proof.Machine.execMedAttach tag node payload s
  | .medDetach tag node payload => Sys2Proof.Machine.execMedDetach tag node payload s
  | .medFill tag node payload => Sys2Proof.Machine.execMedFill tag node payload s
  | .medFillFail tag node payload => Sys2Proof.Machine.execMedFillFail tag node payload s
  | .medStored tag node payload => Sys2Proof.Machine.execMedStored tag node payload s
  | .medExtentsSet tag node payload => Sys2Proof.Machine.execMedExtentsSet tag node payload s
  | .medRecover tag node payload => Sys2Proof.Machine.execMedRecover tag node payload s
  | .medStatus tag node payload => Sys2Proof.Machine.execMedStatus tag node payload s
  | .medTuningSet tag node payload => Sys2Proof.Machine.execMedTuningSet tag node payload s
  | .pwrAction tag node payload => Sys2Proof.Machine.execPwrAction tag node payload s
  | .pwrAbort tag node payload => Sys2Proof.Machine.execPwrAbort tag node payload s
  | .pwrClear tag node payload => Sys2Proof.Machine.execPwrClear tag node payload s
  | .pwrTimingSet tag node payload => Sys2Proof.Machine.execPwrTimingSet tag node payload s
  | .pwrStatus tag node payload => Sys2Proof.Machine.execPwrStatus tag node payload s
  | .livSet tag node payload => Sys2Proof.Machine.execLivSet tag node payload s
  | .livKick tag node payload => Sys2Proof.Machine.execLivKick tag node payload s
  | .livClear tag node payload => Sys2Proof.Machine.execLivClear tag node payload s
  | .unknownKindFrame kind tag node payload => Sys2Proof.Machine.execUnknownKindFrame kind tag node payload s
  | .linkFrameReceived byte => Sys2Proof.Machine.execLinkFrameReceived byte s
  | .linkGapTimeout => Sys2Proof.Machine.execLinkGapTimeout s
  | .lrtsDeasserted => Sys2Proof.Machine.execLrtsDeasserted s
  | .lrtsAsserted => Sys2Proof.Machine.execLrtsAsserted s
  | .arbiterGrant => Sys2Proof.Machine.execArbiterGrant s
  | .frameSent => Sys2Proof.Machine.execFrameSent s
  | .resetNAsserted => Sys2Proof.Machine.execResetNAsserted s
  | .powerOn => Sys2Proof.Machine.execPowerOn s
  | .startUp straps => Sys2Proof.Machine.execStartUp straps s
  | .characterReceived n data parityBit stopBit => Sys2Proof.Machine.execCharacterReceived n data parityBit stopBit s
  | .breakRx n => Sys2Proof.Machine.execBreakRx n s
  | .rxBreakEnd n => Sys2Proof.Machine.execRxBreakEnd n s
  | .idleGapSignal n => Sys2Proof.Machine.execIdleGapSignal n s
  | .pacerDelayExpiry n => Sys2Proof.Machine.execPacerDelayExpiry n s
  | .autobaudWindowComplete n run => Sys2Proof.Machine.execAutobaudWindowComplete n run s
  | .lockIdleWaitEnd n => Sys2Proof.Machine.execLockIdleWaitEnd n s
  | .txCharacterSent n => Sys2Proof.Machine.execTxCharacterSent n s
  | .txBreakEnd n => Sys2Proof.Machine.execTxBreakEnd n s
  | .txIdleTimeEnd n => Sys2Proof.Machine.execTxIdleTimeEnd n s
  | .vbusPresent n => Sys2Proof.Machine.execVbusPresent n s
  | .vbusAbsent n => Sys2Proof.Machine.execVbusAbsent n s
  | .usbBusReset n => Sys2Proof.Machine.execUsbBusReset n s
  | .invalidCommand n => Sys2Proof.Machine.execInvalidCommand n s
  | .ready n => Sys2Proof.Machine.execReady n s
  | .capacity n => Sys2Proof.Machine.execCapacity n s
  | .eject n => Sys2Proof.Machine.execEject n s
  | .sense n => Sys2Proof.Machine.execSense n s
  | .read n lba count => Sys2Proof.Machine.execRead n lba count s
  | .write n lba count => Sys2Proof.Machine.execWrite n lba count s
  | .newEntryRequest n => Sys2Proof.Machine.execNewEntryRequest n s
  | .blockDelivery n => Sys2Proof.Machine.execBlockDelivery n s
  | .writeBlockReceived n data => Sys2Proof.Machine.execWriteBlockReceived n data s
  | .blockAccept n => Sys2Proof.Machine.execBlockAccept n s
  | .fetchTimeout page => Sys2Proof.Machine.execFetchTimeout page s
  | .storeTimeout n => Sys2Proof.Machine.execStoreTimeout n s
  | .pgSenseChange n high => Sys2Proof.Machine.execPgSenseChange n high s
  | .pgAccepted n => Sys2Proof.Machine.execPgAccepted n s
  | .settleExpiry n => Sys2Proof.Machine.execSettleExpiry n s
  | .pressEnd n => Sys2Proof.Machine.execPressEnd n s
  | .awaitUpExpiry n => Sys2Proof.Machine.execAwaitUpExpiry n s
  | .awaitDownExpiry n => Sys2Proof.Machine.execAwaitDownExpiry n s
  | .holdEnd n => Sys2Proof.Machine.execHoldEnd n s
  | .cutCheckExpiry n => Sys2Proof.Machine.execCutCheckExpiry n s
  | .dwellExpiry n => Sys2Proof.Machine.execDwellExpiry n s
  | .pulseEnd n => Sys2Proof.Machine.execPulseEnd n s
  | .hbInputChange n high => Sys2Proof.Machine.execHbInputChange n high s
  | .hbLevelAccepted n => Sys2Proof.Machine.execHbLevelAccepted n s
  | .graceExpiry n => Sys2Proof.Machine.execGraceExpiry n s
  | .timeoutExpiry n => Sys2Proof.Machine.execTimeoutExpiry n s
  | .warnExpiry n => Sys2Proof.Machine.execWarnExpiry n s
  | .stableDeadlineExpiry n => Sys2Proof.Machine.execStableDeadlineExpiry n s
  | .linkByteReceived byte stopBit => Sys2Proof.Machine.execLinkByteReceived byte stopBit s
  | .autobaudAcceptedEdge n falling run => Sys2Proof.Machine.execAutobaudAcceptedEdge n falling run s

end Sys2Proof.Machine
end

