-- ==== Sys2Proof/Safety.lean ====
section
/-! DEFINITION. What claims name: the laws that the manual says hold at every moment, as predicates of one state; and, in
the manual's words, what an operation leaves of a node and what it leaves unchanged. -/

namespace Sys2Proof.Machine

/-! ### The buffer memory and the pages (R60) -/

/-- The buffer memory is in its canonical form. -/
def State.MemoryLaw (s : State) : Prop := s.mem.wf = true

/-- The pages of the four rings. -/
def State.ringPages (s : State) : List Nat := NodeId.all.flatMap (fun n => (s.nd n).hist.ring)

/-- The pages that entries hold. -/
def State.entryPages (s : State) : List Nat := s.entries.map Entry.page

/-- Every page is in exactly one of the free list, one ring and one entry; the free list stands in rising order; and
the LRU list names pages of entries, each once (R60, R102). -/
def State.PageLaw (s : State) : Prop :=
  (s.free ++ s.ringPages ++ s.entryPages).Perm (List.range' 0 Config.pages) ∧
    s.free.Pairwise (· < ·) ∧ s.lru.Nodup ∧ (∀ p ∈ s.lru, p ∈ s.entryPages)

/-! ### The history (R26) -/

/-- The relations of R26 between the offsets, the mark and the ring; and the event index holds up to 64 entries in order of
offset, none below oldest_offset (R32, R33). -/
def History.Lawful (h : History) : Prop :=
  h.oldest % Config.pageBytes = 0 ∧ h.oldest ≤ h.deliver ∧ h.deliver ≤ h.next ∧
    (∀ m, h.mark = some m → h.oldest ≤ m ∧ m ≤ h.next) ∧ h.next ≤ h.oldest + Config.pageBytes * h.ring.length ∧
    h.index.length ≤ Config.indexEntries ∧ h.index.Pairwise (fun x y => x.offset ≤ y.offset) ∧
    ∀ e ∈ h.index, h.oldest ≤ e.offset ∧ e.offset ≤ h.next

/-- R26 for every node; a ring has at least two pages outside a part reset, and in it every page is free. -/
def State.HistoryLaw (s : State) : Prop :=
  (∀ n, (s.nd n).hist.Lawful ∧ (s.held = false → 2 ≤ (s.nd n).hist.ring.length ∧ 2 ≤ (s.set n).quota.max)) ∧
    (s.held = true → s.free = List.range' 0 Config.pages ∧ s.entries = [] ∧ s.lru = [] ∧
      ∀ n, (s.nd n).hist = .fresh [])

/-- Every node's quota has a min and a max of 2 to 160 and no min above its max (R61); and outside a part reset every ring holds
between its min and max pages (R26, R64). -/
def State.QuotaLaw (s : State) : Prop :=
  ∀ n, 2 ≤ (s.set n).quota.min ∧ (s.set n).quota.min ≤ (s.set n).quota.max ∧ (s.set n).quota.max ≤ 160 ∧
    (s.held = false → (s.set n).quota.min ≤ (s.nd n).hist.ring.length ∧
      (s.nd n).hist.ring.length ≤ (s.set n).quota.max)

/-- The table of R39: IDLE when follow is off or nothing is pending, COLLECTING with 1 to N - 1 bytes pending and the delay
timer running when T is not 0, DUE with at least 1. -/
def State.PacerLaw (s : State) : Prop :=
  ∀ n, match (s.nd n).hist.pacer with
    | .idle => (s.set n).delivery.follow = true → (s.nd n).hist.next = (s.nd n).hist.deliver
    | .collecting e => (s.set n).delivery.follow = true ∧ (s.nd n).hist.deliver < (s.nd n).hist.next ∧
        (s.nd n).hist.next < (s.nd n).hist.deliver + (s.set n).delivery.count ∧
        (e = none ↔ (s.set n).delivery.delay = 0)
    | .due => (s.set n).delivery.follow = true ∧ (s.nd n).hist.deliver < (s.nd n).hist.next

/-! ### The entries and their lists (R99 to R103, R110 to R113) -/

/-- `l` names, each once, the pages of the node's entries in the states that `f` accepts. -/
def State.Lists (s : State) (n : NodeId) (f : EntryState → Bool) (l : List Nat) : Prop :=
  l.Nodup ∧ ∀ p, p ∈ l ↔ ∃ e ∈ s.entries, e.page = p ∧ e.node = n ∧ f e.state = true

/-- The write-outs of the outstanding list carry consecutive numbers, the newest one below the sequence counter
(R111, R113). -/
def State.Numbered (s : State) (n : NodeId) : Prop :=
  ∀ i p, (s.nd n).cache.outstanding[i]? = some p →
    s.seqOf p = some ((s.nd n).cache.seq - BitVec.ofNat 16 ((s.nd n).cache.outstanding.length - i))

/-- A current command belongs to a READY slot and ends within its capacity; the blocks in its list are the next of its
blocks in LBA order; and a block that wants an entry has none and lies outside the zero table (R79, R87, R92, R93). -/
def State.CommandLaw (s : State) (n : NodeId) : Prop :=
  ∀ c, (s.nd n).media.current = some c →
    s.slotReady n = true ∧ (∀ m, s.slot n = some m → c.lba + c.count ≤ m.capacity) ∧
      c.list.length ≤ Config.listPlaces ∧ c.finished + c.list.length ≤ c.count ∧
      (∀ i p, c.list[i]? = some p → p.lba = c.lba + c.finished + i) ∧
      ∀ p ∈ c.list, p.status = .wanting →
        s.entryFor n p.lba = none ∧ ∀ m, s.slot n = some m → inRanges m.zero p.lba = false

/-- The law of R86: every entry of the node has a slot that is not ABSENT, an LBA below its capacity, and an LBA outside its
zero table. -/
def State.SlotLaw (s : State) (n : NodeId) : Prop :=
  ∀ e ∈ s.entries, e.node = n → ∃ m, s.slot n = some m ∧ e.lba < m.capacity ∧ inRanges m.zero e.lba = false

/-- The Media Cache's laws: at most one entry for a page and for a block of a node; the pending fetch list, write-out queue,
outstanding list and LRU list hold the entries whose states put them there; write-outs are numbered in order; the caps hold;
the law of R86 holds; and R79, R87, R92 and R93 hold of a current command. -/
def State.CacheLaw (s : State) : Prop :=
  s.entryPages.Nodup ∧ (s.entries.map (fun e => (e.node, e.lba))).Nodup ∧ s.lru.Nodup ∧
    (∀ p, p ∈ s.lru ↔ ∃ e ∈ s.entries, e.page = p ∧ e.state = .valid) ∧
    ∀ n, s.Lists n (fun x => x == .filling none) (s.nd n).cache.fetches ∧
      s.Lists n EntryState.isDirty (s.nd n).cache.queue ∧ s.Lists n EntryState.isFlushing (s.nd n).cache.outstanding ∧
      s.Numbered n ∧ s.fillingCount n ≤ Config.fillingCap ∧ s.unstoredCount n ≤ Config.dirtyCap ∧
      s.SlotLaw n ∧ s.CommandLaw n

/-! ### Power and liveness -/

/-- Each button line is asserted exactly in the phases that name it: BTN_PWRn in PRESS and HOLD, BTN_RSTn in the PULSE
of RESET, DIAGn in the PULSE of DIAG (R126). -/
def Power.LinesLawful (p : Power) : Prop :=
  (p.btnPwr, p.btnRst, p.diag) =
    match p.ctrl with
    | .acting a _ _ => phaseLines a.kind a.phase
    | _ => (false, false, false)

/-- R126 for every node. -/
def State.LinesLaw (s : State) : Prop := ∀ n, (s.nd n).power.LinesLawful

/-- The recovery count never exceeds the configured maximum (R153); it is 0 while the monitor is DISABLED and while
the part is held in reset. -/
def State.RecoveryLaw (s : State) : Prop :=
  ∀ n, (s.nd n).live.recoveries ≤ (s.set n).live.maxRecoveries ∧
    ((s.nd n).live.monitor = .disabled ∨ s.held = true → (s.nd n).live.recoveries = 0)

/-! ### What the monitor makes of the controller's reports

`g` is the tick at which a grace period that starts now would end. -/

/-- The condition of the node has changed from `c` to `d` without a boot event: an active monitor goes DORMANT as the node leaves
ON, and a DORMANT one enters GRACE as it becomes ON (R154). -/
def Live.followed (c d : Condition) (g : Nat) (l : Live) : Live :=
  if c = .on ∧ d ≠ .on ∧ l.monitor.active = true then { l with monitor := .dormant, statePending := true }
  else if c ≠ .on ∧ d = .on ∧ l.monitor = .dormant then { l with monitor := .grace g, statePending := true }
  else l

/-- A boot event of a node that is ON: a DORMANT or active monitor enters GRACE with the period started afresh, and a notice
becomes pending where its state changes (R154, R156, R165). -/
def Live.booted (g : Nat) (l : Live) : Live :=
  if l.monitor = .dormant ∨ l.monitor.active = true then
    { l with
      monitor := .grace g
      statePending := match l.monitor with | .grace _ => l.statePending | _ => true }
  else l

/-- The report of a recovery's end by its result `r`, or of an entry into LOCKED as `r = .failed`, by the table of R161: while
the recovery outstanding flag is clear nothing happens. While it is set it is cleared, and in DISABLED and EXHAUSTED no more
than that; DONE and ABORTED take RECOVERING to GRACE; FAILED, REFUSED and DISCARDED lead to EXHAUSTED with RECOVERY_FAILED. -/
def Live.reported (r : ActionResult) (g : Nat) (l : Live) : Live :=
  if l.outstanding = false then l
  else
    let k := { l with outstanding := false }
    match l.monitor with
    | .disabled => k
    | .exhausted _ => k
    | m =>
      if r = .done ∨ r = .aborted then
        if m = .recovering then { k with monitor := .grace g, statePending := true } else k
      else { k with monitor := .exhausted .recoveryFailed, statePending := true }

/-- An action whose final record is `f` has ended: the end of a LIVENESS action is reported to the monitor, which does not follow
that of a warning DIAG (R142, R157, R161, notes/assumptions/32.md). -/
def Live.told (f : FinalRecord) (g : Nat) (l : Live) : Live :=
  if f.source = .liveness ∧ f.kind ≠ .diag then l.reported f.result g else l

/-! ### How an action ends, starts and goes on -/

/-- The tick at which a grace period of node `n` that starts now ends (R156). -/
def State.graceFrom (t : State) (n : NodeId) : Nat := t.clock.ticks + 1000 * (t.set n).live.grace

/-- Node `x` as the end of an action with the final record `f` leaves it: ACTION_END is recorded with kind and result and names the
source (R58, R142, R165, notes/assumptions/35.md); the record joins the ended list, which holds 4 and counts what it loses
(R149); a PWR_STATE notice is pending; and the monitor has been told. -/
def Node.withEnd (mask : Half) (g : Nat) (f : FinalRecord) (x : Node) : Node :=
  { x with
    hist := x.hist.record mask x.power.boot (.actionEnd f.source.code) (packDetail f.kind.code f.result.code)
    power := { x.power with
      ended := (if x.power.ended.length < 4 then x.power.ended else x.power.ended.tail) ++ [f]
      endedLost := if x.power.ended.length < 4 then x.power.endedLost else min 255 (x.power.endedLost + 1)
      statePending := true }
    live := x.live.told f g }

/-- Node `x` with its button lines released and its controller in state `c`, which holds no action. -/
def Node.atRest (c : Controller) (x : Node) : Node :=
  { x with power := { x.power with btnPwr := false, btnRst := false, diag := false, ctrl := c } }

/-- Node `x` as an accepted level of PG_SENSEn leaves it, before anything follows (R127, R151). -/
def Node.accepted (high : Bool) (x : Node) : Node :=
  { x with power := { x.power with pg := if high then .high else .low, debounce := none, statePending := true } }

/-- Node `x` as a boot event leaves it, but for its line (R18) and its medium (R85): the boot number is one higher, BOOT is
recorded with it, a PWR_STATE notice is pending, every match progress and hit-since-boot flag is clear, and the monitor of a node
that is ON starts its grace (R53, R54, R129, R154). -/
def Node.booted (mask : Half) (g : Nat) (x : Node) : Node :=
  { x with
    hist := x.hist.record mask (x.power.boot + 1) .boot 0
    watch := x.watch.map (fun _ => { progress := 0, hit := false })
    power := { x.power with boot := x.power.boot + 1, statePending := true }
    live := if x.power.condition = .on then x.live.booted g else x.live }

/-- A starting action of kind `k` cuts the feed of node `x`: a CUT does, and a CYCLE from ON by the CUT method (R136, R137). -/
def Node.feedCutBy (x : Node) (c : Choices) (k : ActionKind) : Bool :=
  k = .cut ∨ (k = .cycle ∧ x.power.condition = .on ∧ c.method = .cut)

/-- The first phase of an action of kind `k` that starts on node `x`, with its time; none where the action ends DONE at once (R133
to R140). -/
def Node.firstPhase (x : Node) (c : Choices) (t : Timings) (k : ActionKind) : Option (Phase × Nat) :=
  match k with
  | .on =>
    if x.power.condition = .cut then (if x.power.pg = .high then none else some (.settle, t.settle))
    else some (.press, t.press)
  | .offSoft => some (.press, t.press)
  | .offHard => some (.hold, t.hold)
  | .cut => if x.power.pg = .high then some (.cutCheck, t.cutCheck) else none
  | .reset => some (.pulse, t.resetPulse)
  | .diag => some (.pulse, t.diagPulse)
  | .cycle =>
    if x.power.condition = .on then
      match c.method with
      | .soft => some (.press, t.press)
      | .hard => some (.hold, t.hold)
      | .cut => some (.cutCheck, t.cutCheck)
    else some (.dwell, t.dwell)

/-- The current action of node `n` goes on in phase `ph` for `ms` ticks from now: its record, and the lines the phase names,
follow; a PWR_STATE notice is pending (R126, R132). -/
def State.EntersPhase (t : State) (n : NodeId) (a : Action) (q : Option Queued) (ab : Bool) (ph : Phase) (ms : Nat) : Prop :=
  let p := (t.nd n).power
  p.ctrl = .acting { a with phase := ph, ends := t.clock.ticks + ms } q ab ∧ p.statePending = true ∧
    p.btnPwr = decide (ph = .press ∨ ph = .hold) ∧ p.btnRst = decide (ph = .pulse ∧ a.kind = .reset) ∧
    p.diag = decide (ph = .pulse ∧ a.kind = .diag)

/-- The current action goes on in phase `ph`, and of node `x` nothing else has changed (R126, R132). -/
def State.GoesOn (t : State) (n : NodeId) (x : Node) (a : Action) (q : Option Queued) (ab : Bool) (ph : Phase) (ms : Nat) : Prop :=
  t.EntersPhase n a q ab ph ms ∧
    t.nd n = { x with power := { x.power with
      ctrl := (t.nd n).power.ctrl, btnPwr := (t.nd n).power.btnPwr, btnRst := (t.nd n).power.btnRst
      diag := (t.nd n).power.diag, statePending := true } }

/-- Node `x` with an action of kind `k` started, before its first phase: ACTION_START is recorded with kind and source, a feed that
is cut or released follows, a cut with CUT recorded, the monitor follows the condition, and the line is `l` (R126, R128, R132,
R133, R136, R154). -/
def Node.started (mask : Half) (c : Choices) (g : Nat) (k : ActionKind) (src : Source) (l : Line) (x : Node) : Node :=
  let cuts := x.feedCutBy c k
  let h := x.hist.record mask x.power.boot .actionStart (packDetail k.code src.code)
  let p := { x.power with feedCut := if k = .on then false else if cuts then true else x.power.feedCut }
  { x with
    line := l
    hist := if cuts then h.record mask x.power.boot .cut 0 else h
    live := x.live.followed x.power.condition p.condition g
    power := p }

/-- On node `x`, whose controller holds no action, an action of kind `k` has started, and nothing else of the node has changed: the
action is in its first phase, or has ended DONE at once. The line is not spoken of here (`State.LineFollowed`) (R132 to R140). -/
def State.ActionStarted (t : State) (n : NodeId) (x : Node) (k : ActionKind) (src : Source) : Prop :=
  let mask := (t.set n).delivery.mask
  let c := (t.set n).choices
  let y := x.started mask c (t.graceFrom n) k src (t.nd n).line
  match x.firstPhase c (t.set n).timings k with
  | some (ph, ms) => t.GoesOn n y ⟨k, src, .none, t.clock.ticks, false, c.method, decide (k = .on)⟩ none false ph ms
  | none => t.nd n = (y.atRest .idle).withEnd mask (t.graceFrom n) ⟨k, src, .done, none, false⟩

/-- On node `x` the current action `a`, with `q` queued behind it, has ended without a lock and with result `r`, and nothing else of
the node has changed: with nothing queued the controller is IDLE; a queued action whose precondition holds has started, and
one whose does not has ended REFUSED. Only a queued action that starts moves FEED_CUTn (R142, R145). -/
def State.ActionEnded (t : State) (n : NodeId) (x : Node) (a : Action) (q : Option Queued) (r : ActionResult) : Prop :=
  let ends := Node.withEnd (t.set n).delivery.mask (t.graceFrom n)
  let y := ends (a.final r none) (x.atRest .idle)
  match q with
  | none => t.nd n = y
  | some z =>
    if z.kind.allowed x.power.condition then t.ActionStarted n y z.kind z.source else t.nd n = ends (z.final .refused) y

/-- On node `x` the current action has ended FAILED with the lock cause `c`, and nothing else of the node has changed: the
controller is LOCKED, every button line is released, FEED_CUTn is as it was; the entry into LOCKED is reported to the monitor;
and a queued action has ended DISCARDED (R142, R145, R161). -/
def State.ActionLocked (t : State) (n : NodeId) (x : Node) (a : Action) (q : Option Queued) (c : LockCause) : Prop :=
  let ends := Node.withEnd (t.set n).delivery.mask (t.graceFrom n)
  let y := ends (a.final .failed (some c)) (x.atRest (.locked c))
  let z := { y with live := y.live.reported .failed (t.graceFrom n) }
  t.nd n = match q with
    | none => z
    | some u => ends (u.final .discarded) z

/-- From `s` to `t` the Line Unit has followed the condition of node `n`, from the line `l` on. As the node becomes CUT, CTXn
floats, a byte is abandoned, a break is suspended with its remaining ticks, the receiver drops what it had, and a hunting window
is discarded. As it leaves CUT, a suspended break resumes for its remaining ticks, or one idle character time is held; the
receiver is idle; and an AUTO line enters HUNTING. The line is as it was otherwise (R24). -/
def State.LineFollowed (s t : State) (n : NodeId) (l : Line) : Prop :=
  let idleTime := ((t.setNd n { t.nd n with line := l }).charCycles n 1).map (t.clock.cycles + ·)
  (s.condition n ≠ .cut → t.condition n = .cut → t.ctx n = .floating ∧ (t.nd n).line = { l with
    tx := .floating (match l.tx with | .brk e => some (e - t.clock.ticks) | _ => none)
    rx := .idle
    autobaud := match l.autobaud with | .hunting _ => .hunting none | x => x }) ∧
  (s.condition n = .cut → t.condition n ≠ .cut → (t.nd n).line = { l with
    tx := match l.tx with | .floating (some r) => .brk (t.clock.ticks + r) | _ => .gap idleTime
    rx := .idle
    autobaud := if (t.set n).line.rate = .auto then .hunting none else l.autobaud }) ∧
  ((s.condition n = .cut ↔ t.condition n = .cut) → (t.nd n).line = l)

/-- The line of node `n` as its next boot event leaves it: HUNTING with no window where the rate is AUTO and rearm on boot is
on (R18). -/
def State.lineBooted (s : State) (n : NodeId) : Line :=
  if (s.set n).line.rate = .auto ∧ (s.set n).line.rearm = true then
    { (s.nd n).line with autobaud := .hunting none, rx := .idle }
  else (s.nd n).line

/-- From `s` to `t` the Media Function of node `n` has taken a boot event, where `boots` says that there was one: a READY or
FAULTED slot with a ONCE medium, whose attach boot number lies 2 or more below the new boot number modulo 65,536, has begun a
drain withdrawal, so that it is WITHDRAWING, or ABSENT where nothing was left to be stored; otherwise the media side of the part
is as it was (R81, R82, R85). -/
def State.OnceJudged (s t : State) (n : NodeId) (boots : Prop) : Prop :=
  let same := fun (u : State) => (t.nd n).media = (u.nd n).media ∧ (t.nd n).cache = (u.nd n).cache ∧
    t.free = u.free ∧ t.entries = u.entries ∧ t.lru = u.lru
  let due := fun (m : Medium) (a : Half) => boots ∧ s.slot n = some m ∧ m.present = .once a ∧
    2 ≤ ((s.nd n).power.boot + 1 - a).toNat ∧ (m.state = .ready ∨ m.state = .faulted)
  (∀ m a, due m a → same (s.drain n) ∧ (t.nd n).media.current = none ∧
    (s.CacheLaw → t.slot n = if s.unstoredCount n = 0 then none else some { m with state := .withdrawing })) ∧
  ((∀ m a, ¬due m a) → same s)

/-! ### The link -/

/-- The reply queue holds up to two replies (R176), the two inbound buffers hold the complete frames and the one being
assembled (R171), and no more bytes of the frame on LTX have been sent than it has (R172). -/
def Link.Lawful (l : Link) : Prop :=
  l.replies.length ≤ Config.replyPlaces ∧
    l.complete.length + (if l.assembling.isSome then 1 else 0) ≤ Config.inboundBuffers ∧
    ∀ x, l.sending = some x → x.sent ≤ x.frame.wire.length

/-! ### Requests and replies -/

/-- The frame a request command brings, with the KIND the catalogue of spec 09 gives it. -/
def requestOf : Instr → Option Frame
  | .partStatus t n p => some ⟨0x01, t, n, p⟩
  | .partSave t n p => some ⟨0x02, t, n, p⟩
  | .saveWriteEnd => none
  | .partRestart t n p => some ⟨0x03, t, n, p⟩
  | .poolSet t n p => some ⟨0x04, t, n, p⟩
  | .clockSet t n p => some ⟨0x05, t, n, p⟩
  | .conLineSet t n p => some ⟨0x10, t, n, p⟩
  | .conWrite t n p => some ⟨0x11, t, n, p⟩
  | .conBreak t n p => some ⟨0x12, t, n, p⟩
  | .conRead t n p => some ⟨0x13, t, n, p⟩
  | .conMark t n p => some ⟨0x14, t, n, p⟩
  | .conEvents t n p => some ⟨0x15, t, n, p⟩
  | .conDeliverySet t n p => some ⟨0x16, t, n, p⟩
  | .conWatchSet t n p => some ⟨0x17, t, n, p⟩
  | .conTxFlush t n p => some ⟨0x18, t, n, p⟩
  | .medAttach t n p => some ⟨0x20, t, n, p⟩
  | .medDetach t n p => some ⟨0x21, t, n, p⟩
  | .medFill t n p => some ⟨0x22, t, n, p⟩
  | .medFillFail t n p => some ⟨0x23, t, n, p⟩
  | .medStored t n p => some ⟨0x24, t, n, p⟩
  | .medExtentsSet t n p => some ⟨0x25, t, n, p⟩
  | .medRecover t n p => some ⟨0x26, t, n, p⟩
  | .medStatus t n p => some ⟨0x27, t, n, p⟩
  | .medTuningSet t n p => some ⟨0x28, t, n, p⟩
  | .pwrAction t n p => some ⟨0x30, t, n, p⟩
  | .pwrAbort t n p => some ⟨0x31, t, n, p⟩
  | .pwrClear t n p => some ⟨0x32, t, n, p⟩
  | .pwrTimingSet t n p => some ⟨0x33, t, n, p⟩
  | .pwrStatus t n p => some ⟨0x34, t, n, p⟩
  | .livSet t n p => some ⟨0x38, t, n, p⟩
  | .livKick t n p => some ⟨0x39, t, n, p⟩
  | .livClear t n p => some ⟨0x3A, t, n, p⟩
  | .unknownKindFrame _ _ _ _ => none
  | .linkFrameReceived _ => none
  | .linkGapTimeout => none
  | .lrtsDeasserted => none
  | .lrtsAsserted => none
  | .arbiterGrant => none
  | .frameSent => none
  | .resetNAsserted => none
  | .powerOn => none
  | .startUp _ => none
  | .characterReceived _ _ _ _ => none
  | .breakRx _ => none
  | .rxBreakEnd _ => none
  | .idleGapSignal _ => none
  | .pacerDelayExpiry _ => none
  | .autobaudWindowComplete _ _ => none
  | .lockIdleWaitEnd _ => none
  | .txCharacterSent _ => none
  | .txBreakEnd _ => none
  | .txIdleTimeEnd _ => none
  | .vbusPresent _ => none
  | .vbusAbsent _ => none
  | .usbBusReset _ => none
  | .invalidCommand _ => none
  | .ready _ => none
  | .capacity _ => none
  | .eject _ => none
  | .sense _ => none
  | .read _ _ _ => none
  | .write _ _ _ => none
  | .newEntryRequest _ => none
  | .blockDelivery _ => none
  | .writeBlockReceived _ _ => none
  | .blockAccept _ => none
  | .fetchTimeout _ => none
  | .storeTimeout _ => none
  | .pgSenseChange _ _ => none
  | .pgAccepted _ => none
  | .settleExpiry _ => none
  | .pressEnd _ => none
  | .awaitUpExpiry _ => none
  | .awaitDownExpiry _ => none
  | .holdEnd _ => none
  | .cutCheckExpiry _ => none
  | .dwellExpiry _ => none
  | .pulseEnd _ => none
  | .hbInputChange _ _ => none
  | .hbLevelAccepted _ => none
  | .graceExpiry _ => none
  | .timeoutExpiry _ => none
  | .warnExpiry _ => none
  | .stableDeadlineExpiry _ => none
  | .linkByteReceived _ _ => none
  | .autobaudAcceptedEdge _ _ _ => none

/-- The payload lengths of the kinds with a fixed length (spec 11, request tables). -/
def fixedLengths : List (Byte × Nat) :=
  [(0x01, 0), (0x02, 0), (0x03, 1), (0x04, 8), (0x05, 4), (0x10, 10), (0x12, 2), (0x13, 8), (0x14, 6), (0x15, 7),
   (0x16, 15), (0x18, 0), (0x20, 11), (0x21, 1), (0x22, 518), (0x23, 6), (0x24, 2), (0x26, 0), (0x27, 0), (0x28, 7),
   (0x30, 1), (0x31, 0), (0x32, 0), (0x33, 47), (0x34, 0), (0x38, 15), (0x39, 0), (0x3A, 0)]

/-- NODE is FFh for a part-wide request and 0 to 3 for every other one (R174). -/
def Frame.nodeOk (f : Frame) : Bool :=
  if partKinds.contains f.kind then f.node == 0xFF else (NodeId.ofByte f.node).isSome

/-- The payload length is that of the kind, or agrees with the rules of the three kinds whose length varies (R174,
R194). -/
def Frame.lengthOk (f : Frame) : Bool :=
  if f.kind = 0x11 then decide (1 ≤ f.payload.length ∧ f.payload.length ≤ 512)
  else if f.kind = 0x17 then
    match f.payload with
    | [_, choice] => choice == 0
    | _ :: choice :: _ :: _ :: _ :: count :: bytes => choice == 1 && bytes.length == count.toNat
    | _ => false
  else if f.kind = 0x25 then
    match f.payload with
    | _ :: count :: ranges => ranges.length == 8 * count.toNat
    | _ => false
  else fixedLengths.any (fun x => x.1 == f.kind && x.2 == f.payload.length)

/-- The frame of a request for node `n`. -/
def nodeFrame (kind tag : Byte) (n : NodeId) (payload : List Byte) : Frame :=
  { kind := kind, tag := tag, node := n.toByte, payload := payload }

/-- The frame of a part-wide request. -/
def partFrame (kind tag : Byte) (payload : List Byte) : Frame :=
  { kind := kind, tag := tag, node := 0xFF, payload := payload }

/-- Between `s` and `t` the dispatcher has taken the oldest frame and made one reply, with the DISCARDED flag copied into
it and cleared; nothing else of the link has changed (R173, R175). -/
def State.Replied (s t : State) (f : Frame) (a : Answer) : Prop :=
  t.link = { s.link with
    complete := s.link.complete.tail
    replies := s.link.replies ++ [f.reply s.link.discarded a]
    discarded := false }

/-- Carrying out the commands `cs` one after the other leads from `s` to `t`. -/
def State.Runs (s : State) (cs : List Instr) (t : State) : Prop :=
  cs.foldl (fun (o : Host.Outcome State Fault Refusal) c =>
    match o with
    | .next s => exec c s
    | o => o) (.next s) = .next t

/-! ### Frames: what has not changed -/

/-- `t` is `s` but for the link. -/
def State.OnlyLink (s t : State) : Prop := t = { s with link := t.link }

/-- `t` is `s` but for node `n`. -/
def State.OnlyNode (s t : State) (n : NodeId) : Prop := t = s.setNd n (t.nd n)

/-- `t` is `s` but for node `n` and the link. -/
def State.OnlyNodeAndLink (s t : State) (n : NodeId) : Prop := t = { s.setNd n (t.nd n) with link := t.link }

/-- `t` is `s` but for node `n`, its settings and the link. -/
def State.OnlyNodeSetAndLink (s t : State) (n : NodeId) : Prop :=
  t = { (s.mapSet n (fun _ => t.set n)).setNd n (t.nd n) with link := t.link }

/-- `t` is `s` but for node `n` and the clock, which has come to `t.clock`. -/
def State.OnlyNodeAndClock (s t : State) (n : NodeId) : Prop := t = { s.setNd n (t.nd n) with clock := t.clock }

/-- Nothing of the part outside the media side of node `n` has changed: the entries, pages and the LRU list may, and so
may the buffer memory. -/
def State.OnlyMedia (s t : State) (n : NodeId) : Prop :=
  t = { s.setNd n { s.nd n with media := (t.nd n).media, cache := (t.nd n).cache } with
    free := t.free, entries := t.entries, lru := t.lru, mem := t.mem, link := t.link, clock := t.clock }

/-- A block that has been read back from the part: page `p` of `t` holds `bytes`, and every byte outside the page reads
as in `s`. -/
def State.WrotePage (s t : State) (p : Nat) (bytes : List Byte) : Prop :=
  t.mem.page p = bytes ∧
    ∀ a, (a < pageAddress p ∨ pageAddress p + Config.pageBytes ≤ a) → t.mem.read a = s.mem.read a

/-- Between the two states the entry has been freed, and a READ that waited on it has ended with `st`. -/
def State.FreedEntry (s t : State) (e : Entry) (st : NodeStatus) : Prop :=
  s.OnlyMedia t e.node ∧ t.mem = s.mem ∧ t.lru = s.lru ∧
    t.entries = s.entries.filter (fun f => f.page != e.page) ∧ t.free.Perm (e.page :: s.free) ∧
    (t.nd e.node).cache = { (s.nd e.node).cache with
      fetches := (s.nd e.node).cache.fetches.filter (fun q => q != e.page) } ∧
    (s.waitsOn e.node e.lba = true → (t.nd e.node).media = { (s.nd e.node).media with
      current := none, received := none, last := st, out := { status := some st, data := .nothing } }) ∧
    (s.waitsOn e.node e.lba = false → (t.nd e.node).media = (s.nd e.node).media)

/-- Between the two states the pool has served requests of node `n` for FILLING entries, one page each: the lowest free pages,
and once none is free the pages of the least recently used VALID entries, which are evicted; each new entry's fetch is
pending, at the tail of the list (R65, R66, R92, R100, R103). -/
def State.ServedFetches (s t : State) (n : NodeId) : Prop :=
  ∃ new : List Entry, (∀ e ∈ new, e.node = n ∧ e.state = .filling none) ∧
    new.map Entry.page = (s.free ++ s.lru).take new.length ∧ t.free = s.free.drop new.length ∧
    t.lru = s.lru.drop (new.length - s.free.length) ∧
    t.entries.Perm (new ++ s.entries.filter (fun e => !(new.map Entry.page).contains e.page)) ∧
    (t.nd n).cache = { (s.nd n).cache with fetches := (s.nd n).cache.fetches ++ new.map Entry.page }

/-- What has become of a block of a command once the requests of its list have been made, which has led to `t`: one that
wanted an entry waits on a new FILLING entry, or wants one still because the node is at its FILLING cap or the pool has no
page to give (R92, R93). -/
def State.BlockServed (t : State) (n : NodeId) (b b' : BlockPlace) : Prop :=
  b'.lba = b.lba ∧ (b.status ≠ .wanting → b'.status = b.status) ∧
    (b.status = .wanting →
      (b'.status = .waiting ∧ ∃ e ∈ t.entries, e.node = n ∧ e.lba = b.lba ∧ e.state = .filling none) ∨
      (b'.status = .wanting ∧ (t.fillingCount n = Config.fillingCap ∨ (t.free = [] ∧ t.lru = []))))

/-- Between the two states the FLUSHING entries of the node have gone back to DIRTY. -/
def State.ReturnedFlushing (s t : State) (n : NodeId) : Prop :=
  s.OnlyMedia t n ∧ t.mem = s.mem ∧ t.free = s.free ∧ t.lru = s.lru ∧
    t.entries = s.entries.map (fun e =>
      if e.node = n ∧ e.state.isFlushing then { e with state := .dirty } else e) ∧
    (t.nd n).cache = { (s.nd n).cache with
      queue := (s.nd n).cache.outstanding ++ (s.nd n).cache.queue, outstanding := [] }

/-! ### A part in reset, and matching -/

/-- A part held in reset: every node is in its reset state, and every page is free (R71, R191). -/
def State.InReset (s : State) : Prop :=
  s.held = true ∧ s.free = List.range' 0 Config.pages ∧ s.entries = [] ∧ s.lru = [] ∧
    ∀ n, s.nd n = (s.nd n).inReset

/-- The first `k` bytes of the pattern match the last `k` bytes of the text (R51). -/
def Pattern.Spells (p : Pattern) (k : Nat) (text : List Byte) : Prop :=
  k ≤ text.length ∧ runsMatch p.fold (p.bytes.take k) (text.drop (text.length - k)) = true

/-- The match progress after a text, from 0. -/
def Pattern.after (p : Pattern) (text : List Byte) : Nat := text.foldl (fun k b => (p.examine b k).1) 0

end Sys2Proof.Machine
end

