-- ==== Sys2Proof/WellFormed.lean ====
section
/-! DEFINITION. Which commands can come from the wires: the limits of a frame's payload (R167), kinds (R174), runs
(R14), blocks (R72) and page numbers (R60). -/

namespace Sys2Proof

/-- A payload that a frame can carry (R167). -/
def payloadOk (p : List Byte) : Bool := decide (p.length ≤ 541)

/-- A run between two accepted edges lasts at least 16 cycles (R14). -/
def runOk (run : Nat) : Bool := decide (16 ≤ run)

/-- The operands of the command are within what its wires can bring. -/
def Instr.wf : Instr → Bool
  | .partStatus _ _ p => payloadOk p
  | .partSave _ _ p => payloadOk p
  | .saveWriteEnd => true
  | .partRestart _ _ p => payloadOk p
  | .poolSet _ _ p => payloadOk p
  | .clockSet _ _ p => payloadOk p
  | .conLineSet _ _ p => payloadOk p
  | .conWrite _ _ p => payloadOk p
  | .conBreak _ _ p => payloadOk p
  | .conRead _ _ p => payloadOk p
  | .conMark _ _ p => payloadOk p
  | .conEvents _ _ p => payloadOk p
  | .conDeliverySet _ _ p => payloadOk p
  | .conWatchSet _ _ p => payloadOk p
  | .conTxFlush _ _ p => payloadOk p
  | .medAttach _ _ p => payloadOk p
  | .medDetach _ _ p => payloadOk p
  | .medFill _ _ p => payloadOk p
  | .medFillFail _ _ p => payloadOk p
  | .medStored _ _ p => payloadOk p
  | .medExtentsSet _ _ p => payloadOk p
  | .medRecover _ _ p => payloadOk p
  | .medStatus _ _ p => payloadOk p
  | .medTuningSet _ _ p => payloadOk p
  | .pwrAction _ _ p => payloadOk p
  | .pwrAbort _ _ p => payloadOk p
  | .pwrClear _ _ p => payloadOk p
  | .pwrTimingSet _ _ p => payloadOk p
  | .pwrStatus _ _ p => payloadOk p
  | .livSet _ _ p => payloadOk p
  | .livKick _ _ p => payloadOk p
  | .livClear _ _ p => payloadOk p
  | .unknownKindFrame k _ _ p => payloadOk p && !Machine.isRequestKind k
  | .linkFrameReceived _ => true
  | .linkGapTimeout => true
  | .lrtsDeasserted => true
  | .lrtsAsserted => true
  | .arbiterGrant => true
  | .frameSent => true
  | .resetNAsserted => true
  | .powerOn => true
  | .startUp _ => true
  | .characterReceived _ _ _ _ => true
  | .breakRx _ => true
  | .rxBreakEnd _ => true
  | .idleGapSignal _ => true
  | .pacerDelayExpiry _ => true
  | .autobaudWindowComplete _ run => runOk run
  | .lockIdleWaitEnd _ => true
  | .txCharacterSent _ => true
  | .txBreakEnd _ => true
  | .txIdleTimeEnd _ => true
  | .vbusPresent _ => true
  | .vbusAbsent _ => true
  | .usbBusReset _ => true
  | .invalidCommand _ => true
  | .ready _ => true
  | .capacity _ => true
  | .eject _ => true
  | .sense _ => true
  | .read _ _ _ => true
  | .write _ _ _ => true
  | .newEntryRequest _ => true
  | .blockDelivery _ => true
  | .writeBlockReceived _ data => data.length == Machine.Config.pageBytes
  | .blockAccept _ => true
  | .fetchTimeout page => decide (page < Machine.Config.pages)
  | .storeTimeout _ => true
  | .pgSenseChange _ _ => true
  | .pgAccepted _ => true
  | .settleExpiry _ => true
  | .pressEnd _ => true
  | .awaitUpExpiry _ => true
  | .awaitDownExpiry _ => true
  | .holdEnd _ => true
  | .cutCheckExpiry _ => true
  | .dwellExpiry _ => true
  | .pulseEnd _ => true
  | .hbInputChange _ _ => true
  | .hbLevelAccepted _ => true
  | .graceExpiry _ => true
  | .timeoutExpiry _ => true
  | .warnExpiry _ => true
  | .stableDeadlineExpiry _ => true
  | .linkByteReceived _ _ => true
  | .autobaudAcceptedEdge _ _ run => runOk run

end Sys2Proof
end

