-- ==== Sys2Proof/Certificates/Slice0/Obligations.lean ====
section
/-! DEFINITION. The statements for the provers. -/

open Sys2Proof Sys2Proof.Machine

/-! ### The machine -/

/-- A step with a command at the front of the queue is that command's meaning on the rest of the queue. On an empty queue
one REFCLK cycle passes, and the tick ends when it has counted Fref cycles (R2); a part held in reset counts nothing
(R191). That an idle step is one cycle is the model's choice (notes/assumptions/1.md). -/
def Obligations.StepRunsTheFrontCommand : Prop :=
  (∀ (c : Instr) (cs : List Instr) (s : State), step { s with pending := c :: cs } = exec c { s with pending := cs }) ∧
  (∀ (s : State), s.pending = [] → s.held = true → step s = .next s) ∧
  (∀ (s : State), s.pending = [] → s.held = false → s.clock.tickCycles < s.cfg.fref →
    step s = .next { s with clock :=
      { cycles := s.clock.cycles + 1
        ticks := if s.clock.tickCycles + 1 = s.cfg.fref then s.clock.ticks + 1 else s.clock.ticks
        tickCycles := if s.clock.tickCycles + 1 = s.cfg.fref then 0 else s.clock.tickCycles + 1 } })

/-- Every command, in every state, answers a next state with the same queue. That an event that cannot occur, and a request
the dispatcher may not take, change nothing and answer a next state too, and that all commands come through one queue, are
the model's choice (notes/assumptions/3.md, 4.md, 33.md). -/
def Obligations.EveryCommandCompletesAndKeepsTheQueue : Prop :=
  ∀ (c : Instr) (s : State), ∃ t, exec c s = .next t ∧ t.pending = s.pending

/-! ### Requests in general -/

/-- A frame that fails a check of R174 is answered with the result of the first check that fails, and nothing else
happens: an unknown kind, then a wrong NODE, then a wrong length. -/
def Obligations.ChecksRefuseRequests : Prop :=
  (∀ (k tag node : Byte) (p : List Byte) (s : State), isRequestKind k = false →
    s.takes { kind := k, tag := tag, node := node, payload := p } = true →
    ∃ t, exec (.unknownKindFrame k tag node p) s = .next t ∧ s.OnlyLink t ∧
      s.Replied t { kind := k, tag := tag, node := node, payload := p } { result := .unknownKind, fields := [] }) ∧
  (∀ (i : Instr) (f : Frame) (s : State), requestOf i = some f → s.takes f = true → f.nodeOk = false →
    ∃ t, exec i s = .next t ∧ s.OnlyLink t ∧ s.Replied t f { result := .badNode, fields := [] }) ∧
  (∀ (i : Instr) (f : Frame) (s : State), requestOf i = some f → s.takes f = true → f.nodeOk = true → f.lengthOk = false →
    ∃ t, exec i s = .next t ∧ s.OnlyLink t ∧ s.Replied t f { result := .badParam, fields := [] })

/-- A request that is taken is answered with one reply, but for a PART_SAVE that begins a write: the request's kind plus
80h, its tag and its NODE byte, the result and the link flags first, with DISCARDED copied and then clear (R167, R173,
R175). A request the dispatcher may not take changes nothing. That the second is so is the model's choice
(notes/assumptions/4.md). -/
def Obligations.RequestsAreAnsweredOnce : Prop :=
  (∀ (i : Instr) (f : Frame) (s : State), requestOf i = some f → s.takes f = true →
    (f.kind = 0x02 → f.nodeOk = true → f.lengthOk = true → s.store.save.isSome = true) →
    ∃ t r result fields, exec i s = .next t ∧ t.link.replies = s.link.replies ++ [r] ∧
      t.link.complete = s.link.complete.tail ∧ t.link.discarded = false ∧
      r.kind = f.kind + 0x80 ∧ r.tag = f.tag ∧ r.node = f.node ∧
      r.payload = Result.code result :: flagByte s.link.discarded :: fields) ∧
  (∀ (i : Instr) (f : Frame) (s : State), requestOf i = some f → s.takes f = false → exec i s = .next s)

/-! ### Laws every step keeps -/

/-- Every step keeps the buffer memory in its canonical form. -/
def Obligations.StepKeepsMemoryLaw : Prop := ∀ (s t : State), s.MemoryLaw → step s = .next t → t.MemoryLaw

/-- Every step keeps every page in exactly one of the free list, one ring and one entry (R60). -/
def Obligations.StepKeepsPageLaw : Prop := ∀ (s t : State), s.PageLaw → step s = .next t → t.PageLaw

/-- Every step keeps the relations of R26 between the offsets, the mark and the ring of every node. Every step keeps every
ring between its min and max pages, and every quota in its ranges, where the pages lie in one place each and the laws of the
history and of the Media Cache hold: a ring below its min always reaches it (R26, R61, R64). -/
def Obligations.StepKeepsHistoryLaw : Prop :=
  (∀ (s t : State), s.HistoryLaw → step s = .next t → t.HistoryLaw) ∧
  ∀ (s t : State), s.PageLaw → s.CacheLaw → s.HistoryLaw → s.QuotaLaw → step s = .next t → t.QuotaLaw

/-- Every step keeps the button lines asserted exactly in the phases that name them (R126). -/
def Obligations.StepKeepsLinesLaw : Prop := ∀ (s t : State), s.LinesLaw → step s = .next t → t.LinesLaw

/-- Every step keeps the recovery count at or below the configured maximum (R153). -/
def Obligations.StepKeepsRecoveryLaw : Prop := ∀ (s t : State), s.RecoveryLaw → step s = .next t → t.RecoveryLaw

/-- Every step keeps the reply queue at two replies (R176), the inbound buffers at two frames (R171), and the bytes sent of
the frame on LTX at those it has (R172). -/
def Obligations.StepKeepsLinkLaw : Prop := ∀ (s t : State), s.link.Lawful → step s = .next t → t.link.Lawful

/-- The state after reset meets every law that steps keep. -/
def Obligations.ResetMeetsTheLaws : Prop :=
  State.reset.MemoryLaw ∧ State.reset.PageLaw ∧ State.reset.HistoryLaw ∧ State.reset.QuotaLaw ∧ State.reset.LinesLaw ∧
    State.reset.RecoveryLaw ∧ State.reset.link.Lawful ∧ State.reset.PacerLaw ∧ State.reset.CacheLaw

/-! ### Resets -/

/-- RESET_N and power-on begin a part reset from any state, with their cause: no line is asserted, every port is
disconnected, every block is in its reset state, every page is free, the link is quiet, a save is lost with its image as
it stands, and the input pins and the buffer memory keep their contents (R71, R151, R184, R189, R191, R192). A power-on of
a part whose image is bad and whose pins are quiet, with the straps at 0, is followed by START_UP to the state after
reset, but for the buffer memory and the model's count of pauses of the link, which nothing clears (R25, R47, R71, R98, R125, R166, R184, R190); the levels of the
pins and straps there are the model's choice (notes/assumptions/6.md to 8.md). That the buffer memory keeps its contents
is too (notes/assumptions/24.md, 26.md). -/
def Obligations.PartResetQuietsThePart : Prop :=
  (∀ (s : State), ∀ x ∈ [(Instr.resetNAsserted, ResetCause.pin), (Instr.powerOn, ResetCause.powerOn)],
      ∃ t, exec x.1 s = .next t ∧ t.InReset ∧ t.resetCause = x.2 ∧ t.restartDefaults = false ∧
        (∀ (n : NodeId), (t.nd n).power.btnPwr = false ∧ (t.nd n).power.btnRst = false ∧ (t.nd n).power.diag = false ∧
          (t.nd n).power.feedCut = false ∧ (t.nd n).power.ctrl = .idle ∧ (t.nd n).power.boot = 0 ∧
          (t.nd n).power.pg = .settling ∧ t.condition n = .off ∧ t.connected n = false ∧ t.slot n = none ∧
          (t.nd n).hist = .fresh [] ∧ (t.nd n).line.queue = [] ∧ (t.nd n).cache.seq = 0 ∧
          (t.nd n).live.recoveries = 0 ∧ (t.nd n).media.vbus = (s.nd n).media.vbus ∧
          (t.nd n).power.sense = (s.nd n).power.sense ∧ (t.nd n).live.hbPin = (s.nd n).live.hbPin) ∧
        t.lcts = false ∧ t.link = .fresh s.link.lrts false ∧ t.store = { s.store with save := none } ∧
        t.mem = s.mem ∧ t.pauses = s.pauses ∧ t.pending = s.pending) ∧
  (∀ (s : State), s.store.image = .bad → s.link.lrts = true →
      (∀ (n : NodeId), (s.nd n).media.vbus = false ∧ (s.nd n).power.sense = false ∧ (s.nd n).live.hbPin = false) →
      ∃ a, exec .powerOn s = .next a ∧
        exec (.startUp 0) a = .next { State.reset with mem := s.mem, pauses := s.pauses, pending := s.pending })

/-- START_UP of a part in reset loads the settings of a good image, and the defaults whole where the image is bad or the
restart carried the defaults flag; the image is not changed; each line is HUNTING or FIXED; each ring takes its min pages
from the lowest free ones, N0 first; each monitor is disabled or has started; and PART_READY is pending (R25, R71, R166,
R184, R190, R191). The strap coding is the model's choice (notes/assumptions/8.md). -/
def Obligations.StartUpLoadsTheSettings : Prop :=
  ∀ (s : State) (straps : BitVec 2), s.InReset →
    ∃ t, exec (.startUp straps) s = .next t ∧ t.held = false ∧ t.restartDefaults = false ∧
      (s.restartDefaults = true → t.cfg = .default ∧ t.store = { s.store with source := .defaults }) ∧
      (∀ (x : Settings), s.restartDefaults = false → s.store.image.good = some x →
        t.cfg = x ∧ t.store = { s.store with source := .stored }) ∧
      (s.restartDefaults = false → s.store.image.good = none →
        t.cfg = .default ∧ t.store = { s.store with source := .defaults }) ∧
      t.link = { s.link with readyPending := true } ∧ t.linkRate = LinkRate.ofStraps straps ∧
      t.clock = s.clock ∧ t.mem = s.mem ∧ t.pauses = s.pauses ∧ t.pending = s.pending ∧ t.entries = [] ∧ t.resetCause = s.resetCause ∧
      (let m := fun n => (t.set n).quota.min
       (t.nd .n0).hist.ring = List.range' 0 (m .n0) ∧
       (t.nd .n1).hist.ring = List.range' (m .n0) (m .n1) ∧
       (t.nd .n2).hist.ring = List.range' (m .n0 + m .n1) (m .n2) ∧
       (t.nd .n3).hist.ring = List.range' (m .n0 + m .n1 + m .n2) (m .n3) ∧
       t.free = List.range' (m .n0 + m .n1 + m .n2 + m .n3) (1024 - (m .n0 + m .n1 + m .n2 + m .n3))) ∧
      ∀ (n : NodeId), (t.nd n).line.autobaud = (if (t.set n).line.rate = .auto then .hunting none else .fixed) ∧
        ((t.nd n).live.monitor = .disabled ↔ (t.set n).live.enable = false) ∧
        (t.nd n).power.boot = 0 ∧ t.slot n = none ∧ (t.nd n).media.vbus = (s.nd n).media.vbus

/-! ### Part-wide requests -/

/-- Settings that a PART_SAVE has written are loaded again: the snapshot is the settings when the request is taken, the
image is bad while the write runs, SAVE_WRITE_END makes it good and makes the reply with its CRC, and a part reset and
START_UP then load it. A part reset while the write runs leaves the image bad. A second PART_SAVE meanwhile is answered
BUSY with the CRC field 0 and changes nothing (R187 to R190). Where the reply queue is full as the write ends, the reply
waits, with the DISCARDED flag of that moment in it (R175, R176). The bytes under the CRC are a free value
(notes/assumptions/9.md); that SAVE_WRITE_END without a write changes nothing is the model's choice
(notes/assumptions/3.md). -/
def Obligations.SavedSettingsAreLoadedAgain : Prop :=
  (∀ (s : State) (j : SaveJob), s.held = false → s.store.save = some j →
    let r := Frame.reply ⟨0x02, j.tag, j.node, []⟩ s.link.discarded
      { result := .ok, fields := leBytes 4 (imageCrc j.snapshot).toNat }
    exec .saveWriteEnd s = .next { s with
      store := { s.store with image := .written j.snapshot (imageCrc j.snapshot), save := none }
      link := if s.link.replies.length < 2 then { s.link with replies := s.link.replies ++ [r], discarded := false }
        else { s.link with saveReply := some r, discarded := false } }) ∧
  (∀ (s : State), s.store.save = none → exec .saveWriteEnd s = .next s) ∧
  ∀ (s : State) (tag : Byte) (straps : BitVec 2), s.takes (partFrame 0x02 tag []) = true →
    (s.store.save = none → s.cfg.inRange = true →
      ∃ a b c d, exec (.partSave tag 0xFF []) s = .next a ∧
        a = { s with link := { s.link with complete := s.link.complete.tail }, store := a.store } ∧
        a.store.image = .bad ∧ a.store.save = some { snapshot := s.cfg, tag := tag, node := 0xFF } ∧
        exec .saveWriteEnd a = .next b ∧ b.store.save = none ∧ b.store.image.good = some s.cfg ∧
        b = { a with link := b.link, store := b.store } ∧
        b.link.replies = s.link.replies ++
          [Frame.reply (partFrame 0x02 tag []) s.link.discarded
            { result := .ok, fields := leBytes 4 (imageCrc s.cfg).toNat }] ∧
        exec .resetNAsserted b = .next c ∧ exec (.startUp straps) c = .next d ∧ d.cfg = s.cfg ∧
        d.store.source = .stored) ∧
    (s.store.save = none →
      ∃ a c, exec (.partSave tag 0xFF []) s = .next a ∧ exec .resetNAsserted a = .next c ∧
        c.store.image = .bad ∧ c.store.save = none) ∧
    (s.store.save ≠ none →
      ∃ a, exec (.partSave tag 0xFF []) s = .next a ∧ s.OnlyLink a ∧
        s.Replied a (partFrame 0x02 tag []) { result := .busy, fields := [0, 0, 0, 0] })

/-- PART_RESTART sets restart taken with its flag and is answered OK; a flag other than 0 and 1 is refused. FRAME_SENT:
the part reset begins when that reply has been sent, with the flag; until then a sent reply frees its place; with restart
taken clear a waiting save reply takes the place; a sent PART_READY opens the link (R176, R183, R184). A frame with bytes
left is not sent while LRTS is deasserted, so a restart whose reply is paused waits (R172, R183). That FRAME_SENT then, and
with no frame on LTX, changes nothing is the model's choice (notes/assumptions/3.md, 26.md). -/
def Obligations.RestartFollowsItsReply : Prop :=
  (∀ (s : State) (tag b : Byte), s.takes (partFrame 0x03 tag [b]) = true →
    ∃ t, exec (.partRestart tag 0xFF [b]) s = .next t ∧ s.OnlyLink t ∧
      ((b = 0 ∨ b = 1) →
        ∃ u : State, s.Replied u (partFrame 0x03 tag [b]) { result := .ok, fields := [] } ∧
          t.link = { u.link with restart := some (b == 1) }) ∧
      (b ≠ 0 → b ≠ 1 → s.Replied t (partFrame 0x03 tag [b]) { result := .badParam, fields := [] })) ∧
  (∀ (s : State) (x : Sending) (d : Bool), s.held = false → s.link.sending = some x →
    (s.link.lrts = true ∨ x.sent = x.frame.wire.length) → x.isReply = true → s.link.restart = some d →
    ∃ t, exec .frameSent s = .next t ∧
      (x.frame.restartReply = true → t.InReset ∧ t.resetCause = .restart ∧ t.restartDefaults = d ∧
        t.store = { s.store with save := none }) ∧
      (x.frame.restartReply = false →
        t = { s with link := { s.link with sending := none, replies := s.link.replies.tail } })) ∧
  (∀ (s : State) (x : Sending), s.held = false → s.link.sending = some x →
    (s.link.lrts = true ∨ x.sent = x.frame.wire.length) → x.isReply = true → s.link.restart = none →
    exec .frameSent s = .next { s with link := { s.link with
      sending := none, replies := s.link.replies.tail ++ s.link.saveReply.toList, saveReply := none } }) ∧
  (∀ (s : State) (x : Sending), s.held = false → s.link.sending = some x →
    (s.link.lrts = true ∨ x.sent = x.frame.wire.length) → x.isReply = false →
    exec .frameSent s = .next { s with link := { s.link with
      sending := none, up := s.link.up || x.frame.kind == 0x40 } }) ∧
  (∀ (s : State) (x : Sending), s.link.sending = some x → s.link.lrts = false → x.sent ≠ x.frame.wire.length →
    exec .frameSent s = .next s) ∧
  (∀ (s : State), s.link.sending = none → exec .frameSent s = .next s)

/-- PART_STATUS, MED_STATUS and PWR_STATUS report and change nothing but the link: PART_STATUS in 41 bytes, MED_STATUS
the media state block and tuning, PWR_STATUS the content of PWR_STATE with the ended list as it stands, and the timings
and choices (R123, R150, R181). -/
def Obligations.StatusRequestsChangeNothing : Prop :=
  (∀ (s : State) (tag : Byte), s.takes (partFrame 0x01 tag []) = true →
    ∃ t, exec (.partStatus tag 0xFF []) s = .next t ∧ s.OnlyLink t ∧ s.statusFields.length = 41 ∧
      s.Replied t (partFrame 0x01 tag []) { result := .ok, fields := s.statusFields }) ∧
  (∀ (s : State) (tag : Byte) (n : NodeId), s.takes (nodeFrame 0x27 tag n []) = true →
    ∃ t, exec (.medStatus tag n.toByte []) s = .next t ∧ s.OnlyLink t ∧
      s.Replied t (nodeFrame 0x27 tag n [])
        { result := .ok, fields := s.mediaBlock n ++ leBytes 1 (s.set n).tuning.readAhead
            ++ leBytes 2 (s.set n).tuning.fetchTimeout ++ leBytes 4 (s.set n).tuning.storeTimeout }) ∧
  (∀ (s : State) (tag : Byte) (n : NodeId), s.takes (nodeFrame 0x34 tag n []) = true →
    ∃ t, exec (.pwrStatus tag n.toByte []) s = .next t ∧ s.OnlyLink t ∧
      s.Replied t (nodeFrame 0x34 tag n [])
        { result := .ok, fields := s.powerContent n ++ timingLayout (s.set n).timings (s.set n).choices })

/-- POOL_SET with a pair outside 2 to 160, or a min above its max, is refused and changes nothing. A valid set becomes the
quotas in force; a ring above its max gives pages back until it holds the max: its spare pages, newest first, and then its
oldest, whose bytes, mark and delivery are given up; a ring between min and max keeps its pages. Then, N0 first, each ring
below its min takes the lowest free pages, and the least recently used VALID entries' once none is free, as spare pages at
its tail, and always reaches its min (R29, R61, R62, R64, R65, R67). -/
def Obligations.PoolSetShedsThenGrows : Prop :=
  ∀ (s : State) (tag : Byte) (p : List Byte), s.takes (partFrame 0x04 tag p) = true → p.length = 8 →
    ∃ t, exec (.poolSet tag 0xFF p) s = .next t ∧
      ((∃ n, ((quotasOf p).get n).min < 2 ∨ 160 < ((quotasOf p).get n).max ∨
          ((quotasOf p).get n).max < ((quotasOf p).get n).min) →
        s.OnlyLink t ∧ s.Replied t (partFrame 0x04 tag p) { result := .badParam, fields := s.poolFields }) ∧
      ((∀ (n : NodeId), 2 ≤ ((quotasOf p).get n).min ∧ ((quotasOf p).get n).min ≤ ((quotasOf p).get n).max ∧
          ((quotasOf p).get n).max ≤ 160) →
        s.Replied t (partFrame 0x04 tag p) { result := .ok, fields := t.poolFields } ∧
        t.mem = s.mem ∧ t.clock = s.clock ∧ t.store = s.store ∧ t.cfg.fref = s.cfg.fref ∧
        ∀ (n : NodeId), t.set n = { s.set n with quota := (quotasOf p).get n } ∧
          t.nd n = { s.nd n with hist := (t.nd n).hist } ∧ (t.nd n).hist.next = (s.nd n).hist.next ∧
          (((quotasOf p).get n).max < (s.nd n).hist.ring.length →
            (t.nd n).hist.ring.length = ((quotasOf p).get n).max) ∧
          (((quotasOf p).get n).min ≤ (s.nd n).hist.ring.length →
            (s.nd n).hist.ring.length ≤ ((quotasOf p).get n).max → (t.nd n).hist = (s.nd n).hist) ∧
          ((s.nd n).hist.ring.length < ((quotasOf p).get n).min → 640 ≤ s.free.length →
            (t.nd n).hist.ring.length = ((quotasOf p).get n).min)) ∧
      ((∀ (n : NodeId), 2 ≤ ((quotasOf p).get n).min ∧ ((quotasOf p).get n).min ≤ ((quotasOf p).get n).max ∧
          ((quotasOf p).get n).max ≤ 160) → s.PageLaw → s.CacheLaw → s.HistoryLaw →
        let h := fun n => (s.nd n).hist
        let max_ := fun n => ((quotasOf p).get n).max
        let used := fun n => ((h n).next - (h n).oldest + 511) / 512
        let lost := fun n => if max_ n < (h n).ring.length then used n - max_ n else 0
        let kept := fun n => ((h n).ring.take (max (max_ n) (used n))).drop (lost n)
        let back := fun n => (h n).ring.drop (max (max_ n) (used n)) ++ (h n).ring.take (lost n)
        let need := fun n => ((quotasOf p).get n).min - (kept n).length
        let all := need .n0 + need .n1 + need .n2 + need .n3
        ∃ f : List Nat, f.Pairwise (· < ·) ∧ f.Perm (s.free ++ back .n0 ++ back .n1 ++ back .n2 ++ back .n3) ∧
          t.free = f.drop all ∧ t.lru = s.lru.drop (all - f.length) ∧
          t.entries = s.entries.filter (fun e => !(s.lru.take (all - f.length)).contains e.page) ∧
          (∀ n k, (n, k) ∈ [(NodeId.n0, 0), (.n1, need .n0), (.n2, need .n0 + need .n1),
              (.n3, need .n0 + need .n1 + need .n2)] →
            (t.nd n).hist.ring = kept n ++ ((f ++ s.lru).drop k).take (need n)) ∧
          ∀ n, (((h n).ring.length < ((quotasOf p).get n).min →
              (t.nd n).hist.ring.length = ((quotasOf p).get n).min)) ∧
            (t.nd n).hist.oldest = (h n).oldest + 512 * lost n ∧ (t.nd n).hist.next = (h n).next ∧
            (t.nd n).hist.mark = (h n).mark.filter (fun m => decide ((h n).oldest + 512 * lost n ≤ m)) ∧
            (t.nd n).hist.deliver = max (h n).deliver ((h n).oldest + 512 * lost n) ∧
            (lost n = 0 → t.nd n = { s.nd n with hist := { h n with ring := (t.nd n).hist.ring } }))

/-- CLOCK_SET clamps Fref into 12,000 to 50,000, answers ADJUSTED when it did, ends a tick in progress that has counted
the new Fref cycles already, and changes nothing of a node but the idle-gap timer of a line whose d has changed (R1, R2,
R7, R12). The bit period d: none while HUNTING; the set rate or the lock rate B gives Fref × 1000 / B rounded to the
nearest whole number, an exact half up, clamped into 16 to 1,048,575; with the permitted rates and Fref it does not exceed
166,667 (R5). That the restart starts a timer that had stopped is the model's reading (notes/assumptions/15.md). -/
def Obligations.ClockSetKeepsTheLines : Prop :=
  (∀ (s : State) (tag : Byte) (p : List Byte), s.takes (partFrame 0x05 tag p) = true → p.length = 4 →
      let f := min 50000 (max 12000 (leNat p))
      ∃ t fields, exec (.clockSet tag 0xFF p) s = .next t ∧
        t = { s with cfg := { s.cfg with fref := f }, clock := t.clock, nodes := t.nodes, link := t.link } ∧
        s.Replied t (partFrame 0x05 tag p)
          { result := if f = leNat p then .ok else .adjusted, fields := leBytes 4 f ++ fields } ∧
        fields = [NodeId.n0, .n1, .n2, .n3].flatMap (fun n =>
          match t.bitPeriod n with
          | none => leBytes 8 0
          | some d => leBytes 4 d ++ leBytes 4 (nearestQuotient f d)) ∧
        (f ≤ s.clock.tickCycles → t.clock = { s.clock with ticks := s.clock.ticks + 1, tickCycles := 0 }) ∧
        (s.clock.tickCycles < f → t.clock = s.clock) ∧
        ∀ (n : NodeId), t.nd n = { s.nd n with line := { (s.nd n).line with idleGap := (t.nd n).line.idleGap } } ∧
          (t.bitPeriod n = s.bitPeriod n → (t.nd n).line.idleGap = (s.nd n).line.idleGap) ∧
          (t.bitPeriod n ≠ s.bitPeriod n → (t.nd n).line.idleGap =
            if (t.set n).delivery.gap = 0 then none
            else (t.charCycles n (t.set n).delivery.gap).map (t.clock.cycles + ·))) ∧
  (∀ (s : State) (n : NodeId) (w : Option Window), (s.nd n).line.autobaud = .hunting w → s.bitPeriod n = none) ∧
  (∀ (s : State) (n : NodeId) (b : Nat), (s.nd n).line.autobaud = .fixed → (s.set n).line.rate = .baud b →
    s.bitPeriod n = some (divisor s.cfg.fref b)) ∧
  (∀ (s : State) (n : NodeId) (r : Nat) (c : Option LockCheck), (s.nd n).line.autobaud = .locked r c →
    s.bitPeriod n = some (divisor s.cfg.fref r)) ∧
  (∀ (fref b : Nat), 0 < b → ∃ q, 2 * b * q ≤ 2 * (fref * 1000) + b ∧ 2 * (fref * 1000) + b < 2 * b * (q + 1) ∧
    divisor fref b = min 1048575 (max 16 q)) ∧
  (∀ (fref b : Nat), fref ≤ 50000 → 300 ≤ b → divisor fref b ≤ 166667)

/-! ### The Media Cache's laws -/

/-- Every step keeps the laws of the Media Cache's entries and lists (R99 to R103, R110 to R113), where the pages lie in one
place each: among them that every entry's node has a slot that is not ABSENT, its LBA below that slot's capacity and outside
its zero table (R86). -/
def Obligations.StepKeepsCacheLaw : Prop :=
  ∀ (s t : State), s.PageLaw → s.CacheLaw → step s = .next t → t.CacheLaw

/-! ### The Management Link -/

/-- The bytes of a frame, as the part itself would send it, are received as that frame: START, LEN, KIND, TAG, NODE,
PAYLOAD of up to 541 bytes, and the CRC over LEN to PAYLOAD, low byte first (R167 to R169). -/
def Obligations.FrameOnTheWireIsReceived : Prop :=
  ∀ (s : State) (f : Frame), s.listening = true → s.link.assembling = none → s.link.complete.length < 2 →
    f.payload.length ≤ 541 →
    s.Runs (f.wire.dropLast.map (fun b => .linkByteReceived b true) ++ [.linkFrameReceived (f.wire.getLast?.getD 0)])
      { s with link := { s.link with complete := s.link.complete ++ [f] } }

/-- The receiver byte by byte (R169 to R171, R184): HUNTING ignores every byte but A5h and every faulty character; A5h
opens a candidate where a buffer is free, and is discarded where none is; while assembling, a faulty character and a LEN
outside 3 to 544 discard; every other byte before the last is stored and starts the 2 ms limit afresh; the last CRC byte
completes the frame or discards it; the passing of the limit discards. A byte that comes after the limit finds the frame
discarded, DISCARDED set and the receiver HUNTING, whichever byte of the frame it would have been, and is examined as a
possible START. A receiver that does not listen loses every byte. At which tick a byte and the limit act is the model's
choice (notes/assumptions/2.md, 28.md, 31.md). -/
def Obligations.LinkReceiverFollowsItsChecks : Prop :=
  (∀ (s : State) (b : Byte) (ok : Bool), s.listening = false → exec (.linkByteReceived b ok) s = .next s) ∧
  (∀ (s : State) (b : Byte) (ok : Bool), s.listening = true → s.link.assembling = none → (ok = false ∨ b ≠ 0xA5) →
    exec (.linkByteReceived b ok) s = .next s) ∧
  (∀ (s : State), s.listening = true → s.link.assembling = none →
    exec (.linkByteReceived 0xA5 true) s = .next (if s.link.complete.length < 2
      then { s with link := { s.link with assembling := some { bytes := [], gapEnds := s.clock.ticks + 2 } } }
      else { s with link := { s.link with discarded := true } })) ∧
  (∀ (s : State) (a : Assembly) (b : Byte), s.listening = true → s.link.assembling = some a →
    exec (.linkByteReceived b false) s =
      .next { s with link := { s.link with assembling := none, discarded := true } }) ∧
  (∀ (s : State) (x b : Byte) (g : Nat), s.listening = true → s.link.assembling = some { bytes := [x], gapEnds := g } →
    s.clock.ticks < g →
    (x.toNat + 256 * b.toNat < 3 ∨ 544 < x.toNat + 256 * b.toNat) →
    exec (.linkByteReceived b true) s =
      .next { s with link := { s.link with assembling := none, discarded := true } }) ∧
  (∀ (s : State) (a : Assembly) (b : Byte), s.listening = true → s.link.assembling = some a →
    s.clock.ticks < a.gapEnds →
    (a.bytes = [] ∨ (∃ x, a.bytes = [x] ∧ 3 ≤ x.toNat + 256 * b.toNat ∧ x.toNat + 256 * b.toNat ≤ 544) ∨
      ∃ x y rest, a.bytes = x :: y :: rest ∧ rest.length < x.toNat + 256 * y.toNat + 1) →
    exec (.linkByteReceived b true) s = .next { s with link := { s.link with
      assembling := some { bytes := a.bytes ++ [b], gapEnds := s.clock.ticks + 2 } } }) ∧
  (∀ (s : State) (f : Frame) (c d : Byte) (g : Nat), s.listening = true → f.payload.length ≤ 541 →
    s.link.assembling = some { bytes := f.body ++ [c], gapEnds := g } → s.clock.ticks < g →
    exec (.linkFrameReceived d) s = .next (if c.toNat + 256 * d.toNat = (crc16 f.body).toNat
      then { s with link := { s.link with assembling := none, complete := s.link.complete ++ [f] } }
      else { s with link := { s.link with assembling := none, discarded := true } })) ∧
  (∀ (s : State) (a : Assembly) (b : Byte) (ok : Bool), s.listening = true → s.link.assembling = some a →
    a.gapEnds ≤ s.clock.ticks →
    let u := { s with link := { s.link with assembling := none, discarded := true } }
    exec (.linkByteReceived b ok) s = exec (.linkByteReceived b ok) u ∧
    ∀ (f : Frame) (c : Byte), f.payload.length ≤ 541 → a.bytes = f.body ++ [c] →
      exec (.linkFrameReceived b) s = exec (.linkByteReceived b true) u) ∧
  (∀ (s : State) (a : Assembly), s.held = false → s.link.assembling = some a →
    ∃ t, exec .linkGapTimeout s = .next t ∧ t.clock.ticks = max s.clock.ticks a.gapEnds ∧
      t = { s with clock := t.clock, link := { s.link with assembling := none, discarded := true } })

/-- LRTS follows its pin, and gates the transmitter: while it is deasserted, while a frame is being sent and in reset no
grant is made. A frame on LTX pauses when LRTS is deasserted, the byte in progress finished, with LTX high and its next byte
the first to be sent when LRTS is asserted again; no byte is sent twice or taken back (R172). How many bytes are sent then is a
free value within these bounds: at least one, no fewer than at the fall of LRTS before, and no more than the frame has. Each
number in the bounds can be it, that of the fall before too, since LRTS is tested between two bytes only and one byte can be in
progress at both (notes/assumptions/26.md). A reply comes first, in queue order; with restart
taken nothing else is granted; then PART_READY with the revision 1, the settings source and the reset cause (R178, R179,
R183, R184). A reply stays in its queue until it is sent (R176). -/
def Obligations.GrantsRepliesThenPartReady : Prop :=
  (∀ (s : State), s.link.lrts = false → exec .lrtsDeasserted s = .next s) ∧
  (∀ (s : State), s.link.lrts = true → s.link.sending = none →
    exec .lrtsDeasserted s = .next { s with pauses := s.pauses + 1, link := { s.link with lrts := false } }) ∧
  (∀ (s : State) (x : Sending), s.link.lrts = true → s.link.sending = some x → x.sent ≤ x.frame.wire.length →
    exec .lrtsDeasserted s = .next { s with pauses := s.pauses + 1, link := { s.link with
      lrts := false, sending := some (x.pause (Config.bytesSent s.pauses)) } } ∧
    (∀ k, ∃ j, x.pause k = { x with sent := j } ∧ 1 ≤ j ∧ x.sent ≤ j ∧ j ≤ x.frame.wire.length) ∧
    ∀ k, 1 ≤ k → x.sent ≤ k → k ≤ x.frame.wire.length → x.pause k = { x with sent := k }) ∧
  (∀ (s : State), (s.link.lrts = false ∨ s.link.sending = none → s.link.ltx = .high) ∧
    ∀ x, s.link.lrts = true → s.link.sending = some x → s.link.ltx = .bytes (x.frame.wire.drop x.sent)) ∧
  (∀ (s : State), exec .lrtsAsserted s = .next { s with link := { s.link with lrts := true } }) ∧
  (∀ (s : State), (s.held = true ∨ s.link.lrts = false ∨ s.link.sending ≠ none) → exec .arbiterGrant s = .next s) ∧
  (∀ (s : State) (r : Frame) (rs : List Frame), s.mayGrant = true → s.link.replies = r :: rs →
    exec .arbiterGrant s = .next { s with link := { s.link with sending := some { frame := r, isReply := true, sent := 0 } } }) ∧
  (∀ (s : State) (d : Bool), s.mayGrant = true → s.link.replies = [] → s.link.restart = some d →
    exec .arbiterGrant s = .next s) ∧
  (∀ (s : State), s.mayGrant = true → s.link.replies = [] → s.link.restart = none → s.link.readyPending = true →
    exec .arbiterGrant s = .next { s with link := { s.link with
      readyPending := false
      sending := some
        { frame := { kind := 0x40, tag := 0, node := 0xFF, payload := [1, s.store.source.code, s.resetCause.code] }
          isReply := false
          sent := 0 } } })

/-- With no reply and no PART_READY to send, the first node after the one last served in class 2 that has a notice pending
is served, and of its kinds the first after the kind last sent for it, in the order PWR_STATE, LIV_STATE, MED_STATE,
CON_EVENT, CON_INPUT_ROOM; the pointers name them. The notice carries the block's state at that moment and its pending flag
is cleared; PWR_STATE empties the ended list, LIV_STATE returns its two counts to 0, and CON_EVENT takes up to 8 unsent
entries, oldest first, and stays pending while entries remain (R23, R46, R124, R149, R165, R177 to R179). A CON_EVENT turn
that finds the unsent list empty sends nothing: its flag is cleared and the choice is made again (R46, R177); that the
pointers name that turn is the model's choice (notes/assumptions/19.md). -/
def Obligations.GrantsStateNoticesInTurn : Prop :=
  (∀ (s : State) (n : NodeId), s.mayGrant = true → s.link.replies = [] → s.link.restart = none →
    s.link.readyPending = false →
    (∃ before rest, s.link.lastState.after = before ++ n :: rest ∧
      ∀ m ∈ before, ∀ j, s.stateNoticePending m j = false) →
    (∃ before rest, (s.link.lastKind.get n).after = before ++ .evt :: rest ∧
      ∀ j ∈ before, s.stateNoticePending n j = false) →
    s.stateNoticePending n .evt = true → (∀ e ∈ (s.nd n).hist.index, e.unsent = false) →
    exec .arbiterGrant s = exec .arbiterGrant { s.setNd n { s.nd n with
        hist := { (s.nd n).hist with eventPending := false } } with
      link := { s.link with lastState := n, lastKind := s.link.lastKind.set n .evt } }) ∧
  ∀ (s : State) (n : NodeId) (k : StateNotice), s.mayGrant = true → s.link.replies = [] → s.link.restart = none →
    s.link.readyPending = false →
    (∃ before rest, s.link.lastState.after = before ++ n :: rest ∧
      ∀ m ∈ before, ∀ j, s.stateNoticePending m j = false) →
    (∃ before rest, (s.link.lastKind.get n).after = before ++ k :: rest ∧
      ∀ j ∈ before, s.stateNoticePending n j = false) →
    s.stateNoticePending n k = true → (k = .evt → ∃ e ∈ (s.nd n).hist.index, e.unsent = true) →
    ∃ t payload, exec .arbiterGrant s = .next t ∧ s.OnlyNodeAndLink t n ∧
      t.link = { s.link with
        lastState := n
        lastKind := s.link.lastKind.set n k
        sending := some { frame := nodeFrame k.kind 0 n payload, isReply := false, sent := 0 } } ∧
      (k = .pwr → payload = s.powerContent n ∧ t.nd n = { s.nd n with power := { (s.nd n).power with
        ended := [], endedLost := 0, statePending := false } }) ∧
      (k = .liv → payload = s.liveBlock n ∧ t.nd n = { s.nd n with live := { (s.nd n).live with
        warnings := 0, deferrals := 0, statePending := false } }) ∧
      (k = .med → payload = s.mediaBlock n ∧
        t.nd n = { s.nd n with media := { (s.nd n).media with statePending := false } }) ∧
      (k = .room → payload = leBytes 2 (256 - (s.nd n).line.queue.length) ∧
        t.nd n = { s.nd n with line := { (s.nd n).line with roomPending := false } }) ∧
      (k = .evt →
        let h := (s.nd n).hist
        let u := h.index.filter (·.unsent)
        payload = [flagByte (decide (8 < u.length)), BitVec.ofNat 8 h.lost, BitVec.ofNat 8 (min 8 u.length)]
          ++ (u.take 8).flatMap Event.layout ∧
        (t.nd n).hist.index.map (fun e => { e with unsent := false }) = h.index.map (fun e => { e with unsent := false }) ∧
        (t.nd n).hist.index.filter (·.unsent) = u.drop 8 ∧
        t.nd n = { s.nd n with hist := { h with
          index := (t.nd n).hist.index, lost := 0, eventPending := decide (8 < u.length) } })

/-- With classes 1 and 2 empty, the turn goes to the first class with something pending from the rotation pointer on, in the
order MED_FETCH, CON_DATA, MED_WRITE_OUT, and in it to the first such node after the one last served in it. MED_FETCH takes
the longest run of consecutive LBAs, at most 16, from the head of the pending fetch list, and starts their deadlines;
CON_DATA carries up to 512 bytes from deliver_offset and the gap count, which it clears, and sets the pacer anew;
MED_WRITE_OUT carries the block at the head of the write-out queue with the next write sequence number, and starts its
deadline (R42, R104, R111, R112, R180). At which tick a deadline falls is the model's reading (notes/assumptions/28.md). -/
def Obligations.GrantsBulkNoticesInTurn : Prop :=
  ∀ (s : State) (b : Bulk) (n : NodeId), s.CacheLaw → s.mayGrant = true → s.link.replies = [] → s.link.restart = none →
    s.link.readyPending = false → (∀ m j, s.stateNoticePending m j = false) →
    (∃ before rest, [s.link.rotation, s.link.rotation.succ, s.link.rotation.succ.succ] = before ++ b :: rest ∧
      ∀ x ∈ before, ∀ m, s.bulkPending m x = false) →
    (∃ before rest, (s.link.lastBulk b).after = before ++ n :: rest ∧ ∀ m ∈ before, s.bulkPending m b = false) →
    s.bulkPending n b = true →
    ∃ t payload, exec .arbiterGrant s = .next t ∧
      t = { s.setNd n (t.nd n) with link := t.link, entries := t.entries } ∧
      (∃ kind : Byte, kind = (match b with | .fetch => 0x50 | .data => 0x41 | .writeOut => 0x51) ∧
        t.link = { s.link.bulkServed b n with
          sending := some { frame := nodeFrame kind 0 n payload, isReply := false, sent := 0 } }) ∧
      (b = .fetch →
        ∃ tags rest lba, (s.nd n).cache.fetches = tags ++ rest ∧ tags ≠ [] ∧ tags.length ≤ 16 ∧
          (∀ i p, tags[i]? = some p → s.lbaOf p = lba + i) ∧
          (tags.length < 16 → ∀ p, rest.head? = some p → s.lbaOf p ≠ lba + tags.length) ∧
          payload = leBytes 4 lba ++ BitVec.ofNat 8 tags.length :: tags.flatMap (leBytes 2) ∧
          t.nd n = { s.nd n with cache := { (s.nd n).cache with fetches := rest } } ∧
          t.entries = s.entries.map (fun e => if e.page ∈ tags
            then { e with state := .filling (some (s.clock.ticks + (s.set n).tuning.fetchTimeout)) } else e)) ∧
      (b = .data →
        let h := (s.nd n).hist
        let c := min 512 (h.next - h.deliver)
        payload = leBytes 6 h.deliver ++ [flagByte (decide (h.gapCount ≠ 0))] ++ leBytes 4 h.gapCount ++ leBytes 2 c
          ++ s.historyBytes n h.deliver c ∧ t.entries = s.entries ∧
        t.nd n = { s.nd n with hist := { h with
          deliver := h.deliver + c
          gapCount := 0
          pacer :=
            if h.next - (h.deliver + c) = 0 then .idle
            else if (s.set n).delivery.count ≤ h.next - (h.deliver + c) ∨ h.lineIdle = true then .due
            else .collecting (if (s.set n).delivery.delay = 0 then none
              else some (s.clock.ticks + (s.set n).delivery.delay)) } }) ∧
      (b = .writeOut →
        ∃ p rest, (s.nd n).cache.queue = p :: rest ∧
          payload = leBytes 2 (s.nd n).cache.seq.toNat ++ leBytes 4 (s.lbaOf p) ++ leBytes 2 p ++ s.mem.page p ∧
          t.nd n = { s.nd n with cache := { (s.nd n).cache with
            queue := rest
            outstanding := (s.nd n).cache.outstanding ++ [p]
            seq := (s.nd n).cache.seq + 1 } } ∧
          t.entries = s.entries.map (fun e => if e.page ≠ p then e else
            { e with state :=
              .flushing (s.nd n).cache.seq false (s.clock.ticks + (s.set n).tuning.storeTimeout) }))

/-! ### Console lines -/

/-- CON_LINE_SET is checked whole (R3): a payload names settings exactly when its rate is 0 for AUTO or lies in 300 to
3,000,000, W lies in 5 to 8, and its parity and stop codes are listed; m is clamped into 1 to 128. A refused request changes
nothing. The settings replace the line's at once; the autobaud state, the receiver, the match progress and the idle-gap
timer follow R3 and R4; an item being sent goes on as it was begun and the queue keeps its order; a transmitter that was
idle takes the head where the new rate is a number, the node is not CUT and the queue is not empty, with all that taking an
item does (R21, R23), and otherwise stays idle. The reply carries the figures of R6 and the room levels. Which fields of a
refused reply report state and which an outcome (R195) is the model's reading (notes/assumptions/23.md). So is that a
stopped idle-gap timer starts and that a waiting idle character time does (notes/assumptions/15.md, 16.md). -/
def Obligations.ConLineSetReplacesTheLine : Prop :=
  (∀ (p : List Byte), (LineSettings.ofPayload p).isSome = true ↔
    (fieldAt p 0 4 = 0 ∨ (300 ≤ fieldAt p 0 4 ∧ fieldAt p 0 4 ≤ 3000000)) ∧ 5 ≤ fieldAt p 4 1 ∧ fieldAt p 4 1 ≤ 8 ∧
      fieldAt p 5 1 ≤ 4 ∧ fieldAt p 6 1 ≤ 1) ∧
  (∀ (p : List Byte) (x : LineSettings), LineSettings.ofPayload p = some x →
    x.rate = (if fieldAt p 0 4 = 0 then .auto else .baud (fieldAt p 0 4)) ∧ x.wordLen = fieldAt p 4 1 ∧
    x.parity.code.toNat = fieldAt p 5 1 ∧ x.stop = (if fieldAt p 6 1 = 0 then .one else .long) ∧
    x.rearm = (byteAt p 7).getLsbD 0 ∧ x.roomHigh = min 128 (max 1 (fieldAt p 8 1)) ∧ x.roomLow = fieldAt p 9 1) ∧
  ∀ (s : State) (tag : Byte) (n : NodeId) (p : List Byte), s.takes (nodeFrame 0x10 tag n p) = true → p.length = 10 →
    ∃ t, exec (.conLineSet tag n.toByte p) s = .next t ∧
      (LineSettings.ofPayload p = none → s.OnlyLink t ∧ s.Replied t (nodeFrame 0x10 tag n p)
        { result := .badParam, fields := 0 :: (s.nd n).line.autobaud.code :: List.replicate 14 0 }) ∧
      (∀ x, LineSettings.ofPayload p = some x →
        let l := (s.nd n).line
        let l' := (t.nd n).line
        let m := decide (x.roomHigh ≠ fieldAt p 8 1)
        s.OnlyNodeSetAndLink t n ∧ t.set n = { s.set n with line := x } ∧
        t.nd n = { s.nd n with
          line := l'
          hist := (t.nd n).hist
          watch := (s.nd n).watch.map (fun y => { y with progress := 0 }) } ∧
        l'.autobaud = (if x.rate = .auto then .hunting none else .fixed) ∧ l'.rx = .idle ∧
        l'.idleGap = (if (s.set n).delivery.gap = 0 then none
          else (t.charCycles n (s.set n).delivery.gap).map (s.clock.cycles + ·)) ∧
        (l.tx ≠ .idle → l'.queue = l.queue ∧ (t.nd n).hist = (s.nd n).hist ∧
          l'.roomWanted = l.roomWanted ∧ l'.roomPending = l.roomPending ∧
          (l.tx ≠ .gap none → l'.tx = l.tx) ∧
          (l.tx = .gap none → l'.tx = .gap ((t.charCycles n 1).map (s.clock.cycles + ·)))) ∧
        (l.tx = .idle → (x.rate = .auto ∨ s.condition n = .cut ∨ l.queue = []) → l'.queue = l.queue ∧ l'.tx = .idle ∧
          (t.nd n).hist = (s.nd n).hist ∧ l'.roomWanted = l.roomWanted ∧ l'.roomPending = l.roomPending) ∧
        (l.tx = .idle → x.rate ≠ .auto → s.condition n ≠ .cut → l.queue ≠ [] →
          let u := (s.mapSet n (fun y => { y with line := x })).setNd n { s.nd n with
            line := { l with autobaud := .fixed, rx := .idle, idleGap := l'.idleGap }
            watch := (s.nd n).watch.map (fun y => { y with progress := 0 }) }
          t.nd n = (u.takeItem n).nd n ∧ l'.queue = l.queue.tail ∧ l'.tx ≠ .idle) ∧
        (x.rate = .auto → s.Replied t (nodeFrame 0x10 tag n p)
          { result := if m then .adjusted else .ok
            fields := flagByte false false m :: 1 :: leBytes 4 0 ++ leBytes 4 0 ++ leBytes 4 0
              ++ leBytes 1 x.roomHigh ++ leBytes 1 x.roomLow }) ∧
        (∀ b, x.rate = .baud b →
          let d := divisor s.cfg.fref b
          let e := ratePpm s.cfg.fref b d
          let poor := decide (25000 < e.natAbs)
          let c := decide (d ≠ nearestQuotient s.cfg.fref b)
          s.Replied t (nodeFrame 0x10 tag n p)
            { result := if poor || c || m then .adjusted else .ok
              fields := flagByte poor c m :: 0 :: leBytes 4 d ++ leBytes 4 (nearestQuotient s.cfg.fref d)
                ++ leBytes 4 (BitVec.ofInt 32 e).toNat ++ leBytes 1 x.roomHigh ++ leBytes 1 x.roomLow }))

/-- The transmitter's takes (R8, R21, R23): idle, outside CUT, on a line with a d, it takes the head of the queue: a byte
as one character frame of the settings in force, or a break for its ticks with BREAK_TX recorded; the room-wanted flag is
then judged at the new occupancy. In every other case nothing happens. The frame lasts one character time, rounded up to a
whole cycle; its half-bits, each d/2 cycles, are the start bit 0, the low W bits of the byte from the least significant on,
the parity bit of R8 where parity is used, and stop bits 1; and CTXn follows them. A break holds CTXn low. That a break of
k ticks ends at the start of the k-th tick from now is the model's reading (notes/assumptions/28.md). -/
def Obligations.TransmitterTakesTheHead : Prop :=
  (∀ (s : State) (n : NodeId), ((s.nd n).line.tx ≠ .idle ∨ s.condition n = .cut ∨ s.bitPeriod n = none ∨
    (s.nd n).line.queue = []) → s.takeItem n = s) ∧
  (∀ (s : State) (n : NodeId) (d : Nat) (i : TxItem) (q : List TxItem), (s.nd n).line.tx = .idle →
    s.condition n ≠ .cut → s.bitPeriod n = some d → (s.nd n).line.queue = i :: q →
    let x := (s.set n).line
    let h := 2 * (1 + x.wordLen + (if x.parity = .none then 0 else 1)) +
      (if x.stop = .one then 2 else if x.wordLen = 5 then 3 else 4)
    let low := (s.nd n).line.roomWanted = true ∧ q.length ≤ x.roomLow
    ∃ t, s.takeItem n = t ∧ s.OnlyNode t n ∧
      t.nd n = { s.nd n with
        line := { (s.nd n).line with
          tx := (t.nd n).line.tx
          queue := q
          roomWanted := decide ((s.nd n).line.roomWanted = true ∧ ¬low)
          roomPending := (s.nd n).line.roomPending || decide low }
        hist := (t.nd n).hist } ∧
      (∀ b, i = .byte b → (t.nd n).hist = (s.nd n).hist ∧ ∃ f : TxFrame, (t.nd n).line.tx = .byte f ∧
        f.ends = s.clock.cycles + (h * d + 1) / 2 ∧ f.halves.length = h ∧
        ∀ j v, f.halves[j]? = some v →
          v = (if j < 2 then false
            else if j < 2 * (1 + x.wordLen) then b.getLsbD (j / 2 - 1)
            else if x.parity ≠ .none ∧ j < 2 * (2 + x.wordLen) then
              let ones := (List.range x.wordLen).countP (fun k => b.getLsbD k)
              (match x.parity with
                | .odd => decide (ones % 2 = 0)
                | .even => decide (ones % 2 = 1)
                | .mark => true
                | _ => false)
            else true) ∧
          ∀ c, s.clock.cycles + (j * d + 1) / 2 ≤ c → c < s.clock.cycles + ((j + 1) * d + 1) / 2 →
            (t.nd n).line.tx.pin c = if v then .high else .low) ∧
      (∀ ms, i = .brk ms → (t.nd n).line.tx = .brk (s.clock.ticks + ms) ∧ t.ctx n = .low ∧ (t.nd n).hist =
        (s.nd n).hist.record (s.set n).delivery.mask (s.nd n).power.boot .breakTx 0))

/-- CON_WRITE is taken in every autobaud state and condition: as many bytes as the queue of 256 has room for are appended
in order, the rest refused; the reply, always OK, gives the count and the free room after the request. The room-wanted flag
is set when bytes were refused or the occupancy is at or above 256 - m, and as it is set, at an occupancy of at most n, it is
cleared and CON_INPUT_ROOM becomes pending; an append that does not set it leaves both as they were. An idle transmitter
that can send then takes the head, with all that taking an item does (R19, R21, R23). The order inside the step is the
model's reading (notes/assumptions/17.md). -/
def Obligations.ConWriteAppendsWhatFits : Prop :=
  ∀ (s : State) (tag : Byte) (n : NodeId) (p : List Byte), s.takes (nodeFrame 0x11 tag n p) = true → 1 ≤ p.length →
    p.length ≤ 512 →
    let l := (s.nd n).line
    let k := min p.length (256 - l.queue.length)
    let q := l.queue ++ (p.take k).map TxItem.byte
    let sets := k < p.length ∨ 256 ≤ q.length + (s.set n).line.roomHigh
    let low := q.length ≤ (s.set n).line.roomLow
    let appended := { l with
      queue := q
      roomWanted := if sets then !decide low else l.roomWanted
      roomPending := l.roomPending || decide (sets ∧ low) }
    ∃ t, exec (.conWrite tag n.toByte p) s = .next t ∧ s.OnlyNodeAndLink t n ∧
      s.Replied t (nodeFrame 0x11 tag n p)
        { result := .ok, fields := leBytes 2 k ++ leBytes 2 (256 - (t.nd n).line.queue.length) } ∧
      t.nd n = { s.nd n with line := (t.nd n).line, hist := (t.nd n).hist } ∧
      (l.tx ≠ .idle ∨ s.condition n = .cut ∨ s.bitPeriod n = none →
        (t.nd n).hist = (s.nd n).hist ∧ (t.nd n).line = appended) ∧
      (l.tx = .idle → s.condition n ≠ .cut → s.bitPeriod n ≠ none → q ≠ [] →
        t.nd n = ((s.setNd n { s.nd n with line := appended }).takeItem n).nd n ∧
        (t.nd n).line.queue = q.tail ∧ (t.nd n).line.tx ≠ .idle) ∧
      (t.nd n).line = { l with
        tx := (t.nd n).line.tx
        queue := (t.nd n).line.queue
        roomWanted := (t.nd n).line.roomWanted
        roomPending := (t.nd n).line.roomPending }

/-- CON_BREAK: a duration below 1 becomes 1 and one above 5,000 becomes 5,000, with the result ADJUSTED; with a free item
the break joins the tail of the queue, which an idle transmitter then takes from, and the reply carries the effective
duration; a full queue refuses with NO_ROOM, keeps its items and wants room (R20, R21, R23). The order inside the step,
append, judge the room, take the head, is the model's reading (notes/assumptions/17.md).
A CON_TX_FLUSH removes every item and reports how many, in every state and condition. A break being held ends and the idle
character time follows; a suspended break has ended; a byte being sent finishes. A room-wanted flag becomes a pending
CON_INPUT_ROOM, since the occupancy of 0 is never above n (R22 to R24). -/
def Obligations.ConBreakAndFlushChangeTheQueue : Prop :=
  (∀ (s : State) (tag : Byte) (n : NodeId) (p : List Byte), s.takes (nodeFrame 0x12 tag n p) = true → p.length = 2 →
    let l := (s.nd n).line
    let v := leNat p
    let ms := min 5000 (max 1 v)
    ∃ t, exec (.conBreak tag n.toByte p) s = .next t ∧ s.OnlyNodeAndLink t n ∧
      t.nd n = { s.nd n with line := (t.nd n).line, hist := (t.nd n).hist } ∧
      (256 ≤ l.queue.length →
        s.Replied t (nodeFrame 0x12 tag n p) { result := .noRoom, fields := leBytes 2 0 } ∧
        (t.nd n).line.queue = l.queue ∧ (t.nd n).line.tx = l.tx ∧ (t.nd n).hist = (s.nd n).hist ∧
        (l.queue.length > (s.set n).line.roomLow →
          (t.nd n).line.roomWanted = true ∧ (t.nd n).line.roomPending = l.roomPending)) ∧
      (l.queue.length < 256 →
        s.Replied t (nodeFrame 0x12 tag n p)
          { result := if ms = v then .ok else .adjusted, fields := leBytes 2 ms } ∧
        ((l.tx ≠ .idle ∨ s.condition n = .cut ∨ s.bitPeriod n = none) →
          (t.nd n).line.queue = l.queue ++ [TxItem.brk ms] ∧ (t.nd n).line.tx = l.tx ∧ (t.nd n).hist = (s.nd n).hist) ∧
        (let sets := 256 ≤ l.queue.length + 1 + (s.set n).line.roomHigh
         let low := l.queue.length + 1 ≤ (s.set n).line.roomLow
         t.nd n = ((s.setNd n { s.nd n with line := { l with
           queue := l.queue ++ [TxItem.brk ms]
           roomWanted := if sets then !decide low else l.roomWanted
           roomPending := l.roomPending || decide (sets ∧ low) } }).takeItem n).nd n) ∧
        (l.tx = .idle → s.condition n ≠ .cut → s.bitPeriod n ≠ none →
          (t.nd n).line.queue = (l.queue ++ [TxItem.brk ms]).tail ∧ (t.nd n).line.tx ≠ .idle)) ∧
      (t.nd n).line = { l with
        tx := (t.nd n).line.tx
        queue := (t.nd n).line.queue
        roomWanted := (t.nd n).line.roomWanted
        roomPending := (t.nd n).line.roomPending }) ∧
  (∀ (s : State) (tag : Byte) (n : NodeId), s.takes (nodeFrame 0x18 tag n []) = true →
    let l := (s.nd n).line
    ∃ t, exec (.conTxFlush tag n.toByte []) s = .next t ∧ s.OnlyNodeAndLink t n ∧
      s.Replied t (nodeFrame 0x18 tag n []) { result := .ok, fields := leBytes 2 l.queue.length } ∧
      t.nd n = { s.nd n with line := { l with
        queue := []
        roomWanted := false
        roomPending := l.roomPending || l.roomWanted
        tx := (match l.tx with
          | .brk _ => .gap ((s.charCycles n 1).map (s.clock.cycles + ·))
          | .floating _ => .floating none
          | x => x) } })

/-- The transmitter's ends (R21, R24): a byte ends at its cycle and an idle character time at its, and the transmitter takes
the next item at once where it can, with all that taking an item does (R23); a break ends at its tick and an idle character
time of the line's d follows, or waits for a lock where the line has no d. Only the node and the clock change, and nothing
happens where no such end is due. The clock of an end, and that nothing happens where none is due, are the model's choice
(notes/assumptions/2.md, 3.md). -/
def Obligations.TransmitterEndsWhatItSends : Prop :=
  (∀ (s : State) (n : NodeId) (f : TxFrame), s.held = false → (s.nd n).line.tx = .byte f →
    ∃ t, exec (.txCharacterSent n) s = .next t ∧
      t.clock.cycles = max s.clock.cycles (f.start + (f.halves.length * f.period + 1) / 2) ∧ s.OnlyNodeAndClock t n ∧
      t = ({ s.setNd n { s.nd n with line := { (s.nd n).line with tx := .idle } } with clock := t.clock } :
        State).takeItem n ∧
      (s.condition n ≠ .cut → s.bitPeriod n ≠ none → (s.nd n).line.queue ≠ [] →
        (t.nd n).line.queue = (s.nd n).line.queue.tail ∧ (t.nd n).line.tx ≠ .idle) ∧
      (s.condition n = .cut ∨ s.bitPeriod n = none ∨ (s.nd n).line.queue = [] →
        t.nd n = { s.nd n with line := { (s.nd n).line with tx := .idle } })) ∧
  (∀ (s : State) (n : NodeId) (e : Nat), s.held = false → (s.nd n).line.tx = .gap (some e) →
    ∃ t, exec (.txIdleTimeEnd n) s = .next t ∧ t.clock.cycles = max s.clock.cycles e ∧ s.OnlyNodeAndClock t n ∧
      t = ({ s.setNd n { s.nd n with line := { (s.nd n).line with tx := .idle } } with clock := t.clock } :
        State).takeItem n ∧
      (s.condition n ≠ .cut → s.bitPeriod n ≠ none → (s.nd n).line.queue ≠ [] →
        (t.nd n).line.queue = (s.nd n).line.queue.tail ∧ (t.nd n).line.tx ≠ .idle) ∧
      (s.condition n = .cut ∨ s.bitPeriod n = none ∨ (s.nd n).line.queue = [] →
        t.nd n = { s.nd n with line := { (s.nd n).line with tx := .idle } })) ∧
  (∀ (s : State) (n : NodeId) (e : Nat), s.held = false → (s.nd n).line.tx = .brk e →
    ∃ t, exec (.txBreakEnd n) s = .next t ∧ t.clock.ticks = max s.clock.ticks e ∧ s.OnlyNodeAndClock t n ∧
      t.nd n = { s.nd n with line := { (s.nd n).line with
        tx := .gap ((s.charCycles n 1).map (t.clock.cycles + ·)) } }) ∧
  (∀ (s : State) (n : NodeId), (∀ f, (s.nd n).line.tx ≠ .byte f) → exec (.txCharacterSent n) s = .next s) ∧
  (∀ (s : State) (n : NodeId), (∀ e, (s.nd n).line.tx ≠ .gap (some e)) → exec (.txIdleTimeEnd n) s = .next s) ∧
  (∀ (s : State) (n : NodeId), (∀ e, (s.nd n).line.tx ≠ .brk e) → exec (.txBreakEnd n) s = .next s)

/-- The receiver's outcome (R8 to R10). When every sampled position reads 0 it is a break: BREAK_RX is recorded, match
progress is cleared and the receiver stays in the break. Otherwise a byte of the low W bits is handed on, with the FRAMING
mark when the first stop bit reads 0, after which the receiver waits for CRXn to read 1, and with the PARITY mark when the
parity bit is not the one of R8. A receiver that does not decode produces nothing. RX_BREAK_END makes a receiver that waits
for CRXn to read 1 idle. Handing a byte on (R11): the idle-gap timer restarts at the settings in force (R12); then the
History Buffer stores it, the Watch Unit examines it, the Liveness Monitor receives a console kick, which counts or not as
the mask, bit 1, and its state say (R155, R157), and the check for loss of lock counts it (R17), each on the state the one
before leaves. That the command carries the sampled bits, and that nothing happens elsewhere, is the model's choice
(notes/assumptions/3.md, 12.md). -/
def Obligations.ReceiverJudgesACharacter : Prop :=
  (∀ (s : State) (n : NodeId) (v : Byte) (pb sb : Bool), s.decodes n = false →
    exec (.characterReceived n v pb sb) s = .next s ∧ exec (.breakRx n) s = .next s) ∧
  (∀ (s : State) (n : NodeId), s.decodes n = true ↔
    s.held = false ∧ s.condition n ≠ .cut ∧ s.bitPeriod n ≠ none ∧
      ((s.nd n).line.rx = .idle ∨ (s.nd n).line.rx = .awaitHigh)) ∧
  (∀ (s : State) (n : NodeId) (v : Byte) (pb sb : Bool), s.decodes n = true →
    let x := (s.set n).line
    let ones := (List.range x.wordLen).countP (fun i => v.getLsbD i)
    5 ≤ x.wordLen → x.wordLen ≤ 8 →
    ((ones = 0 ∧ (x.parity = .none ∨ pb = false) ∧ sb = false) →
      ∀ i : Instr, (i = .breakRx n ∨ i = .characterReceived n v pb sb) → ∃ t, exec i s = .next t ∧ s.OnlyNode t n ∧
        t.nd n = { s.nd n with
          line := { (s.nd n).line with rx := .inBreak }
          hist := (s.nd n).hist.record (s.set n).delivery.mask (s.nd n).power.boot .breakRx 0
          watch := (s.nd n).watch.map (fun y => { y with progress := 0 }) }) ∧
    (¬(ones = 0 ∧ (x.parity = .none ∨ pb = false) ∧ sb = false) →
      ∃ b : Byte, (∀ i, b.getLsbD i = (v.getLsbD i && decide (i < x.wordLen))) ∧
        exec (.characterReceived n v pb sb) s =
          .next ((s.mapLine n (fun l => { l with rx := if sb then .idle else .awaitHigh })).handOn n b (!sb)
            (match x.parity with
              | .none => false
              | .odd => decide ((ones + pb.toNat) % 2 = 0)
              | .even => decide ((ones + pb.toNat) % 2 = 1)
              | .mark => !pb
              | .space => pb)))) ∧
  (∀ (s : State) (n : NodeId), s.held = false →
    exec (.rxBreakEnd n) s = .next (s.setNd n { s.nd n with line := { (s.nd n).line with
      rx := if (s.nd n).line.rx = .inBreak ∨ (s.nd n).line.rx = .awaitHigh then .idle else (s.nd n).line.rx } })) ∧
  ∀ (s : State) (n : NodeId) (b : Byte) (framing parity : Bool),
    let g := (s.set n).delivery.gap
    let started := s.setNd n { s.nd n with line := { (s.nd n).line with
      idleGap := if g = 0 then none else (s.charCycles n g).map (s.clock.cycles + ·) } }
    ∃ stored watched kicked, stored = started.storeByte n b framing parity ∧ watched = stored.watchByte n b ∧
      (let l := (watched.nd n).live
       let x := (watched.set n).live
       let restarted := fun d p => watched.setNd n { watched.nd n with live := { l with
         monitor := .watching (watched.clock.ticks + 1000 * x.timeout) d, statePending := p } }
       let counts := x.kicks.getLsbD 1 = true
       (¬counts → kicked = watched) ∧
       (counts → ∀ e d, l.monitor = .watching e d → kicked = restarted d l.statePending) ∧
       (counts → ∀ e, (l.monitor = .grace e ∨ l.monitor = .warned e) →
         kicked = restarted (some (watched.clock.ticks + 1000 * x.stable)) true) ∧
       ((∀ e d, l.monitor ≠ .grace e ∧ l.monitor ≠ .watching e d ∧ l.monitor ≠ .warned e) → kicked = watched)) ∧
      s.handOn n b framing parity = kicked.lossCheck n framing

/-- The idle-gap timer and the delay timer (R12, R39 to R41): at its cycle the idle-gap timer stops, the line-idle flag is
set and a COLLECTING pacer becomes DUE; at its tick the delay timer makes the pacer DUE. Nothing else changes, and nothing
happens where the timer does not run. The clock of an end, and that nothing happens where none is due, are the model's
choice (notes/assumptions/2.md, 3.md). -/
def Obligations.PacerTimersExpire : Prop :=
  (∀ (s : State) (n : NodeId) (e : Nat), s.held = false → (s.nd n).line.idleGap = some e →
    ∃ t, exec (.idleGapSignal n) s = .next t ∧ t.clock.cycles = max s.clock.cycles e ∧ s.OnlyNodeAndClock t n ∧
      ∃ p, t.nd n = { s.nd n with
        line := { (s.nd n).line with idleGap := none }
        hist := { (s.nd n).hist with lineIdle := true, pacer := p } } ∧
      ((∃ d, (s.nd n).hist.pacer = .collecting d) → p = .due) ∧
      ((∀ d, (s.nd n).hist.pacer ≠ .collecting d) → p = (s.nd n).hist.pacer)) ∧
  (∀ (s : State) (n : NodeId) (e : Nat), s.held = false → (s.nd n).hist.pacer = .collecting (some e) →
    ∃ t, exec (.pacerDelayExpiry n) s = .next t ∧ t.clock.ticks = max s.clock.ticks e ∧ s.OnlyNodeAndClock t n ∧
      t.nd n = { s.nd n with hist := { (s.nd n).hist with pacer := .due } }) ∧
  (∀ (s : State) (n : NodeId), (s.nd n).line.idleGap = none → exec (.idleGapSignal n) s = .next s) ∧
  (∀ (s : State) (n : NodeId), (∀ e, (s.nd n).hist.pacer ≠ .collecting (some e)) →
    exec (.pacerDelayExpiry n) s = .next s)

/-- The judgement of a completed window: of the candidates with S ≤ Fref × 1000 / 16 the one with |Fref × 1000 - S × Tmin|
smallest, the lower on a tie, and it is accepted exactly when that difference × 25 ≤ S × Tmin. As a window completes with
its last run, Fref is the one in force and Tmin the shortest run; on acceptance the line locks at S; on rejection the window
is discarded, nothing is recorded, and the line goes on HUNTING (R15). -/
def Obligations.AutobaudPicksTheNearestRate : Prop :=
  ∀ (fref tmin : Nat),
    let far : Nat → Int := fun r => |(fref : Int) * 1000 - r * tmin|
    let near : Nat → Prop := fun r => r ∈ candidateRates ∧ 16 * r ≤ fref * 1000 ∧
      ∀ q ∈ candidateRates, 16 * q ≤ fref * 1000 → far r < far q ∨ (far r = far q ∧ r ≤ q)
    (∀ r, judgeWindow fref tmin = some r ↔ near r ∧ far r * 25 ≤ r * tmin) ∧
    candidateRates = [1200, 2400, 4800, 9600, 19200, 38400, 57600, 115200, 230400, 460800, 921600, 1500000, 3000000] ∧
    ∀ (s : State) (n : NodeId) (w : Window) (run : Nat), s.cfg.fref = fref → tmin = min w.shortest run →
      (judgeWindow fref tmin = none → s.completeWindow n w run =
        s.setNd n { s.nd n with line := { (s.nd n).line with autobaud := .hunting none } }) ∧
      ∀ r, judgeWindow fref tmin = some r → s.completeWindow n w run = s.lockLine n r ∧
        ((s.lockLine n r).nd n).line.autobaud = .locked r (some { bytes := 0, framing := 0 })

/-- A HUNTING line outside CUT measures (R13, R14): its first accepted falling edge opens a window, every later accepted
edge ends a run, and the shortest run is kept. The 32nd run completes the window: it locks the line at the accepted rate,
with AUTOBAUD_LOCK and its detail, the loss-of-lock check at zero and the receiver waiting; an idle character time that
waited for the d starts, and an idle transmitter takes the head of the queue, with all that taking an item does (R21, R23);
or the window is discarded, and the line goes on HUNTING (R15, R16). The wait after a lock runs while CRXn reads 1, for one
character time from the rise; a falling edge stops it until the next rise; its end makes the receiver idle (R16). Of the
bytes since the lock the check counts all and the FRAMING ones: the fourth FRAMING byte among the first sixteen records
AUTOBAUD_LOST and returns the line to HUNTING; the sixteenth byte otherwise ends the check (R17). That the run is an
operand of its edge, how the edges of the wait come, the clock at its end, and that nothing happens where there is no such
end are the model's choice (notes/assumptions/2.md, 3.md, 14.md, 36.md). -/
def Obligations.HuntingLineLocksAndMayLose : Prop :=
  (∀ (s : State) (n : NodeId) (w : Option Window), s.held = false → s.condition n ≠ .cut →
    (s.nd n).line.autobaud = .hunting w →
    (∀ run, w = none → exec (.autobaudAcceptedEdge n true run) s = .next (s.setNd n { s.nd n with line :=
      { (s.nd n).line with autobaud := .hunting (some { runs := 0, shortest := 0 }) } })) ∧
    (∀ run, w = none → exec (.autobaudAcceptedEdge n false run) s = .next s) ∧
    (∀ run falling v, w = some v → v.runs < 31 →
      exec (.autobaudAcceptedEdge n falling run) s = .next (s.setNd n { s.nd n with line :=
        { (s.nd n).line with autobaud := .hunting (some
          { runs := v.runs + 1, shortest := if v.runs = 0 then run else min v.shortest run }) } })) ∧
    (∀ run falling v, w = some v → v.runs = 31 → ∀ i : Instr,
      (i = .autobaudWindowComplete n run ∨ i = .autobaudAcceptedEdge n falling run) →
      (judgeWindow s.cfg.fref (min v.shortest run) = none →
        exec i s = .next (s.setNd n { s.nd n with line := { (s.nd n).line with autobaud := .hunting none } })) ∧
      (∀ r, judgeWindow s.cfg.fref (min v.shortest run) = some r →
        let l := (s.nd n).line
        let u := s.setNd n { s.nd n with
          line := { l with
            autobaud := .locked r (some { bytes := 0, framing := 0 })
            rx := .lockWait none
            tx := if l.tx = .gap none
              then .gap (some (s.clock.cycles + characterCycles 1 (s.set n).line.halfBits (divisor s.cfg.fref r)))
              else l.tx }
          hist := (s.nd n).hist.record (s.set n).delivery.mask (s.nd n).power.boot .autobaudLock
            (BitVec.ofNat 16 (min 65535 (r / 100))) }
        exec i s = .next (u.takeItem n) ∧ s.OnlyNode (u.takeItem n) n ∧
          (s.cfg.fref ≤ 50000 → u.bitPeriod n = some (nearestQuotient s.cfg.fref r)) ∧
          (l.tx ≠ .idle ∨ l.queue = [] → u.takeItem n = u) ∧
          (l.tx = .idle → l.queue ≠ [] → ((u.takeItem n).nd n).line.queue = l.queue.tail ∧
            ((u.takeItem n).nd n).line.tx ≠ .idle)))) ∧
  (∀ (s : State) (n : NodeId) (run : Nat) (falling : Bool), s.held = false →
    (∀ w, (s.nd n).line.autobaud ≠ .hunting w) →
    let moved := fun e => Host.Outcome.next (φ := Fault) (ρ := Refusal) (s.setNd n { s.nd n with line :=
      { (s.nd n).line with rx := .lockWait e } })
    ((∀ e, (s.nd n).line.rx ≠ .lockWait e) → exec (.autobaudAcceptedEdge n falling run) s = .next s) ∧
    ((s.nd n).line.rx = .lockWait none → exec (.autobaudAcceptedEdge n falling run) s =
      if falling then .next s else moved ((s.charCycles n 1).map (s.clock.cycles + ·))) ∧
    (∀ e, (s.nd n).line.rx = .lockWait (some e) → exec (.autobaudAcceptedEdge n falling run) s =
      if falling then moved none else .next s)) ∧
  (∀ (s : State) (n : NodeId) (e : Nat), s.held = false → (s.nd n).line.rx = .lockWait (some e) →
    ∃ t, exec (.lockIdleWaitEnd n) s = .next t ∧ t.clock.cycles = max s.clock.cycles e ∧ s.OnlyNodeAndClock t n ∧
      t.nd n = { s.nd n with line := { (s.nd n).line with rx := .idle } }) ∧
  (∀ (s : State) (n : NodeId), (∀ e, (s.nd n).line.rx ≠ .lockWait (some e)) →
    exec (.lockIdleWaitEnd n) s = .next s) ∧
  (∀ (s : State) (n : NodeId) (framing : Bool), (∀ r c, (s.nd n).line.autobaud ≠ .locked r (some c)) →
    s.lossCheck n framing = s) ∧
  (∀ (s : State) (n : NodeId) (r : Nat) (c : LockCheck) (framing : Bool),
      (s.nd n).line.autobaud = .locked r (some c) → c.bytes < 16 → c.framing < 4 →
      (framing = true → c.framing = 3 → s.lossCheck n framing = s.setNd n { s.nd n with
        line := { (s.nd n).line with autobaud := .hunting none, rx := .idle }
        hist := (s.nd n).hist.record (s.set n).delivery.mask (s.nd n).power.boot .autobaudLost 0 }) ∧
      (framing = false ∨ c.framing < 3 → s.lossCheck n framing = s.setNd n { s.nd n with line := { (s.nd n).line with
        autobaud := .locked r (if c.bytes = 15 then none
          else some { bytes := c.bytes + 1, framing := c.framing + framing.toNat }) } }))

/-! ### Console history and delivery -/

/-- Every step keeps the table of R39: the pacer's state agrees with follow, with what is pending and with the timer. -/
def Obligations.StepKeepsPacerLaw : Prop :=
  ∀ (s t : State), s.HistoryLaw → s.PacerLaw → step s = .next t → t.PacerLaw

/-- A received byte, which is every character but a break (R9, R10), is stored at next_offset, in the ring page R26 names,
and nothing else of the buffer memory changes; next_offset advances by one and the line-idle flag is clear (R26 to R28). A
ring with room keeps its pages; a full one below its max takes the lowest free page, or the least recently used VALID
entry's, and one at its max, or refused, moves its oldest page to the tail and its oldest_offset on by 512. No other node
changes. -/
def Obligations.ReceivedByteIsStored : Prop :=
  ∀ (s : State) (n : NodeId) (v : Byte) (pb sb : Bool), s.HistoryLaw → s.decodes n = true →
    ¬(lowBits (s.set n).line.wordLen v = 0 ∧ ((s.set n).line.parity = .none ∨ pb = false) ∧ sb = false) →
    let h := (s.nd n).hist
    ∃ t a, exec (.characterReceived n v pb sb) s = .next t ∧
      (∀ m, m ≠ n → t.nd m = s.nd m) ∧ t.cfg = s.cfg ∧ t.clock = s.clock ∧ t.link = s.link ∧ t.store = s.store ∧
      t.pauses = s.pauses ∧ t.pending = s.pending ∧
      (t.nd n).hist.next = h.next + 1 ∧ (t.nd n).hist.lineIdle = false ∧
      (∃ p, (t.nd n).hist.ring[(h.next - (t.nd n).hist.oldest) / 512]? = some p ∧ a = 512 * p + h.next % 512) ∧
      t.mem.read a = lowBits (s.set n).line.wordLen v ∧ (∀ x, x ≠ a → t.mem.read x = s.mem.read x) ∧
      (h.next < h.oldest + 512 * h.ring.length →
        (t.nd n).hist.ring = h.ring ∧ (t.nd n).hist.oldest = h.oldest) ∧
      (h.next = h.oldest + 512 * h.ring.length → h.ring.length < (s.set n).quota.max →
        ∀ p, (s.free ++ s.lru).head? = some p →
          (t.nd n).hist.ring = h.ring ++ [p] ∧ (t.nd n).hist.oldest = h.oldest) ∧
      (h.next = h.oldest + 512 * h.ring.length → (h.ring.length < (s.set n).quota.max → s.free ++ s.lru = []) →
        (t.nd n).hist.ring = h.ring.tail ++ h.ring.take 1 ∧ (t.nd n).hist.oldest = h.oldest + 512)

/-- What recycling and a new entry do (R28, R31, R33, R34, R43, R45): the mark in the oldest page is lost with MARK_LOST at
next_offset, then oldest_offset advances by 512, entries below it leave the index, and a delivery that is passed jumps there,
with the bytes counted and the pacer DUE while follow is on. A new entry takes the place of the oldest when the index holds
64; it joins the unsent list, and CON_EVENT becomes pending, when its kind is in the mask; an unsent entry that leaves counts
as lost. An error joins the entry of its kind in the error run that ends the index. -/
def Obligations.HistoryGivesUpItsOldestPage : Prop :=
  (∀ (h : History) (mask boot : Half) (follow : Bool), h.Lawful → h.ring ≠ [] →
    h.oldest + 512 * h.ring.length = h.next →
    let r := h.recycle mask boot follow
    r.ring = h.ring.tail ++ h.ring.take 1 ∧ r.oldest = h.oldest + 512 ∧ r.next = h.next ∧
    (∀ m, h.mark = some m → m < h.oldest + 512 → r.mark = none ∧
      r.index.getLast? = some ⟨h.next, .markLost, 0, boot, EventKind.inMask .markLost mask⟩) ∧
    ((∀ m, h.mark = some m → h.oldest + 512 ≤ m) → r.mark = h.mark ∧
      r.index = h.index.filter (fun e => h.oldest + 512 ≤ e.offset) ∧
      r.lost = min 255 (h.lost + h.index.countP (fun e => e.unsent && decide (e.offset < h.oldest + 512)))) ∧
    r.deliver = max h.deliver (h.oldest + 512) ∧
    (h.deliver < h.oldest + 512 → follow = true → r.pacer = .due ∧
      r.gapCount = min 4294967295 (h.gapCount + (h.oldest + 512 - h.deliver))) ∧
    (h.oldest + 512 ≤ h.deliver ∨ follow = false → r.pacer = h.pacer ∧ r.gapCount = h.gapCount)) ∧
  (∀ (h : History) (mask boot detail : Half) (k : EventKind),
    let e : Event := ⟨h.next, k, detail, boot, k.inMask mask⟩
    let r := h.record mask boot k detail
    r = { h with index := r.index, lost := r.lost, eventPending := h.eventPending || k.inMask mask } ∧
    (h.index.length < 64 → r.index = h.index ++ [e] ∧ r.lost = h.lost) ∧
    (∀ o rest, h.index = o :: rest → 64 ≤ h.index.length → r.index = rest ++ [e] ∧
      r.lost = if o.unsent then min 255 (h.lost + 1) else h.lost)) ∧
  (∀ (h : History) (mask boot : Half) (k : EventKind) (before run : List Event) (e : Event),
    (k = .framing ∨ k = .parity) → h.index = before ++ e :: run → e.kind = k →
    (∀ x ∈ run, x.kind ≠ k ∧ (x.kind = .framing ∨ x.kind = .parity)) →
    h.recordError mask boot k = { h with index := before ++
      { e with detail := if e.detail = 0xFFFF then 0xFFFF else e.detail + 1 } :: run }) ∧
  (∀ (h : History) (mask boot : Half) (k : EventKind) (before run : List Event),
    (k = .framing ∨ k = .parity) → h.index = before ++ run →
    (∀ x ∈ run, x.kind ≠ k ∧ (x.kind = .framing ∨ x.kind = .parity)) →
    (∀ x, before.getLast? = some x → x.kind ≠ .framing ∧ x.kind ≠ .parity) →
    h.recordError mask boot k = h.record mask boot k 1)

/-- CON_READ returns the bytes of the ring from the effective offset, at most the length asked for and none at or beyond
next_offset; an offset below oldest_offset is raised and reported CLIPPED and ADJUSTED; a length of 0 or above 512 is
refused. CON_EVENTS returns up to 16 of the entries at or beyond the offset, in index order, after passing over the first
of those exactly at it; a skip count above 63 is refused. Neither changes anything but the link (R26, R35, R36). A refused
reply carries the bounds, or the size of the index, and 0 elsewhere (R195): which fields report state is the model's reading
(notes/assumptions/23.md). -/
def Obligations.HistoryReadsChangeNothing : Prop :=
  (∀ (s : State) (tag : Byte) (n : NodeId) (p : List Byte), s.HistoryLaw → s.takes (nodeFrame 0x13 tag n p) = true →
    p.length = 8 →
    let h := (s.nd n).hist
    let off := leNat (p.take 6)
    let len := leNat (p.drop 6)
    let start := max off h.oldest
    let k := min len (h.next - start)
    let bounds := leBytes 6 h.oldest ++ leBytes 6 h.next ++ leBytes 6 (h.mark.getD 0xFFFFFFFFFFFF)
    ∃ t, exec (.conRead tag n.toByte p) s = .next t ∧ s.OnlyLink t ∧
      ((len = 0 ∨ 512 < len) → s.Replied t (nodeFrame 0x13 tag n p)
        { result := .badParam, fields := 0 :: leBytes 6 0 ++ leBytes 2 0 ++ bounds }) ∧
      (1 ≤ len → len ≤ 512 → ∃ bytes, bytes.length = k ∧
        (∀ i, i < k → ∀ a, h.ring[(start + i - h.oldest) / 512]? = some a →
          bytes[i]? = some (s.mem.read (512 * a + (start + i) % 512))) ∧
        s.Replied t (nodeFrame 0x13 tag n p)
          { result := if off < h.oldest then .adjusted else .ok
            fields := flagByte (decide (off < h.oldest)) :: leBytes 6 start ++ leBytes 2 k ++ bounds ++ bytes })) ∧
  (∀ (s : State) (tag : Byte) (n : NodeId) (p : List Byte), s.HistoryLaw → s.takes (nodeFrame 0x15 tag n p) = true →
    p.length = 7 →
    let x := (s.nd n).hist.index
    let off := leNat (p.take 6)
    let skip := (byteAt p 6).toNat
    let es := (x.filter (fun e => e.offset = off)).drop skip ++ x.filter (fun e => off < e.offset)
    ∃ t, exec (.conEvents tag n.toByte p) s = .next t ∧ s.OnlyLink t ∧
      (63 < skip → s.Replied t (nodeFrame 0x15 tag n p)
        { result := .badParam, fields := [0, BitVec.ofNat 8 x.length, 0] }) ∧
      (skip ≤ 63 → s.Replied t (nodeFrame 0x15 tag n p)
        { result := .ok
          fields := [flagByte (decide (16 < es.length)), BitVec.ofNat 8 x.length, BitVec.ofNat 8 (min 16 es.length)]
            ++ (es.take 16).flatMap Event.layout }))

/-- CON_MARK sets the mark at the offset clamped into oldest_offset to next_offset, with ADJUSTED when that moved it, and
records MARK_SET; the offset FFFFFFFFFFFFh clears it and records nothing. The reply carries the mark after it. A watch MARK
action replaces the mark likewise, with next_offset minus the pattern's length clamped in the same way, and records MARK_SET
after its WATCH_HIT (R30). -/
def Obligations.ConMarkSetsTheMark : Prop :=
  (∀ (s : State) (n : NodeId) (i : Nat) (p : Pattern), s.HistoryLaw → s.pattern n i = some p →
    i < (s.nd n).watch.length → p.action = .mark → ¬(p.once = true ∧ (s.place n i).hit = true) →
    let h := (s.nd n).hist
    let record := History.record (s.set n).delivery.mask (s.nd n).power.boot
    ((s.takeHit n i).nd n).hist = record .markSet 0 { record .watchHit (BitVec.ofNat 16 i) h with
      mark := some (min h.next (max h.oldest (h.next - p.bytes.length))) }) ∧
  ∀ (s : State) (tag : Byte) (n : NodeId) (p : List Byte), s.HistoryLaw → s.takes (nodeFrame 0x14 tag n p) = true →
    p.length = 6 →
    let h := (s.nd n).hist
    let o := leNat p
    let m := min h.next (max h.oldest o)
    ∃ t, exec (.conMark tag n.toByte p) s = .next t ∧ s.OnlyNodeAndLink t n ∧
      (o = 0xFFFFFFFFFFFF → t.nd n = { s.nd n with hist := { h with mark := none } } ∧
        s.Replied t (nodeFrame 0x14 tag n p)
          { result := .ok, fields := leBytes 6 0xFFFFFFFFFFFF ++ leBytes 6 h.oldest ++ leBytes 6 h.next }) ∧
      (o ≠ 0xFFFFFFFFFFFF →
        t.nd n = { s.nd n with
          hist := History.record (s.set n).delivery.mask (s.nd n).power.boot .markSet 0 { h with mark := some m } } ∧
        s.Replied t (nodeFrame 0x14 tag n p)
          { result := if m = o then .ok else .adjusted
            fields := leBytes 6 m ++ leBytes 6 h.oldest ++ leBytes 6 h.next })

/-- CON_DELIVERY_SET: N is clamped into 1 to 512, T to at most 1,000, and undefined mask bits are cleared; unlisted follow
and start codes are refused and change nothing. The five settings are replaced; a changed G restarts the idle-gap timer
and clears the line-idle flag; entries whose kind left the mask leave the unsent list and are not counted lost. With
follow on, deliver_offset is placed by the start choice, the gap count cleared but by CONTINUE with follow already on, and
the pacer set anew from what is pending; with follow off the pacer is IDLE and the gap count 0 (R37, R38, R44). Which
fields of a refused reply report state and which an outcome (R195) is the model's reading (notes/assumptions/23.md). So are
that a stopped idle-gap timer starts (notes/assumptions/15.md) and at which tick the delay ends (notes/assumptions/28.md). -/
def Obligations.ConDeliverySetPacesAnew : Prop :=
  ∀ (s : State) (tag : Byte) (n : NodeId) (p : List Byte), s.HistoryLaw → s.takes (nodeFrame 0x16 tag n p) = true →
    p.length = 15 →
    let h := (s.nd n).hist
    let old := (s.set n).delivery
    let d : DeliverySettings :=
      { follow := byteAt p 0 == 1
        count := min 512 (max 1 (fieldAt p 1 2))
        delay := min 1000 (fieldAt p 3 2)
        gap := fieldAt p 5 1
        mask := BitVec.ofNat 16 (fieldAt p 6 2) &&& 0x7FFF }
    let o := fieldAt p 9 6
    let clamped := min h.next (max h.oldest o)
    let keeps := byteAt p 8 = 1 ∧ old.follow = true
    let place := if keeps then h.deliver else if byteAt p 8 = 2 then clamped else h.next
    ∃ t, exec (.conDeliverySet tag n.toByte p) s = .next t ∧
      ((1 < byteAt p 0 ∨ 2 < byteAt p 8) → s.OnlyLink t ∧ s.Replied t (nodeFrame 0x16 tag n p)
        { result := .badParam
          fields := List.replicate 8 0 ++ leBytes 6 h.deliver ++ leBytes 6 h.next ++ [h.pacer.code] }) ∧
      (byteAt p 0 ≤ 1 → byteAt p 8 ≤ 2 →
        s.OnlyNodeSetAndLink t n ∧ t.set n = { s.set n with delivery := d } ∧
        t.nd n = { s.nd n with
          line := { (s.nd n).line with idleGap :=
            if d.gap = old.gap then (s.nd n).line.idleGap
            else if d.gap = 0 then none
            else (s.charCycles n d.gap).map (s.clock.cycles + ·) }
          hist := { h with
            index := h.index.map (fun e => { e with unsent := e.unsent && EventKind.inMask e.kind d.mask })
            lineIdle := h.lineIdle && decide (d.gap = old.gap)
            deliver := if d.follow then place else h.deliver
            gapCount := if d.follow = true ∧ keeps then h.gapCount else 0
            pacer := (t.nd n).hist.pacer } } ∧
        (d.follow = false → (t.nd n).hist.pacer = .idle) ∧
        (d.follow = true → (t.nd n).hist.pacer =
          if h.next = place then .idle
          else if place + d.count ≤ h.next ∨ (t.nd n).hist.lineIdle = true then .due
          else .collecting (if d.delay = 0 then none else some (s.clock.ticks + d.delay))) ∧
        s.Replied t (nodeFrame 0x16 tag n p)
          { result := if d.count ≠ fieldAt p 1 2 ∨ d.delay ≠ fieldAt p 3 2 ∨ d.mask.toNat ≠ fieldAt p 6 2 ∨
              (d.follow = true ∧ byteAt p 8 = 2 ∧ clamped ≠ o) then .adjusted else .ok
            fields := flagByte d.follow :: leBytes 2 d.count ++ leBytes 2 d.delay ++ leBytes 1 d.gap
              ++ leBytes 2 d.mask.toNat ++ leBytes 6 (t.nd n).hist.deliver ++ leBytes 6 h.next
              ++ [(t.nd n).hist.pacer.code] })

/-! ### Console watch -/

/-- CON_WATCH_SET with an index of 0 to 7 replaces the record of that place, or empties it, and touches no other; its
progress becomes 0 and its hit-since-boot flag is cleared. A record with no byte or more than 32, an unlisted action, an
unlisted power kind of a POWER action, and an index above 7 are refused and change nothing. The reply gives the index and the
number of places that hold a pattern (R48, R49). That a refused reply gives back the index it carried is the model's reading
(notes/assumptions/23.md). -/
def Obligations.ConWatchSetReplacesOnePlace : Prop :=
  ∀ (s : State) (tag : Byte) (n : NodeId) (i choice opts action power count : Byte) (bytes : List Byte),
    (choice = 0 ∨ choice = 1) →
    let p := if choice = 0 then [i, choice] else i :: choice :: opts :: action :: power :: count :: bytes
    s.takes (nodeFrame 0x17 tag n p) = true → (choice = 1 → bytes.length = count.toNat) →
    let kinds : List (Byte × WatchPower) := [(2, .offSoft), (5, .cycle), (6, .reset), (7, .diag)]
    let act := if action = 0 then some WatchAction.notice else if action = 1 then some .mark
      else if action = 2 then some .kick else if action = 3 then (kinds.lookup power).map .power
      else if action = 4 then some .detach else none
    let good := i ≤ 7 ∧ (choice = 1 → 1 ≤ bytes.length ∧ bytes.length ≤ 32 ∧ act ≠ none)
    let record := if choice = 0 then none
      else act.map (fun a => { bytes := bytes, fold := opts.getLsbD 0, once := opts.getLsbD 1, action := a : Pattern })
    ∃ t, exec (.conWatchSet tag n.toByte p) s = .next t ∧
      (¬good → s.OnlyLink t ∧ s.Replied t (nodeFrame 0x17 tag n p)
        { result := .badParam, fields := [i, BitVec.ofNat 8 ((s.set n).watch.countP Option.isSome)] }) ∧
      (good → s.OnlyNodeSetAndLink t n ∧
        t.set n = { s.set n with watch := (s.set n).watch.set i.toNat record } ∧
        t.nd n = { s.nd n with watch := (s.nd n).watch.modify i.toNat (fun _ => { progress := 0, hit := false }) } ∧
        s.Replied t (nodeFrame 0x17 tag n p)
          { result := .ok, fields := [i, BitVec.ofNat 8 ((t.set n).watch.countP Option.isSome)] })

/-- The match progress after a text is the length of the longest prefix of the pattern, shorter than the whole, that matches
the same number of last bytes of the text; and the pattern hits on a byte exactly when its whole length matches the last
bytes of the text with that byte, so that overlapping occurrences all hit (R50, R51). -/
def Obligations.WatchMatchIsExact : Prop :=
  ∀ (p : Pattern) (text : List Byte) (b : Byte), p.bytes ≠ [] →
    p.after text < p.bytes.length ∧ p.Spells (p.after text) text ∧
    (∀ k, k < p.bytes.length → p.Spells k text → k ≤ p.after text) ∧
    ((p.examine b (p.after text)).2 = true ↔ p.Spells p.bytes.length (text ++ [b]))

/-- A byte brings every progress up to date, and the places that hit are then taken in order, lowest first (R52). A hit is
recorded as WATCH_HIT with its place; a once-per-boot pattern whose flag is set does nothing more; otherwise the flag is set
for a once-per-boot pattern and its action runs: NOTICE nothing, MARK the mark at next_offset minus the pattern's length,
KICK a watch kick, DETACH a drain, POWER a submission while the node is ON, the controller not LOCKED and its queued place
free, and the power-dropped flag in the entry otherwise (R54 to R58). -/
def Obligations.WatchTakesItsHits : Prop :=
  (∀ (s : State) (n : NodeId) (b : Byte), (s.set n).watch.length = 8 → (s.nd n).watch.length = 8 →
    ∃ hits : List Nat, hits.Pairwise (· < ·) ∧
      (∀ i, i ∈ hits ↔ ∃ p, s.pattern n i = some p ∧ i < 8 ∧ (p.examine b (s.place n i).progress).2 = true) ∧
      ∃ u, s.OnlyNode u n ∧ u.nd n = { s.nd n with watch := (u.nd n).watch } ∧ (u.nd n).watch.length = 8 ∧
        (∀ i, (s.pattern n i = none → u.place n i = s.place n i) ∧
          ∀ p, i < 8 → s.pattern n i = some p →
            u.place n i = { s.place n i with progress := (p.examine b (s.place n i).progress).1 }) ∧
        s.watchByte n b = hits.foldl (fun t i => t.takeHit n i) u) ∧
  (∀ (s : State) (n : NodeId) (i : Nat) (p : Pattern), s.pattern n i = some p → i < (s.nd n).watch.length → i < 8 →
    let r := s.record n .watchHit (BitVec.ofNat 16 i)
    let u := if p.once then r.setNd n { r.nd n with
      watch := (r.nd n).watch.modify i (fun x => { x with hit := true }) } else r
    let h := (u.nd n).hist
    (p.once = true ∧ (s.place n i).hit = true → s.takeHit n i = r) ∧
    (¬(p.once = true ∧ (s.place n i).hit = true) →
      (p.action = .notice → s.takeHit n i = u) ∧
      (p.action = .mark →
        let marked := { h with mark := some (h.clampOffset (h.next - p.bytes.length)) }
        s.takeHit n i = u.setNd n { u.nd n with
          hist := History.record (s.set n).delivery.mask (s.nd n).power.boot .markSet 0 marked }) ∧
      (p.action = .kick → s.takeHit n i = u.kick n .watch) ∧
      (p.action = .detach → s.takeHit n i = u.drain n) ∧
      ∀ k, p.action = .power k →
        ((s.condition n = .on ∧ ((s.nd n).power.ctrl = .idle ∨ ∃ a ab, (s.nd n).power.ctrl = .acting a none ab)) →
          s.takeHit n i = u.submit n k.action .watch) ∧
        (¬(s.condition n = .on ∧ ((s.nd n).power.ctrl = .idle ∨ ∃ a ab, (s.nd n).power.ctrl = .acting a none ab)) →
          ∃ before e, h.index = before ++ [e] ∧ s.takeHit n i = u.setNd n { u.nd n with hist :=
            { h with index := before ++ [{ e with detail := BitVec.ofNat 16 i ||| 0x8000 }] } })))

/-! ### Media presentation and cache -/

/-- MED_ATTACH: a capacity of 0 and unlisted policy and presentation codes are refused BAD_PARAM, and a slot that holds a
medium BAD_STATE; otherwise the slot becomes READY with the given fields, medium-changed set, both tables empty, no
continuation point, and for ONCE the node's boot number; MED_STATE becomes pending (R76, R77). That the slot block of a
refused reply reports the slot (R195) is the model's reading (notes/assumptions/23.md). -/
def Obligations.MedAttachFillsAnAbsentSlot : Prop :=
  ∀ (s : State) (tag : Byte) (n : NodeId) (p : List Byte), s.takes (nodeFrame 0x20 tag n p) = true → p.length = 11 →
    let bad := fieldAt p 4 4 = 0 ∨ 2 < byteAt p 8 ∨ 1 < byteAt p 9
    ∃ t, exec (.medAttach tag n.toByte p) s = .next t ∧
      (bad → s.OnlyLink t ∧ s.Replied t (nodeFrame 0x20 tag n p)
        { result := .badParam, fields := slotBlock (s.slot n) }) ∧
      (¬bad → s.slot n ≠ none → s.OnlyLink t ∧ s.Replied t (nodeFrame 0x20 tag n p)
        { result := .badState, fields := slotBlock (s.slot n) }) ∧
      (¬bad → s.slot n = none → s.OnlyNodeAndLink t n ∧
        t.nd n = { s.nd n with media := { (s.nd n).media with
          slot := some
            { state := .ready
              imageId := fieldAt p 0 4
              capacity := fieldAt p 4 4
              policy := if byteAt p 8 = 0 then .readOnly else if byteAt p 8 = 1 then .acked else .cached
              present := if byteAt p 9 = 0 then .persist else .once (s.nd n).power.boot
              removable := (byteAt p 10).getLsbD 0
              changed := true
              protect := []
              zero := [] }
          continuation := none
          statePending := true } } ∧
        s.Replied t (nodeFrame 0x20 tag n p) { result := .ok, fields := slotBlock (t.slot n) })

/-- MED_DETACH with DRAIN withdraws a READY or FAULTED slot: a current command ends NOT_READY, the FILLING entries are
freed, a FAULTED slot's FLUSHING entries go back to DIRTY at the head of the write-out queue, and the slot is WITHDRAWING,
or ABSENT with every entry freed where nothing is left to be stored. A WITHDRAWING slot is left alone. DISCARD frees every
entry and makes the slot ABSENT at once, from any state but ABSENT. An unlisted mode is refused, and its reply counts the
entries that remain to be stored. Every page freed joins the free list (R67, R79, R81 to
R83, R86). Which fields of a refused reply report state and which an outcome (R195) is the model's reading
(notes/assumptions/23.md). -/
def Obligations.MedDetachWithdrawsTheMedium : Prop :=
  ∀ (s : State) (tag mode : Byte) (n : NodeId), s.PageLaw → s.CacheLaw → s.takes (nodeFrame 0x21 tag n [mode]) = true →
    let c := (s.nd n).cache
    let mine := s.entries.filter (fun e => e.node == n)
    ∃ t, exec (.medDetach tag n.toByte [mode]) s = .next t ∧ s.OnlyMedia t n ∧ t.mem = s.mem ∧ t.clock = s.clock ∧
      (1 < mode → s.OnlyLink t ∧ s.Replied t (nodeFrame 0x21 tag n [mode])
        { result := .badParam, fields := slotCode (s.slot n) :: leBytes 2 (s.unstoredCount n) }) ∧
      (mode ≤ 1 → s.slot n = none → s.OnlyLink t ∧ s.Replied t (nodeFrame 0x21 tag n [mode])
        { result := .badState, fields := 0 :: leBytes 2 0 }) ∧
      (∀ m, mode = 0 → s.slot n = some m → m.state = .withdrawing → s.OnlyLink t ∧
        s.Replied t (nodeFrame 0x21 tag n [mode]) { result := .ok, fields := 3 :: leBytes 2 (s.unstoredCount n) }) ∧
      (∀ m, s.slot n = some m → (mode = 0 ∧ m.state ≠ .withdrawing) ∨ mode = 1 →
        (t.nd n).media.current = none ∧ (t.nd n).media.received =
          (if (s.nd n).media.current.isSome then none else (s.nd n).media.received) ∧
        (t.nd n).media.last = (if (s.nd n).media.current.isSome then .notReady else (s.nd n).media.last) ∧
        (t.nd n).media.statePending = true ∧ (t.nd n).cache.seq = c.seq ∧
        t.entries.filter (fun e => e.node != n) = s.entries.filter (fun e => e.node != n)) ∧
      (∀ m, mode = 0 → s.slot n = some m → m.state ≠ .withdrawing → s.unstoredCount n ≠ 0 →
        t.slot n = some { m with state := .withdrawing } ∧ (t.nd n).media.continuation = (s.nd n).media.continuation ∧
        t.entries.filter (fun e => e.node == n) = (mine.filter (fun e => !e.state.isFilling)).map (fun e =>
          if m.state = .faulted ∧ e.state.isFlushing then { e with state := .dirty } else e) ∧
        t.free.Perm (s.free ++ (mine.filter (fun e => e.state.isFilling)).map Entry.page) ∧ t.lru = s.lru ∧
        (t.nd n).cache.fetches = [] ∧
        (t.nd n).cache.queue = (if m.state = .faulted then c.outstanding ++ c.queue else c.queue) ∧
        (t.nd n).cache.outstanding = (if m.state = .faulted then [] else c.outstanding) ∧
        s.Replied t (nodeFrame 0x21 tag n [mode]) { result := .ok, fields := 3 :: leBytes 2 (s.unstoredCount n) }) ∧
      (∀ m, s.slot n = some m → (mode = 0 ∧ m.state ≠ .withdrawing ∧ s.unstoredCount n = 0) ∨ mode = 1 →
        t.slot n = none ∧ (t.nd n).media.continuation = none ∧ (∀ e ∈ t.entries, e.node ≠ n) ∧
        t.free.Perm (s.free ++ mine.map Entry.page) ∧
        t.lru = s.lru.filter (fun p => !(mine.map Entry.page).contains p) ∧
        (t.nd n).cache = { c with fetches := [], queue := [], outstanding := [] } ∧
        s.Replied t (nodeFrame 0x21 tag n [mode]) { result := .ok, fields := 0 :: leBytes 2 (s.unstoredCount n) })

/-- MED_FILL for the FILLING entry of that tag, node and lba writes its 512 bytes into that page and nowhere else; the entry
becomes VALID and the most recently used, leaves the pending fetch list, and a READ block that waits on it becomes ready. A
tag above 1023 is refused BAD_PARAM, and every other fill is STALE and changes nothing (R93, R102, R103, R105, R106). -/
def Obligations.MedFillCompletesItsEntry : Prop :=
  ∀ (s : State) (tag : Byte) (n : NodeId) (p : List Byte), s.CacheLaw → s.takes (nodeFrame 0x22 tag n p) = true →
    p.length = 518 →
    let page := leNat (p.take 2)
    let lba := leNat ((p.drop 2).take 4)
    ∃ t, exec (.medFill tag n.toByte p) s = .next t ∧
      (1023 < page → s.OnlyLink t ∧ s.Replied t (nodeFrame 0x22 tag n p) { result := .badParam, fields := [] }) ∧
      (page ≤ 1023 → (∀ e ∈ s.entries, ¬(e.page = page ∧ e.node = n ∧ e.lba = lba ∧ e.state.isFilling = true)) →
        s.OnlyLink t ∧ s.Replied t (nodeFrame 0x22 tag n p) { result := .stale, fields := [] }) ∧
      (∀ e ∈ s.entries, page ≤ 1023 → e.page = page → e.node = n → e.lba = lba → e.state.isFilling = true →
        s.OnlyMedia t n ∧ s.WrotePage t page (p.drop 6) ∧ t.clock = s.clock ∧ t.free = s.free ∧
        t.entries = s.entries.map (fun f => if f.page = page then { f with state := .valid } else f) ∧
        t.lru = s.lru ++ [page] ∧
        (t.nd n).cache = { (s.nd n).cache with fetches := (s.nd n).cache.fetches.filter (fun q => q != page) } ∧
        (t.nd n).media = { (s.nd n).media with current := (s.nd n).media.current.map (fun c =>
          { c with list := c.list.map (fun b =>
            if b.lba = lba ∧ b.status = .waiting then { b with status := .ready } else b) }) } ∧
        s.Replied t (nodeFrame 0x22 tag n p) { result := .ok, fields := [] })

/-- A FILLING entry ends without data by MED_FILL_FAIL, or when the deadline of its sent fetch passes: it is freed and its
page joins the free list, and a READ that waits on it ends, MEDIUM_ERROR and TIMED_OUT. A failure for anything else is
STALE, a tag above 1023 BAD_PARAM, and an entry whose fetch has not been sent has no deadline (R95, R101, R107, R108). The
clock of the timeout, and that nothing happens where no deadline runs, are the model's choice (notes/assumptions/2.md,
3.md). -/
def Obligations.FailedFetchFreesItsEntry : Prop :=
  (∀ (s : State) (tag : Byte) (n : NodeId) (p : List Byte), s.CacheLaw → s.takes (nodeFrame 0x23 tag n p) = true →
    p.length = 6 →
    let page := leNat (p.take 2)
    let lba := leNat (p.drop 2)
    ∃ t, exec (.medFillFail tag n.toByte p) s = .next t ∧
      (1023 < page → s.OnlyLink t ∧ s.Replied t (nodeFrame 0x23 tag n p) { result := .badParam, fields := [] }) ∧
      (page ≤ 1023 → (∀ e ∈ s.entries, ¬(e.page = page ∧ e.node = n ∧ e.lba = lba ∧ e.state.isFilling = true)) →
        s.OnlyLink t ∧ s.Replied t (nodeFrame 0x23 tag n p) { result := .stale, fields := [] }) ∧
      (∀ e ∈ s.entries, page ≤ 1023 → e.page = page → e.node = n → e.lba = lba → e.state.isFilling = true →
        s.FreedEntry t e .mediumError ∧ t.clock = s.clock ∧
        s.Replied t (nodeFrame 0x23 tag n p) { result := .ok, fields := [] })) ∧
  (∀ (s : State) (e : Entry) (d : Nat), s.held = false → s.CacheLaw → e ∈ s.entries → e.state = .filling (some d) →
    ∃ t, exec (.fetchTimeout e.page) s = .next t ∧ t.clock.ticks = max s.clock.ticks d ∧ t.link = s.link ∧
      s.FreedEntry t e .timedOut) ∧
  (∀ (s : State) (page : Nat), (∀ e ∈ s.entries, e.page = page → ∀ d, e.state ≠ .filling (some d)) →
    exec (.fetchTimeout page) s = .next s)

/-- MED_STORED is judged by (through - oldest) modulo 65,536 against the k outstanding write-outs: nothing outstanding, or
at least 32,768, is OK without effect; k to 32,767 is BAD_PARAM; below k resolves the entries up to through, in order: a
rewritten one becomes DIRTY at the tail of the queue, any other VALID and most recently used. A READY slot whose new front
is overdue becomes FAULTED, and a current command ends NOT_READY; a WITHDRAWING slot goes on draining, and where its new front
is overdue its remaining FLUSHING entries go back to DIRTY at the head of the queue. The unstored count of a current ACKED WRITE
falls by its blocks that are now stored; it ends GOOD when its last block has been accepted and none is unstored, and goes on
otherwise; a READ, and a WRITE under CACHED with blocks to come, goes on as it is, and a WRITE under CACHED with none to come ends
GOOD. A drain with nothing left to store ends
ABSENT (R79, R80, R82, R113 to R118, R120). That the timeout acts before the other follow-ups is the model's reading
(notes/assumptions/20.md). -/
def Obligations.MedStoredResolvesInOrder : Prop :=
  ∀ (s : State) (tag : Byte) (n : NodeId) (p : List Byte), s.PageLaw → s.CacheLaw →
    s.takes (nodeFrame 0x24 tag n p) = true → p.length = 2 →
    let c := (s.nd n).cache
    let k := c.outstanding.length
    let x := (BitVec.ofNat 16 (leNat p) - (c.seq - BitVec.ofNat 16 k)).toNat
    let numbers := fun (u : NodeCache) => if u.outstanding = [] then (0 : Byte) :: leBytes 2 0 ++ leBytes 2 0
      else 1 :: leBytes 2 (u.seq - BitVec.ofNat 16 u.outstanding.length).toNat ++ leBytes 2 (u.seq - 1).toNat
    let rewritten := fun q => s.entries.any (fun e => e.page == q &&
      (match e.state with | .flushing _ r _ => r | _ => false))
    let done := c.outstanding.take (x + 1)
    let clean := done.filter (fun q => !rewritten q)
    let again := done.filter rewritten
    let rest := c.outstanding.drop (x + 1)
    let overdue := ∃ q r e d b w, rest = q :: r ∧ e ∈ s.entries ∧ e.page = q ∧ e.state = .flushing b w d ∧
      d ≤ s.clock.ticks
    ∃ t, exec (.medStored tag n.toByte p) s = .next t ∧
      (k = 0 ∨ 32768 ≤ x → s.OnlyLink t ∧ s.Replied t (nodeFrame 0x24 tag n p)
        { result := .ok, fields := numbers c ++ [0] }) ∧
      (k ≠ 0 → k ≤ x → x < 32768 → s.OnlyLink t ∧ s.Replied t (nodeFrame 0x24 tag n p)
        { result := .badParam, fields := numbers c ++ [0] }) ∧
      (x < k → s.OnlyMedia t n ∧ t.mem = s.mem ∧ t.clock = s.clock ∧
        s.Replied t (nodeFrame 0x24 tag n p)
          { result := .ok, fields := numbers (t.nd n).cache ++ [BitVec.ofNat 8 (x + 1)] }) ∧
      (∀ m, x < k → s.slot n = some m → m.state ≠ .withdrawing →
        (t.nd n).cache = { c with outstanding := rest, queue := c.queue ++ again } ∧ t.lru = s.lru ++ clean ∧
        t.free = s.free ∧
        t.entries = s.entries.map (fun e => if e.page ∈ clean then { e with state := .valid }
          else if e.page ∈ again then { e with state := .dirty } else e) ∧
        (m.state = .ready → overdue → (t.nd n).media =
          let y : Media := { (s.nd n).media with slot := some { m with state := .faulted }, statePending := true }
          if y.current = none then y else { y with
            current := none, received := none, last := .notReady, out := { status := some .notReady, data := .nothing } }) ∧
        (m.state = .faulted ∨ ¬overdue →
          ((s.nd n).media.current = none → (t.nd n).media = (s.nd n).media) ∧
          ∀ w, (s.nd n).media.current = some w →
            let left := w.unstored - clean.countP (fun q => decide (w.lba ≤ s.lbaOf q ∧ s.lbaOf q < w.lba + w.finished))
            let good : Media := { (s.nd n).media with
              current := none, received := none, last := .good, out := { status := some .good, data := .nothing } }
            (w.write = true → w.finished = w.count → m.policy ≠ .acked ∨ left = 0 → (t.nd n).media = good) ∧
            (w.write = true → m.policy = .acked → w.finished < w.count ∨ left ≠ 0 →
              (t.nd n).media = { (s.nd n).media with current := some { w with unstored := left } }) ∧
            (w.write = false ∨ (m.policy ≠ .acked ∧ w.finished < w.count) → (t.nd n).media = (s.nd n).media))) ∧
      (∀ m, x < k → s.slot n = some m → m.state = .withdrawing → ¬(rest = [] ∧ again = [] ∧ c.queue = []) →
        (t.nd n).media = (s.nd n).media ∧ t.free = s.free ∧ t.lru = s.lru ++ clean ∧
        (¬overdue → (t.nd n).cache = { c with outstanding := rest, queue := c.queue ++ again } ∧
          t.entries = s.entries.map (fun e => if e.page ∈ clean then { e with state := .valid }
            else if e.page ∈ again then { e with state := .dirty } else e)) ∧
        (overdue → (t.nd n).cache = { c with outstanding := [], queue := rest ++ c.queue ++ again } ∧
          t.entries = s.entries.map (fun e => if e.page ∈ clean then { e with state := .valid }
            else if e.page ∈ again ∨ e.page ∈ rest then { e with state := .dirty } else e))) ∧
      (∀ m, x < k → s.slot n = some m → m.state = .withdrawing → rest = [] → again = [] → c.queue = [] →
        t.slot n = none ∧ ∀ e ∈ t.entries, e.node ≠ n)

/-- A range list is put into normal form: sorted, no two ranges overlapping or touching, none empty, all within the capacity,
covering exactly the blocks of the given ranges below the capacity (R88). A written block leaves the zero table: below 16
ranges the table then covers exactly its other blocks; a table of 16 keeps 16 ranges, and of a range that the block would
split it keeps the longer remnant, the lower on a tie; it stays sorted and separate (R91). -/
def Obligations.RangeTablesAreNormal : Prop :=
  (∀ (capacity : Nat) (l : List Range),
    let r := normalRanges capacity l
    r.Pairwise (fun x y => x.first + x.count < y.first) ∧ (∀ x ∈ r, 0 < x.count ∧ x.first + x.count ≤ capacity) ∧
    ∀ lba, inRanges r lba = true ↔ lba < capacity ∧ inRanges l lba = true) ∧
  ∀ (l : List Range) (lba : Nat), l.Pairwise (fun x y => x.first + x.count < y.first) → (∀ x ∈ l, 0 < x.count) →
    l.length ≤ 16 →
    let r := removeBlock l lba
    r.Pairwise (fun x y => x.first + x.count < y.first) ∧ (∀ x ∈ r, 0 < x.count) ∧ r.length ≤ 16 ∧
    (inRanges l lba = false → r = l) ∧
    ((l.length < 16 ∨ ∀ q ∈ l, lba = q.first ∨ lba + 1 = q.first + q.count ∨ q.covers lba = false) →
      ∀ x, inRanges r x = true ↔ inRanges l x = true ∧ x ≠ lba) ∧
    (∀ before q after, l.length = 16 → l = before ++ q :: after → q.first < lba → lba + 1 < q.first + q.count →
      r = before ++ (if q.first + q.count - (lba + 1) ≤ lba - q.first then ⟨q.first, lba - q.first⟩
        else ⟨lba + 1, q.first + q.count - (lba + 1)⟩) :: after)

/-- MED_EXTENTS_SET puts its list into normal form against the capacity. An unknown kind and more than 32 ranges are
BAD_PARAM, an ABSENT slot BAD_STATE, and more than 8 PROTECT or 16 ZERO ranges left over NO_ROOM. A PROTECT list replaces the
protect table and touches nothing else. A ZERO list over a DIRTY or FLUSHING entry is BAD_STATE; otherwise it replaces the
zero table, frees the VALID and FILLING entries inside it, and makes the READ blocks inside it ready; a READ block that was
in the old table and is not in the new one finds no entry and wants one; and the blocks that want an entry make their
requests (R88 to R90, R92, R93). Which fields of a refused reply report state (R195), and that the requests are made in
this step, is the model's reading (notes/assumptions/18.md, 23.md). -/
def Obligations.MedExtentsSetReplacesATable : Prop :=
  ∀ (s : State) (tag kind count : Byte) (n : NodeId) (bytes : List Byte), s.CacheLaw →
    s.takes (nodeFrame 0x25 tag n (kind :: count :: bytes)) = true → bytes.length = 8 * count.toNat →
    let f := nodeFrame 0x25 tag n (kind :: count :: bytes)
    let sent := (List.range count.toNat).map (fun i =>
      (⟨leNat ((bytes.drop (8 * i)).take 4), leNat ((bytes.drop (8 * i + 4)).take 4)⟩ : Range))
    ∃ t, exec (.medExtentsSet tag n.toByte (kind :: count :: bytes)) s = .next t ∧
      (1 < kind ∨ 32 < count.toNat → s.OnlyLink t ∧ ∃ y, s.Replied t f { result := .badParam, fields := y :: leBytes 2 0 }) ∧
      (kind ≤ 1 → count.toNat ≤ 32 → s.slot n = none → s.OnlyLink t ∧
        s.Replied t f { result := .badState, fields := 0 :: leBytes 2 0 }) ∧
      (∀ m, s.slot n = some m → kind = 1 → count.toNat ≤ 32 →
        let l := normalRanges m.capacity sent
        (8 < l.length → s.OnlyLink t ∧
          s.Replied t f { result := .noRoom, fields := BitVec.ofNat 8 m.protect.length :: leBytes 2 0 }) ∧
        (l.length ≤ 8 → s.OnlyNodeAndLink t n ∧
          t.nd n = { s.nd n with media := { (s.nd n).media with slot := some { m with protect := l } } } ∧
          s.Replied t f { result := .ok, fields := BitVec.ofNat 8 l.length :: leBytes 2 0 })) ∧
      (∀ m, s.slot n = some m → kind = 0 → count.toNat ≤ 32 →
        let l := normalRanges m.capacity sent
        let inside := fun (e : Entry) => e.node == n && inRanges l e.lba
        let gone := s.entries.filter inside
        (16 < l.length → s.OnlyLink t ∧
          s.Replied t f { result := .noRoom, fields := BitVec.ofNat 8 m.zero.length :: leBytes 2 0 }) ∧
        (l.length ≤ 16 → (∃ e ∈ gone, e.state.isUnstored = true) → s.OnlyLink t ∧
          s.Replied t f { result := .badState, fields := BitVec.ofNat 8 m.zero.length :: leBytes 2 0 }) ∧
        (l.length ≤ 16 → (∀ e ∈ gone, e.state.isUnstored = false) →
          s.OnlyMedia t n ∧ t.mem = s.mem ∧ t.clock = s.clock ∧ t.slot n = some { m with zero := l } ∧
          (∃ u : State, s.OnlyMedia u n ∧ u.mem = s.mem ∧ u.clock = s.clock ∧
            u.entries = s.entries.filter (fun e => !inside e) ∧ u.free.Perm (s.free ++ gone.map Entry.page) ∧
            u.lru = s.lru.filter (fun p => !(gone.map Entry.page).contains p) ∧
            (u.nd n).cache = { (s.nd n).cache with
              fetches := (s.nd n).cache.fetches.filter (fun p => !(gone.map Entry.page).contains p) } ∧
            (u.nd n).media = { (s.nd n).media with
              slot := t.slot n
              current := (s.nd n).media.current.map (fun c => { c with
                list := c.list.map (fun b => if inRanges l b.lba then { b with status := .ready }
                  else if inRanges m.zero b.lba = true ∧ c.write = false then { b with status := .wanting } else b) }) } ∧
            t = { State.serveRequests 64 n u with link := t.link } ∧
            (t.nd n).media = { (u.nd n).media with current := (t.nd n).media.current } ∧
            ((s.nd n).media.current = none → (t.nd n).media.current = none ∧ t.entries = u.entries) ∧
            (s.PageLaw → u.free.Pairwise (· < ·) ∧ u.ServedFetches t n ∧
              ∀ c, (u.nd n).media.current = some c → ∃ list, (t.nd n).media.current = some { c with list := list } ∧
                List.Forall₂ (t.BlockServed n) c.list list)) ∧
          s.Replied t f { result := .ok, fields := BitVec.ofNat 8 l.length :: leBytes 2 gone.length }))

/-- MED_RECOVER in FAULTED makes the slot READY and puts the FLUSHING entries back to DIRTY, in order, at the head of the
write-out queue; elsewhere it is BAD_STATE. A store deadline that passes makes a READY slot FAULTED, which ends a current
READ or WRITE NOT_READY, and in a WITHDRAWING one puts the FLUSHING entries back likewise; the counter keeps its value
(R79, R80, R117 to R119). The clock of the timeout, and that nothing happens where no deadline is watched, are the model's
choice (notes/assumptions/2.md, 3.md). -/
def Obligations.StoreTimeoutsFaultAndRecover : Prop :=
  (∀ (s : State) (tag : Byte) (n : NodeId), s.CacheLaw → s.takes (nodeFrame 0x26 tag n []) = true →
    ∃ t, exec (.medRecover tag n.toByte []) s = .next t ∧
      ((∀ m, s.slot n = some m → m.state ≠ .faulted) → s.OnlyLink t ∧ s.Replied t (nodeFrame 0x26 tag n [])
        { result := .badState, fields := [0, BitVec.ofNat 8 (s.nd n).cache.queue.length] }) ∧
      (∀ m, s.slot n = some m → m.state = .faulted → s.ReturnedFlushing t n ∧ t.clock = s.clock ∧
        (t.nd n).media = { (s.nd n).media with slot := some { m with state := .ready }, statePending := true } ∧
        s.Replied t (nodeFrame 0x26 tag n []) { result := .ok
                                                fields := [BitVec.ofNat 8 (s.nd n).cache.outstanding.length,
                                                  BitVec.ofNat 8 (t.nd n).cache.queue.length] })) ∧
  (∀ (s : State) (n : NodeId) (m : Medium) (p : Nat) (r : List Nat) (e : Entry) (q : Half) (w : Bool) (d : Nat),
    s.held = false → s.CacheLaw → s.slot n = some m → (s.nd n).cache.outstanding = p :: r → e ∈ s.entries → e.page = p →
    e.state = .flushing q w d →
    (m.state = .ready → ∃ t, exec (.storeTimeout n) s = .next t ∧ t.clock.ticks = max s.clock.ticks d ∧
      s.OnlyNodeAndClock t n ∧ t.nd n = { s.nd n with media := (t.nd n).media } ∧
      t.slot n = some { m with state := .faulted } ∧ (t.nd n).media.statePending = true ∧
      (t.nd n).media.current = none ∧
      (t.nd n).media.last = if (s.nd n).media.current.isSome then .notReady else (s.nd n).media.last) ∧
    (m.state = .withdrawing → ∃ t, exec (.storeTimeout n) s = .next t ∧ t.clock.ticks = max s.clock.ticks d ∧
      s.ReturnedFlushing t n ∧ t.link = s.link ∧ (t.nd n).media = (s.nd n).media) ∧
    (m.state = .faulted → exec (.storeTimeout n) s = .next s)) ∧
  (∀ (s : State) (n : NodeId), (s.slot n = none ∨ (s.nd n).cache.outstanding = []) →
    exec (.storeTimeout n) s = .next s)

/-- MED_TUNING_SET clamps each value into its range, answers ADJUSTED when it changed one, and replaces the node's tuning
and nothing else, in every slot state; the reply carries the effective values (R122). PWR_TIMING_SET does the same for the
eleven timings, with three choices beside them; an unlisted choice code is refused and changes nothing (R131). Which
fields of a refused reply report state and which an outcome (R195) is the model's reading (notes/assumptions/23.md). -/
def Obligations.TuningAndTimingSetsClamp : Prop :=
  (∀ (s : State) (tag : Byte) (n : NodeId) (p : List Byte), s.takes (nodeFrame 0x28 tag n p) = true → p.length = 7 →
    let x : Tuning :=
      { readAhead := min 32 (fieldAt p 0 1)
        fetchTimeout := min 60000 (max 100 (fieldAt p 1 2))
        storeTimeout := min 120000 (max 500 (fieldAt p 3 4)) }
    ∃ t, exec (.medTuningSet tag n.toByte p) s = .next t ∧ s.OnlyNodeSetAndLink t n ∧ t.nd n = s.nd n ∧
      t.set n = { s.set n with tuning := x } ∧
      s.Replied t (nodeFrame 0x28 tag n p)
        { result := if leBytes 1 x.readAhead ++ leBytes 2 x.fetchTimeout ++ leBytes 4 x.storeTimeout = p
            then .ok else .adjusted
          fields := leBytes 1 x.readAhead ++ leBytes 2 x.fetchTimeout ++ leBytes 4 x.storeTimeout }) ∧
  (∀ (s : State) (tag : Byte) (n : NodeId) (p : List Byte), s.takes (nodeFrame 0x33 tag n p) = true → p.length = 47 →
    let v := fun i lo hi => min hi (max lo (fieldAt p (4 * i) 4))
    let x : Timings :=
      { debounce := v 0 0 255, settle := v 1 100 5000, press := v 2 50 2000, hold := v 3 4000 15000
        resetPulse := v 4 10 1000, diagPulse := v 5 10 1000, startWait := v 6 1000 120000
        softOffWait := v 7 5000 600000, hardOffCheck := v 8 500 10000, cutCheck := v 9 500 10000
        dwell := v 10 1000 60000 }
    ∃ t, exec (.pwrTimingSet tag n.toByte p) s = .next t ∧
      ((1 < byteAt p 44 ∨ 2 < byteAt p 45 ∨ 1 < byteAt p 46) → s.OnlyLink t ∧ s.Replied t (nodeFrame 0x33 tag n p)
        { result := .badParam, fields := List.replicate 47 0 }) ∧
      (byteAt p 44 ≤ 1 → byteAt p 45 ≤ 2 → byteAt p 46 ≤ 1 → ∃ y : Choices,
        s.OnlyNodeSetAndLink t n ∧ t.nd n = s.nd n ∧ t.set n = { s.set n with timings := x, choices := y } ∧
        y.escalation.code = byteAt p 44 ∧ y.method.code = byteAt p 45 ∧ y.abort.code = byteAt p 46 ∧
        s.Replied t (nodeFrame 0x33 tag n p)
          { result := if timingLayout x y = p then .ok else .adjusted, fields := timingLayout x y }))

/-- The port: VBUS_PRESENT connects it; VBUS_ABSENT disconnects it and tears down a current command without a status, as a
bus reset does, leaving the cache alone (R72, R75). While disconnected, or with a command current, it takes no command.
SENSE, CAPACITY, READY, EJECT and an invalid command are answered at once by slot state (R73, R74, R78, R84). A READ or
WRITE fails with the first check that fails: count 0, slot not READY, medium changed, range, write protection (R72, R78,
R87). One that passes becomes current with its first blocks, at most 64, in its list: a WRITE changes nothing else; of a
READ, a block in the zero table or with an entry that holds data is ready, one with a FILLING entry waits, and one with
none waits on a new entry or wants one where the FILLING cap or the pool holds it up (R92, R93). SENSE gives the last
status as one byte, in the order of the node status codes. That the blocks make their requests inside the step of READ
(notes/assumptions/18.md), that VBUS sense follows its pin in reset (notes/assumptions/25.md), the latch of what the host was
given, and that a command it cannot send changes nothing (notes/assumptions/3.md, 21.md), are the model's choice. -/
def Obligations.PortAnswersAndChecksCommands : Prop :=
  (∀ (s : State) (n : NodeId), exec (.vbusPresent n) s =
    .next (s.setNd n { s.nd n with media := { (s.nd n).media with vbus := true } })) ∧
  (∀ (s : State) (n : NodeId),
    let m := (s.nd n).media
    let torn := if m.current.isSome then { m with
      current := none, received := none, last := .good, out := { status := none, data := .nothing } } else m
    exec (.vbusAbsent n) s = .next (s.setNd n { s.nd n with media := { torn with vbus := false } }) ∧
    (s.connected n = true → exec (.usbBusReset n) s = .next (s.setNd n { s.nd n with media := torn })) ∧
    (s.connected n = false → exec (.usbBusReset n) s = .next s)) ∧
  (∀ (s : State) (n : NodeId) (lba : Word) (count : Half), (s.connected n = false ∨ (s.nd n).media.current ≠ none) →
    ∀ i ∈ [Instr.invalidCommand n, .ready n, .capacity n, .eject n, .sense n, .read n lba count, .write n lba count],
      exec i s = .next s) ∧
  ∀ (s : State) (n : NodeId), s.connected n = true → (s.nd n).media.current = none →
    let m := (s.nd n).media
    let answered := fun (x : Option Medium) (st : NodeStatus) (d : PortData) => Host.Outcome.next (φ := Fault)
      (ρ := Refusal) (s.setNd n { s.nd n with media := { m with
        slot := x, last := st, out := { status := some st, data := d } } })
    exec (.invalidCommand n) s = answered m.slot .invalidRequest .nothing ∧
    exec (.sense n) s = answered m.slot .good (.sense (match m.last with
      | .good => 0 | .notReady => 1 | .mediumChanged => 2 | .lbaRange => 3 | .writeProtected => 4 | .mediumError => 5
      | .timedOut => 6 | .invalidRequest => 7)) ∧
    (∀ x, m.slot = some x → x.state = .ready → exec (.capacity n) s = answered m.slot .good (.capacity x.capacity 512) ∧
      exec (.ready n) s = (if x.changed then answered (some { x with changed := false }) .mediumChanged .nothing
        else answered m.slot .good .nothing)) ∧
    ((∀ x, m.slot = some x → x.state ≠ .ready) → exec (.capacity n) s = answered m.slot .notReady .nothing ∧
      exec (.ready n) s = answered m.slot .notReady .nothing) ∧
    (m.slot = none → exec (.eject n) s = answered none .notReady .nothing) ∧
    (∀ x, m.slot = some x → x.removable = false → exec (.eject n) s = answered m.slot .invalidRequest .nothing) ∧
    (∀ x, m.slot = some x → x.removable = true →
      (x.state = .withdrawing → exec (.eject n) s = answered m.slot .good .nothing) ∧
      ∃ t, exec (.eject n) s = .next t ∧ t = { s.drain n with nodes := t.nodes } ∧
        (∀ k, k ≠ n → t.nd k = s.nd k) ∧ (t.nd n).media.last = .good ∧ t.slot n = (s.drain n).slot n ∧
        (t.nd n).cache = ((s.drain n).nd n).cache) ∧
    ∀ (write : Bool) (lba : Word) (count : Half),
      let i := if write then Instr.write n lba count else .read n lba count
      (count = 0 → exec i s = answered m.slot .invalidRequest .nothing) ∧
      (count ≠ 0 → (∀ x, m.slot = some x → x.state ≠ .ready) → exec i s = answered m.slot .notReady .nothing) ∧
      ∀ x, count ≠ 0 → m.slot = some x → x.state = .ready →
        let reached := x.changed = false
        let fits := lba.toNat + count.toNat ≤ x.capacity
        let refused := write = true ∧ (x.policy = .readOnly ∨
          ∃ r ∈ x.protect, ∃ b, lba.toNat ≤ b ∧ b < lba.toNat + count.toNat ∧ r.covers b = true)
        (¬reached → exec i s = answered (some { x with changed := false }) .mediumChanged .nothing) ∧
        (reached → ¬fits → exec i s = answered m.slot .lbaRange .nothing) ∧
        (reached → fits → refused → exec i s = answered m.slot .writeProtected .nothing) ∧
        (reached → fits → ¬refused → ∃ t c, exec i s = .next t ∧ s.OnlyMedia t n ∧ t.mem = s.mem ∧ t.link = s.link ∧
          t.clock = s.clock ∧ (t.nd n).media = { m with
            current := some c, out := { status := none, data := .nothing } } ∧
          c = { c with write := write, lba := lba.toNat, count := count.toNat, finished := 0, unstored := 0 } ∧
          c.list.map BlockPlace.lba = List.range' lba.toNat (min 64 count.toNat) ∧
          (write = true → (∀ b ∈ c.list, b.status = .ready) ∧ s.OnlyNode t n ∧ (t.nd n).cache = (s.nd n).cache) ∧
          (write = false → s.PageLaw → s.CacheLaw → (s.free.length ≥ 32 → ∀ e ∈ s.entries, e ∈ t.entries) ∧ ∀ b ∈ c.list,
            (inRanges x.zero b.lba = true → b.status = .ready) ∧
            (inRanges x.zero b.lba = false → ∀ e ∈ s.entries, e.node = n → e.lba = b.lba →
              b.status = if e.state.isFilling then .waiting else .ready) ∧
            (inRanges x.zero b.lba = false → (∀ e ∈ s.entries, ¬(e.node = n ∧ e.lba = b.lba)) →
              (b.status = .waiting ∧ ∃ e ∈ t.entries, e.node = n ∧ e.lba = b.lba ∧ e.state = .filling none ∧
                e.page ∈ (t.nd n).cache.fetches) ∨
              (b.status = .wanting ∧ (t.fillingCount n = 32 ∨ (t.free = [] ∧ t.lru = []))))))

/-- A ready front block is delivered from what it finds then: 512 zero bytes inside the zero table, the entry's data
otherwise, a VALID entry becoming the most recently used; a block whose entry is FILLING waits again, and one that finds
none makes its request. The last block ends the READ GOOD, moves the continuation point to its end and, where the READ
began at the old one, is followed by read-ahead into free pages alone; any other block leaves the list to the blocks that
follow: the next blocks join at its back, each with what it finds, and those that want an entry make their requests (R92
to R95, R102, R121). A block that wants an entry receives the lowest free page, or the least recently used VALID
entry's, below the FILLING cap, and its fetch becomes pending (R65, R66, R92, R100, R103). That a request waiting for room
is made by a command of its own is the model's choice (notes/assumptions/18.md). So are the latch of what the host was
given (notes/assumptions/21.md), and that BLOCK_DELIVERY without a ready front block of a READ changes nothing
(notes/assumptions/3.md). -/
def Obligations.ReadBlocksAreServed : Prop :=
  (∀ (s : State) (n : NodeId) (c : Command) (b : BlockPlace) (rest : List BlockPlace) (x : Medium), s.held = false →
    s.PageLaw → s.CacheLaw → (s.nd n).media.current = some c → c.write = false → c.list = b :: rest → b.status = .ready →
    s.slot n = some x →
    ∃ t, exec (.blockDelivery n) s = .next t ∧ s.OnlyMedia t n ∧ t.mem = s.mem ∧ t.link = s.link ∧ t.clock = s.clock ∧
      t.slot n = s.slot n ∧
      ∀ data : List Byte,
        ((inRanges x.zero b.lba = true ∧ data = List.replicate 512 0) ∨
          (inRanges x.zero b.lba = false ∧ ∃ e ∈ s.entries, e.node = n ∧ e.lba = b.lba ∧ e.state.isFilling = false ∧
            data = s.mem.page e.page)) →
        (t.nd n).media.out.data = .block data ∧
        (c.finished + 1 < c.count → (t.nd n).media.out.status = none ∧
          (t.nd n).media.continuation = (s.nd n).media.continuation ∧ (t.nd n).media.last = (s.nd n).media.last ∧
          ∃ d, (t.nd n).media.current = some d ∧ d = { c with finished := c.finished + 1, list := d.list } ∧
            d.list.map BlockPlace.lba = List.range' (c.lba + c.finished + 1) (min 64 (c.count - c.finished - 1)) ∧
            let found := s.entries.find? (fun e => e.node == n && e.lba == b.lba)
            let used := found.filter (fun e => e.state == .valid && !inRanges x.zero b.lba)
            let look := fun (l : Nat) => if inRanges x.zero l then BlockStatus.ready else
              match s.entries.find? (fun e => e.node == n && e.lba == l) with
              | none => .wanting
              | some e => if e.state.isFilling then .waiting else .ready
            let joined := (List.range' (c.lba + c.finished + 1 + rest.length)
              (min (64 - rest.length) (c.count - c.finished - 1 - rest.length))).map (fun l => (⟨l, look l⟩ : BlockPlace))
            let u := { s with lru := match used with
              | none => s.lru
              | some e => s.lru.filter (fun q => q != e.page) ++ [e.page] }
            u.ServedFetches t n ∧ List.Forall₂ (t.BlockServed n) (rest ++ joined) d.list) ∧
        (c.finished + 1 = c.count → (t.nd n).media.current = none ∧ (t.nd n).media.last = .good ∧
          (t.nd n).media.out.status = some .good ∧ (t.nd n).media.continuation = some (c.lba + c.count) ∧
          (∀ e ∈ s.entries, e.node = n → e.lba = b.lba → t.lru =
            if e.state = .valid ∧ inRanges x.zero b.lba = false then s.lru.filter (fun q => q != e.page) ++ [e.page]
            else s.lru) ∧
          (∀ e, e ∈ s.entries → e ∈ t.entries) ∧
          (∀ e ∈ t.entries, e ∉ s.entries → e.node = n ∧ e.state = .filling none ∧ e.page ∈ s.free ∧
            (s.nd n).media.continuation = some c.lba ∧ c.lba + c.count ≤ e.lba ∧
            e.lba < min x.capacity (c.lba + c.count + (s.set n).tuning.readAhead) ∧ inRanges x.zero e.lba = false) ∧
          ((s.nd n).media.continuation = some c.lba → (t.fillingCount n < 32 → t.free ≠ [] →
            ∀ l, c.lba + c.count ≤ l → l < min x.capacity (c.lba + c.count + (s.set n).tuning.readAhead) →
              inRanges x.zero l = false → ∃ e ∈ t.entries, e.node = n ∧ e.lba = l)))) ∧
  (∀ (s : State) (n : NodeId) (c : Command) (b : BlockPlace) (rest : List BlockPlace) (x : Medium), s.held = false →
    s.PageLaw → s.CacheLaw → (s.nd n).media.current = some c → c.write = false → c.list = b :: rest → b.status = .ready →
    s.slot n = some x → inRanges x.zero b.lba = false →
    (∀ e ∈ s.entries, e.node = n → e.lba = b.lba → e.state.isFilling = true →
      exec (.blockDelivery n) s = .next (s.setNd n { s.nd n with media := { (s.nd n).media with
        current := some { c with list := { b with status := .waiting } :: rest } } })) ∧
    ((∀ e ∈ s.entries, ¬(e.node = n ∧ e.lba = b.lba)) → ∃ t d r, exec (.blockDelivery n) s = .next t ∧
      (t.nd n).media = { (s.nd n).media with current := some { c with list := { b with status := d } :: r } } ∧
      ((d = .waiting ∧ ∃ e ∈ t.entries, e.node = n ∧ e.lba = b.lba ∧ e.state = .filling none) ∨
        (d = .wanting ∧ (s.fillingCount n = 32 ∨ s.free ++ s.lru = []))))) ∧
  (∀ (s : State) (n : NodeId), (∀ c b r, (s.nd n).media.current = some c → c.write = false → c.list = b :: r →
    b.status ≠ .ready) → exec (.blockDelivery n) s = .next s) ∧
  (∀ (s : State) (n : NodeId) (c : Command) (before rest : List BlockPlace) (b : BlockPlace), s.held = false →
    s.PageLaw → s.CacheLaw → (s.nd n).media.current = some c → c.write = false → c.list = before ++ b :: rest →
    b.status = .wanting → (∀ y ∈ before, y.status ≠ .wanting) → (s.nd n).media.received = none →
    (s.fillingCount n = 32 ∨ s.free ++ s.lru = [] → exec (.newEntryRequest n) s = .next s) ∧
    (∀ p, s.fillingCount n < 32 → (s.free ++ s.lru).head? = some p →
      ∃ t, exec (.newEntryRequest n) s = .next t ∧ s.OnlyMedia t n ∧ t.mem = s.mem ∧ t.link = s.link ∧
        t.clock = s.clock ∧ t.free = s.free.tail ∧ t.lru = (if s.free = [] then s.lru.tail else s.lru) ∧
        t.entries.Perm (⟨p, n, b.lba, .filling none⟩ :: s.entries.filter (fun e => e.page != p)) ∧
        (t.nd n).cache = { (s.nd n).cache with fetches := (s.nd n).cache.fetches ++ [p] } ∧
        (t.nd n).media = { (s.nd n).media with current := some { c with
          list := before ++ { b with status := .waiting } :: rest } }))

/-- WRITE data arrives one block at a time, into an empty receive buffer of a current WRITE with blocks left. The buffered
front block is accepted by what it finds (R91, R92, R96, R97, R109, R120): no entry, and a new DIRTY one in a page the
pool gives; VALID or FILLING, and the entry becomes DIRTY at the tail of the write-out queue; DIRTY, and its data is
replaced; FLUSHING, and its rewritten flag is set. The first two kinds wait at 64 unstored blocks. In the same step the
block leaves the zero table and the list, and the next one joins; under CACHED the last block ends the WRITE GOOD, and
under ACKED each block counts as unstored. That NEW_ENTRY_REQUEST accepts as BLOCK_ACCEPT does, and that nothing happens
where the block waits, are the model's choice (notes/assumptions/3.md, 18.md). -/
def Obligations.WriteBlocksAreAccepted : Prop :=
  (∀ (s : State) (n : NodeId) (data : List Byte), data.length = 512 →
    ((s.connected n = true ∧ (s.nd n).media.received = none ∧
        ∃ c, (s.nd n).media.current = some c ∧ c.write = true ∧ c.list ≠ []) →
      exec (.writeBlockReceived n data) s =
        .next (s.setNd n { s.nd n with media := { (s.nd n).media with received := some data } })) ∧
    (¬(s.connected n = true ∧ (s.nd n).media.received = none ∧
        ∃ c, (s.nd n).media.current = some c ∧ c.write = true ∧ c.list ≠ []) →
      exec (.writeBlockReceived n data) s = .next s)) ∧
  (∀ (s : State) (n : NodeId), (s.nd n).media.received = none ∨ (s.nd n).media.current = none →
    exec (.blockAccept n) s = .next s) ∧
  ∀ (s : State) (n : NodeId) (c : Command) (b : BlockPlace) (rest : List BlockPlace) (x : Medium) (data : List Byte),
    s.held = false → s.PageLaw → s.CacheLaw → (s.nd n).media.current = some c → c.write = true → c.list = b :: rest →
    (s.nd n).media.received = some data → data.length = 512 → s.slot n = some x →
    let found := s.entries.filter (fun e => e.node == n && e.lba == b.lba)
    let adds := found = [] ∨ ∃ e ∈ found, e.state = .valid ∨ e.state.isFilling = true
    let held_up := adds ∧ (64 ≤ s.unstoredCount n ∨ (found = [] ∧ s.free ++ s.lru = []))
    (held_up → exec (.blockAccept n) s = .next s) ∧
    (found ≠ [] → exec (.newEntryRequest n) s = .next s) ∧
    (found = [] → exec (.newEntryRequest n) s = exec (.blockAccept n) s) ∧
    (¬held_up → ∃ t p, exec (.blockAccept n) s = .next t ∧ s.OnlyMedia t n ∧ t.link = s.link ∧ t.clock = s.clock ∧
      s.WrotePage t p data ∧ (t.nd n).media.received = none ∧
      t.slot n = some { x with zero := removeBlock x.zero b.lba } ∧
      (let d := { c with
        finished := c.finished + 1
        unstored := if x.policy = WritePolicy.acked then c.unstored + 1 else c.unstored }
       let ended := d.finished = c.count ∧ x.policy ≠ WritePolicy.acked
       (ended → (t.nd n).media.current = none ∧ (t.nd n).media.last = .good ∧
         (t.nd n).media.out.status = some .good) ∧
       (¬ended → ∃ l, (t.nd n).media.current = some { d with list := l } ∧ l.map BlockPlace.lba =
         List.range' (c.lba + c.finished + 1) (min 64 (c.count - c.finished - 1)) ∧
         (t.nd n).media.last = (s.nd n).media.last)) ∧
      (found = [] → (s.free ++ s.lru).head? = some p ∧ t.free = s.free.tail ∧
        t.lru = (if s.free = [] then s.lru.tail else s.lru) ∧
        t.entries.Perm (⟨p, n, b.lba, .dirty⟩ :: s.entries.filter (fun e => e.page != p)) ∧
        (t.nd n).cache = { (s.nd n).cache with queue := (s.nd n).cache.queue ++ [p] }) ∧
      (∀ e ∈ found, p = e.page ∧ t.free = s.free ∧
        t.entries = s.entries.map (fun f => if f.page ≠ p then f else
          match f.state with
          | .flushing q _ d => { f with state := .flushing q true d }
          | _ => { f with state := .dirty }) ∧
        t.lru = s.lru.filter (fun q => q != p || !e.state.isValid) ∧
        (t.nd n).cache = { (s.nd n).cache with
          fetches := (s.nd n).cache.fetches.filter (fun q => q != p)
          queue := if e.state = .valid ∨ e.state.isFilling = true then (s.nd n).cache.queue ++ [p]
            else (s.nd n).cache.queue }))

/-! ### Node power -/

/-- PWR_ACTION is judged by the table of R143: an unlisted kind BAD_PARAM; LOCKED refuses LOCKED; IDLE refuses BAD_STATE
while pg is settling or the precondition on the condition fails, and starts the action otherwise; ACTING queues it, or
refuses BUSY. A refused request changes nothing. A started action is current, with ACTION_START recorded, and its first step
has begun: the phase, its time and its lines, the feed cut or released, or the action ended DONE at once, with the cycle
method then in force. A feed that is cut is recorded as CUT; the Line Unit follows the node into CUT and out of it; and the
monitor goes DORMANT as the node leaves ON, or from DORMANT to GRACE as it becomes ON (R24, R126, R128, R132 to R140, R154).
Nothing else of the node changes. The disposition byte of a refused reply is 0 (R195), and the tick at which a phase ends counts
from the tick in progress (notes/assumptions/23.md, 28.md). ACTION_END records kind and result and names the source (R142), the
last in no byte of a frame (notes/assumptions/35.md). -/
def Obligations.PwrActionIsJudged : Prop :=
  ∀ (s : State) (tag k : Byte) (n : NodeId), s.takes (nodeFrame 0x30 tag n [k]) = true →
    let f := nodeFrame 0x30 tag n [k]
    let p := (s.nd n).power
    let refuse := fun (t : State) (r : Result) => s.OnlyLink t ∧ s.Replied t f { result := r, fields := 0 :: s.powerBlock n }
    ∃ t, exec (.pwrAction tag n.toByte [k]) s = .next t ∧
      ((k = 0 ∨ 7 < k) → refuse t .badParam) ∧
      ∀ kind : ActionKind, kind.code = k →
        let from_ : List Condition := match kind with
          | .on => [.off, .cut]
          | .cut => [.off, .on]
          | .cycle => [.on, .off]
          | _ => [.on]
        let allowed := s.condition n ∈ from_
        (∀ c, p.ctrl = .locked c → refuse t .locked) ∧
        (∀ a q ab, p.ctrl = .acting a (some q) ab → refuse t .busy) ∧
        (p.ctrl = .idle → ¬(allowed ∧ p.pg ≠ .settling) → refuse t .badState) ∧
        (∀ a ab, p.ctrl = .acting a none ab → s.OnlyNodeAndLink t n ∧
          t.nd n = { s.nd n with power := { p with
            ctrl := .acting a (some { kind := kind, source := .link tag }) ab, statePending := true } } ∧
          s.Replied t f { result := .ok, fields := 2 :: t.powerBlock n }) ∧
        (p.ctrl = .idle → allowed → p.pg ≠ .settling → s.OnlyNodeAndLink t n ∧
          s.Replied t f { result := .ok, fields := 1 :: t.powerBlock n } ∧
          t.ActionStarted n (s.nd n) kind (.link tag) ∧ s.LineFollowed t n (s.nd n).line)

/-- PWR_ABORT without a current action is BAD_STATE. It discards a queued action; a wait phase, or any phase under
IMMEDIATE, ends at once with the action ABORTED; under PHASE_END an assert phase runs on with the aborting flag set, and a
second abort leaves it so. FEED_CUTn stays as it is, and nothing else of the node changes (R146, R147). The monitor is told of
each action that ends, first the queued one: while the recovery outstanding flag is set, the end of a recovery clears it, ABORTED
takes RECOVERING to GRACE and DISCARDED leads to EXHAUSTED (R161). PWR_CLEAR in LOCKED returns the controller to IDLE and
changes no line, condition or boot number; elsewhere it is BAD_STATE (R148). That the flag alone raises no notice, and that a
warning DIAG is not reported as a recovery, is the model's reading (notes/assumptions/32.md). ACTION_END records kind and result
and names the source (R142), the last in no byte of a frame (notes/assumptions/35.md). -/
def Obligations.PwrAbortAndClear : Prop :=
  (∀ (s : State) (tag : Byte) (n : NodeId), s.takes (nodeFrame 0x31 tag n []) = true →
    let f := nodeFrame 0x31 tag n []
    let p := (s.nd n).power
    ∃ t, exec (.pwrAbort tag n.toByte []) s = .next t ∧
      ((∀ a q ab, p.ctrl ≠ .acting a q ab) → s.OnlyLink t ∧
        s.Replied t f { result := .badState, fields := s.powerBlock n }) ∧
      ∀ a q ab, p.ctrl = .acting a q ab → s.OnlyNodeAndLink t n ∧
        s.Replied t f { result := .ok, fields := t.powerBlock n } ∧
        let x : Node := match q with
          | none => s.nd n
          | some z => (s.nd n).withEnd (s.set n).delivery.mask (s.graceFrom n) (z.final .discarded)
        let runsOn := ab = true ∨ ((s.set n).choices.abort = .phaseEnd ∧
          (a.phase = .press ∨ a.phase = .hold ∨ a.phase = .pulse))
        (runsOn → t.nd n = { x with power := { x.power with ctrl := .acting a none true } }) ∧
        (¬runsOn → t.ActionEnded n x a none .aborted)) ∧
  (∀ (s : State) (tag : Byte) (n : NodeId), s.takes (nodeFrame 0x32 tag n []) = true →
    let f := nodeFrame 0x32 tag n []
    let p := (s.nd n).power
    ∃ t, exec (.pwrClear tag n.toByte []) s = .next t ∧
      ((∀ c, p.ctrl ≠ .locked c) → s.OnlyLink t ∧
        s.Replied t f { result := .badState, fields := s.powerBlock n }) ∧
      ∀ c, p.ctrl = .locked c → s.OnlyNodeAndLink t n ∧
        t.nd n = { s.nd n with power := { p with ctrl := .idle, statePending := true } } ∧
        s.Replied t f { result := .ok, fields := t.powerBlock n })

/-- The ends of the phases by their timers (R132 to R140, R147): SETTLE goes on to PRESS; PRESS to AWAIT_UP in an ON
sequence and to AWAIT_DOWN otherwise; HOLD to AWAIT_DOWN for the hard-off check; AWAIT_UP and CUT_CHECK lock; AWAIT_DOWN
locks after a hold, else escalates to HOLD for a CYCLE or with the escalation HARD, else ends FAILED without a lock; DWELL
begins the ON sequence from the condition then; PULSE ends DONE, a RESET with a boot event before: the boot number grows by one,
BOOT is recorded with it and stands before ACTION_END, match progress and once-per-boot flags are cleared, the monitor of a node
that is ON starts its grace, an AUTO line with rearm on is set to HUNTING, and the ONCE rule is taken (R18, R53, R54, R85, R129,
R145, R154). The Line Unit follows the node out of CUT as DWELL ends, and into CUT and out of it where a queued action comes up
(R24). With the aborting flag set, PRESS, HOLD and PULSE end ABORTED. The end of a recovery, and a lock, are reported to the
monitor: while the recovery outstanding flag is set it is cleared, DONE and ABORTED take RECOVERING to GRACE, and the other
results and a lock lead to EXHAUSTED (R142, R161). In each case nothing else of the node changes: FEED_CUTn moves only as DWELL
ends and where a queued action that comes up moves it (R126). The clock comes to the phase's end, nothing happens outside the
phase, a phase's ticks count from the tick in progress, and a warning DIAG is not reported as a recovery: these are the model's
choice (notes/assumptions/2.md, 3.md, 28.md, 32.md). ACTION_END records kind and result and names the source (R142), the last
in no byte of a frame (notes/assumptions/35.md). -/
def Obligations.PhasesEndByTheirTimers : Prop :=
  ∀ (s : State) (n : NodeId) (a : Action) (q : Option Queued) (ab : Bool), s.held = false →
    (s.nd n).power.ctrl = .acting a q ab →
    let x := s.nd n
    let p := x.power
    let y := (s.set n).timings
    let afterHold := a.escalated = true ∨ a.kind = .offHard ∨ (a.kind = .cycle ∧ a.method = .hard)
    let ends : List (Phase × Instr) := [(.settle, .settleExpiry n), (.press, .pressEnd n), (.awaitUp, .awaitUpExpiry n),
      (.awaitDown, .awaitDownExpiry n), (.hold, .holdEnd n), (.cutCheck, .cutCheckExpiry n), (.dwell, .dwellExpiry n),
      (.pulse, .pulseEnd n)]
    ∀ e ∈ ends, (a.phase ≠ e.1 → exec e.2 s = .next s) ∧
      (a.phase = e.1 → ∃ t, exec e.2 s = .next t ∧ t.clock.ticks = max s.clock.ticks a.ends ∧
        (∀ k, k ≠ n → t.nd k = s.nd k) ∧
        t = { s with nodes := t.nodes, clock := t.clock, free := t.free, entries := t.entries, lru := t.lru } ∧
        (a.phase = .settle → t.GoesOn n x a q ab .press y.press) ∧
        (a.phase = .press → ab = false → a.onPart = true → t.GoesOn n x a q ab .awaitUp y.startWait) ∧
        (a.phase = .press → ab = false → a.onPart = false → t.GoesOn n x a q ab .awaitDown y.softOffWait) ∧
        (a.phase = .hold → ab = false → t.GoesOn n x a q ab .awaitDown y.hardOffCheck) ∧
        ((a.phase = .press ∨ a.phase = .hold) → ab = true → t.ActionEnded n x a q .aborted) ∧
        (a.phase = .awaitUp → t.ActionLocked n x a q .startTimeout) ∧
        (a.phase = .cutCheck → t.ActionLocked n x a q .cutIneffective) ∧
        (a.phase = .awaitDown → afterHold → t.ActionLocked n x a q .holdIneffective) ∧
        (a.phase = .awaitDown → ¬afterHold → (a.kind = .cycle ∨ (s.set n).choices.escalation = .hard) →
          t.GoesOn n x { a with escalated := true } q ab .hold y.hold) ∧
        (a.phase = .awaitDown → ¬afterHold → a.kind ≠ .cycle → (s.set n).choices.escalation = .none →
          t.ActionEnded n x a q .failed) ∧
        (let on := { a with onPart := true }
         let fed : Node := { x with line := (t.nd n).line, power := { p with feedCut := false } }
         (a.phase = .dwell → s.condition n = .off → t.GoesOn n x on q ab .press y.press) ∧
         (a.phase = .dwell → s.condition n = .cut → p.pg ≠ .high → t.GoesOn n fed on q ab .settle y.settle) ∧
         (a.phase = .dwell → p.pg = .high →
           t.ActionEnded n { fed with live := x.live.followed (s.condition n) .on (t.graceFrom n) } a q .done)) ∧
        (let boots := a.phase = .pulse ∧ a.kind = .reset
         let booted : Node := { x.booted (s.set n).delivery.mask (t.graceFrom n) with
           line := (t.nd n).line, media := (t.nd n).media, cache := (t.nd n).cache }
         (a.phase = .pulse → t.ActionEnded n (if boots then booted else x) a q (if ab then .aborted else .done)) ∧
         (t.nd n).power.boot = (if boots then p.boot + 1 else p.boot) ∧ s.OnceJudged t n boots ∧
         ((a.phase = .dwell → q = none ∨ p.pg ≠ .high) →
           s.LineFollowed t n (if boots then s.lineBooted n else x.line))))

/-- A change of PG_SENSEn starts, restarts or stops the debounce interval, and with a debounce time of 0 is accepted at
once; the end of the interval accepts the level (R127). The first acceptance after a part reset is no boot event (R151). A
rise records PG_UP and is a boot event: the boot number grows by one, match progress and once-per-boot flags are cleared, an
AUTO line with rearm on hunts, a ONCE medium is drained at the second boot event after its attach, and a dormant or active
monitor of a node that is ON enters GRACE, also where an action is current (R18, R53, R54, R85, R129, R154). At the first
acceptance of a high level a dormant monitor enters GRACE (R154, R166). The Line Unit follows the node out of CUT as a CYCLE
ends in DWELL, and into CUT and out of it where a queued action comes up (R24). A fall records PG_DOWN, and an active
monitor goes DORMANT. In the event index PG_UP stands with the boot number before the event, BOOT after it with the one just
reached, both at next_offset, and before the entries of the action that the change ends; the first acceptance records PG_UP
when the level is high and nothing when it is low (R32, R127, R129, R151). With no action current nothing more happens
(R130); a phase that the change does not end runs on (R141); one that it ends is ended as its action's rule says (R133 to
R139, R147), and its end, or the lock of a RESET that has dropped power, is then reported to the monitor, which acts on it while
the recovery outstanding flag is set: DONE and ABORTED take RECOVERING to GRACE, and the lock leads from DORMANT to EXHAUSTED
(R142, R161). In each case nothing else of the node changes. The clock of the acceptance and the tick from which an interval
counts, what a pin does in reset, that nothing happens where no interval runs, and that a warning DIAG is not reported as a
recovery, are the model's choice (notes/assumptions/2.md, 3.md, 25.md, 28.md, 32.md). ACTION_END records kind and result and
names the source (R142), the last in no byte of a frame (notes/assumptions/35.md). -/
def Obligations.PowerGoodIsAccepted : Prop :=
  (∀ (s : State) (n : NodeId) (high : Bool), (s.nd n).power.sense = high → exec (.pgSenseChange n high) s = .next s) ∧
  (∀ (s : State) (n : NodeId) (high : Bool), (s.nd n).power.sense ≠ high →
    let p := (s.nd n).power
    let u := fun (d : Option Nat) => s.setNd n { s.nd n with power := { p with sense := high, debounce := d } }
    let differs := p.pg = .settling ∨ (p.pg = .low ∧ high = true) ∨ (p.pg = .high ∧ high = false)
    (s.held = true → exec (.pgSenseChange n high) s = .next (u p.debounce)) ∧
    (s.held = false → ¬differs → exec (.pgSenseChange n high) s = .next (u none)) ∧
    (s.held = false → differs → (s.set n).timings.debounce ≠ 0 →
      exec (.pgSenseChange n high) s = .next (u (some (s.clock.ticks + (s.set n).timings.debounce)))) ∧
    (s.held = false → differs → (s.set n).timings.debounce = 0 →
      exec (.pgSenseChange n high) s = exec (.pgAccepted n) (u (some s.clock.ticks)))) ∧
  (∀ (s : State) (n : NodeId), (s.nd n).power.debounce = none → exec (.pgAccepted n) s = .next s) ∧
  ∀ (s : State) (n : NodeId) (e : Nat), s.held = false → (s.nd n).power.debounce = some e →
    let x := s.nd n
    let p := x.power
    let mask := (s.set n).delivery.mask
    let rises := p.sense = true ∧ p.pg = .low
    let falls := p.sense = false ∧ p.pg = .high
    ∃ t, exec (.pgAccepted n) s = .next t ∧ t.clock.ticks = max s.clock.ticks e ∧
      (∀ k, k ≠ n → t.nd k = s.nd k) ∧
      t = { s with nodes := t.nodes, clock := t.clock, free := t.free, entries := t.entries, lru := t.lru } ∧
      s.OnceJudged t n rises ∧
      ((∀ a q ab, p.ctrl = .acting a q ab → a.phase = .dwell → q = none ∨ p.feedCut = false) →
        s.LineFollowed t n (if rises then s.lineBooted n else x.line)) ∧
      let g := t.graceFrom n
      let accepted := x.accepted p.sense
      let up := x.hist.record mask p.boot .pgUp 0
      let rose : Node := { ({ accepted with hist := up } : Node).booted mask g with
        line := (t.nd n).line, media := (t.nd n).media, cache := (t.nd n).cache }
      let fell : Node := { accepted with
        hist := x.hist.record mask p.boot .pgDown 0
        live := x.live.followed (s.condition n) accepted.power.condition g }
      (p.pg = .settling → t.nd n = { accepted with
        hist := if p.sense then up else x.hist
        live := x.live.followed (s.condition n) accepted.power.condition g }) ∧
      (p.pg ≠ .settling → ¬rises → ¬falls → t.nd n = { x with power := { p with debounce := none } }) ∧
      ((∀ a q ab, p.ctrl ≠ .acting a q ab) → (rises → t.nd n = rose) ∧ (falls → t.nd n = fell)) ∧
      ∀ a q ab, p.ctrl = .acting a q ab →
        let upEnds := a.phase = .settle ∨ a.phase = .awaitUp ∨ a.phase = .dwell ∨ (a.phase = .press ∧ a.onPart = true)
        let downEnds := (a.phase = .press ∧ a.onPart = false) ∨ a.phase = .awaitDown ∨ a.phase = .hold ∨
          a.phase = .cutCheck ∨ (a.phase = .pulse ∧ a.kind = .reset)
        let fed : Node := { rose with power := { rose.power with feedCut := false }, live := rose.live.followed .cut .on g }
        (rises → ¬upEnds → t.nd n = rose) ∧
        (falls → ¬downEnds → t.nd n = fell) ∧
        (rises → upEnds → ab = true → t.ActionEnded n rose a q .aborted) ∧
        (rises → upEnds → ab = false →
          t.ActionEnded n (if a.phase = .dwell ∧ p.feedCut = true then fed else rose) a q .done) ∧
        (falls → downEnds → ab = true → t.ActionEnded n fell a q .aborted) ∧
        (falls → downEnds → ab = false → a.kind = .reset → t.ActionLocked n fell a q .resetDroppedPower) ∧
        (falls → downEnds → ab = false → a.kind = .cycle → t.GoesOn n fell a q ab .dwell (s.set n).timings.dwell) ∧
        (falls → downEnds → ab = false → a.kind ≠ .reset → a.kind ≠ .cycle → t.ActionEnded n fell a q .done)

/-! ### Liveness -/

/-- LIV_SET clamps each period and the maximum, clears undefined mask bits, answers ADJUSTED when it changed a value, and
replaces all nine settings; an unlisted action code is refused and changes nothing (R152). Turned on from DISABLED the
monitor enters GRACE on a node that is ON and DORMANT otherwise; turned off it is DISABLED with its count 0 and its flag
clear; else it keeps its state, and the count is lowered to a smaller maximum (R153). LIV_CLEAR sets the count to 0;
EXHAUSTED is left for GRACE or DORMANT, any other state stays; DISABLED refuses BAD_STATE (R162). Which fields of a
refused reply report state and which an outcome (R195) is the model's reading (notes/assumptions/23.md), and so is the tick
from which a period counts (notes/assumptions/28.md). -/
def Obligations.LivSetAndClear : Prop :=
  (∀ (s : State) (tag : Byte) (n : NodeId) (p : List Byte), s.takes (nodeFrame 0x38 tag n p) = true → p.length = 15 →
    let f := nodeFrame 0x38 tag n p
    let l := (s.nd n).live
    let v := fun pos k lo hi => min hi (max lo (fieldAt p pos k))
    ∃ t, exec (.livSet tag n.toByte p) s = .next t ∧
      ((1 < byteAt p 12 ∨ 2 < byteAt p 13) → s.OnlyLink t ∧
        s.Replied t f { result := .badParam, fields := List.replicate 15 0 ++ [l.monitor.code, BitVec.ofNat 8 l.recoveries] }) ∧
      (byteAt p 12 ≤ 1 → byteAt p 13 ≤ 2 → s.OnlyNodeSetAndLink t n ∧
        t.nd n = { s.nd n with live := (t.nd n).live } ∧
        ∃ x : LiveSettings, t.set n = { s.set n with live := x } ∧ x.enable = (byteAt p 0).getLsbD 0 ∧
          x.timeout = v 1 2 1 3600 ∧ x.warn = v 3 2 1 600 ∧ x.grace = v 5 2 10 3600 ∧ x.stable = v 7 4 60 86400 ∧
          x.maxRecoveries = v 11 1 1 8 ∧ x.warning.code = byteAt p 12 ∧ x.recovery.code = byteAt p 13 ∧
          x.kicks = byteAt p 14 &&& 0x0F ∧
          s.Replied t f
            { result := if x.layout.tail = p.tail then .ok else .adjusted
              fields := x.layout ++ [(t.nd n).live.monitor.code, BitVec.ofNat 8 (t.nd n).live.recoveries] } ∧
          (x.enable = false → (t.nd n).live = { l with
            monitor := .disabled, recoveries := 0, outstanding := false
            statePending := l.statePending || decide (l.monitor ≠ .disabled) }) ∧
          (x.enable = true → l.monitor ≠ .disabled →
            (t.nd n).live = { l with recoveries := min l.recoveries x.maxRecoveries }) ∧
          (x.enable = true → l.monitor = .disabled → (t.nd n).live = { l with
            monitor := if s.condition n = .on then .grace (s.clock.ticks + 1000 * x.grace) else .dormant
            statePending := true }))) ∧
  (∀ (s : State) (tag : Byte) (n : NodeId), s.takes (nodeFrame 0x3A tag n []) = true →
    let f := nodeFrame 0x3A tag n []
    let l := (s.nd n).live
    ∃ t, exec (.livClear tag n.toByte []) s = .next t ∧
      (l.monitor = .disabled → s.OnlyLink t ∧
        s.Replied t f { result := .badState, fields := [0, BitVec.ofNat 8 l.recoveries] }) ∧
      (l.monitor ≠ .disabled → s.OnlyNodeAndLink t n ∧
        s.Replied t f { result := .ok, fields := [(t.nd n).live.monitor.code, 0] } ∧
        (t.nd n) = { s.nd n with live := { l with recoveries := 0, statePending := true, monitor := (t.nd n).live.monitor } } ∧
        ((∀ c, l.monitor ≠ .exhausted c) → (t.nd n).live.monitor = l.monitor) ∧
        (∀ c, l.monitor = .exhausted c → (t.nd n).live.monitor =
          if s.condition n = .on then .grace (s.clock.ticks + 1000 * (s.set n).live.grace) else .dormant)))

/-- Kicks and periods. A kick whose source is in the mask, in GRACE, WATCHING or WARNED, leads to WATCHING with the
timeout started, keeping the stable deadline in WATCHING and setting a new one from elsewhere: LIV_KICK, which reports
whether it counted, an accepted level of HBn, a console byte and a KICK action of a watch pattern alike, each by its bit of
the mask (R56, R155 to R159, R163). HBn is filtered for 1 ms, and the first level accepted is no kick. GRACE expires into
WATCHING; the timeout into WARNED, with a DIAG submitted under NOTICE_DIAG; the stable deadline clears the count. The warn
period exhausts the monitor at the maximum, without a recovery action, or with the controller LOCKED; defers while an
action is current; and submits the recovery otherwise (R156 to R162). The clock comes to each expiry, and nothing happens
where none is due; periods count from the tick in progress; and in reset HBn changes its pin alone. These are the model's
choice (notes/assumptions/2.md, 3.md, 25.md, 28.md). -/
def Obligations.KicksAndPeriodsMoveTheMonitor : Prop :=
  (∀ (s : State) (n : NodeId), ∀ k ∈ [(KickSource.hb, 0), (.console, 1), (.watch, 2), (.link, 3)],
    let l := (s.nd n).live
    let x := (s.set n).live
    let watching := fun d p => s.setNd n { s.nd n with live := { l with
      monitor := .watching (s.clock.ticks + 1000 * x.timeout) d, statePending := p } }
    (x.kicks.getLsbD k.2 = false → s.kick n k.1 = s) ∧
    ((∀ e d, l.monitor ≠ .grace e ∧ l.monitor ≠ .watching e d ∧ l.monitor ≠ .warned e) → s.kick n k.1 = s) ∧
    (x.kicks.getLsbD k.2 = true →
      (∀ e d, l.monitor = .watching e d → s.kick n k.1 = watching d l.statePending) ∧
      (∀ e, (l.monitor = .grace e ∨ l.monitor = .warned e) →
        s.kick n k.1 = watching (some (s.clock.ticks + 1000 * x.stable)) true))) ∧
  (∀ (s : State) (tag : Byte) (n : NodeId), s.takes (nodeFrame 0x39 tag n []) = true →
    let l := (s.nd n).live
    let x := (s.set n).live
    let counts := x.kicks.getLsbD 3 = true ∧ ((∃ e, l.monitor = .grace e) ∨ (∃ e d, l.monitor = .watching e d) ∨
      ∃ e, l.monitor = .warned e)
    let now := s.clock.ticks
    ∃ t, exec (.livKick tag n.toByte []) s = .next t ∧ s.OnlyNodeAndLink t n ∧
      (¬counts → t.nd n = s.nd n ∧ s.Replied t (nodeFrame 0x39 tag n []) { result := .ok
                                                                           fields := 0 :: l.monitor.code ::
                                                                             s.remainingField 0 l.monitor.period.2 }) ∧
      (counts → s.Replied t (nodeFrame 0x39 tag n [])
          { result := .ok, fields := 1 :: 3 :: leBytes 4 (1000 * x.timeout) } ∧
        (∀ e d, l.monitor = .watching e d →
          t.nd n = { s.nd n with live := { l with monitor := .watching (now + 1000 * x.timeout) d } }) ∧
        ((∀ e d, l.monitor ≠ .watching e d) → t.nd n = { s.nd n with live := { l with
          monitor := .watching (now + 1000 * x.timeout) (some (now + 1000 * x.stable)), statePending := true } }))) ∧
  (∀ (s : State) (n : NodeId) (high : Bool),
    let l := (s.nd n).live
    let differs := l.hb = .settling ∨ (l.hb = .low ∧ high = true) ∨ (l.hb = .high ∧ high = false)
    (l.hbPin = high → exec (.hbInputChange n high) s = .next s) ∧
    (l.hbPin ≠ high → exec (.hbInputChange n high) s = .next (s.setNd n { s.nd n with live := { l with
      hbPin := high
      hbFilter := if s.held then l.hbFilter else if differs then some (s.clock.ticks + 1) else none } }))) ∧
  (∀ (s : State) (n : NodeId), (s.nd n).live.hbFilter = none → exec (.hbLevelAccepted n) s = .next s) ∧
  (∀ (s : State) (n : NodeId) (e : Nat), s.held = false → (s.nd n).live.hbFilter = some e →
    let l := (s.nd n).live
    ∃ t, exec (.hbLevelAccepted n) s = .next t ∧ t.clock.ticks = max s.clock.ticks e ∧ s.OnlyNodeAndClock t n ∧
      (t.nd n).live.hb = (if l.hbPin then .high else .low) ∧ (t.nd n).live.hbFilter = none ∧
      t.nd n = { s.nd n with live := (t.nd n).live } ∧
      (l.hb = .settling ∨ (s.set n).live.kicks.getLsbD 0 = false → (t.nd n).live.monitor = l.monitor) ∧
      (l.hb ≠ .settling → (s.set n).live.kicks.getLsbD 0 = true → ∀ w, (l.monitor = .warned w ∨ l.monitor = .grace w) →
        (t.nd n).live.monitor = .watching (t.clock.ticks + 1000 * (s.set n).live.timeout)
          (some (t.clock.ticks + 1000 * (s.set n).live.stable))) ∧
      (l.hb ≠ .settling → (s.set n).live.kicks.getLsbD 0 = true → ∀ w d, l.monitor = .watching w d →
        (t.nd n).live.monitor = .watching (t.clock.ticks + 1000 * (s.set n).live.timeout) d)) ∧
  ∀ (s : State) (n : NodeId), s.held = false →
    let l := (s.nd n).live
    let x := (s.set n).live
    ((∀ e, l.monitor ≠ .grace e) → exec (.graceExpiry n) s = .next s) ∧
    ((∀ e d, l.monitor ≠ .watching e d) → exec (.timeoutExpiry n) s = .next s) ∧
    ((∀ e, l.monitor ≠ .warned e) → exec (.warnExpiry n) s = .next s) ∧
    ((∀ e d, l.monitor ≠ .watching e (some d)) → exec (.stableDeadlineExpiry n) s = .next s) ∧
    (∀ e, l.monitor = .grace e → ∃ t, exec (.graceExpiry n) s = .next t ∧ t.clock.ticks = max s.clock.ticks e ∧
      s.OnlyNodeAndClock t n ∧ t.nd n = { s.nd n with live := { l with
        monitor := .watching (t.clock.ticks + 1000 * x.timeout) (some (t.clock.ticks + 1000 * x.stable))
        statePending := true } }) ∧
    (∀ e d, l.monitor = .watching e (some d) → ∃ t, exec (.stableDeadlineExpiry n) s = .next t ∧
      t.clock.ticks = max s.clock.ticks d ∧ s.OnlyNodeAndClock t n ∧ t.nd n = { s.nd n with live := { l with
        recoveries := 0, statePending := true, monitor := .watching e none } }) ∧
    (∀ e d, l.monitor = .watching e d → ∃ t, exec (.timeoutExpiry n) s = .next t ∧
      t.clock.ticks = max s.clock.ticks e ∧
      let u := { s.setNd n { s.nd n with live := { l with
        monitor := .warned (t.clock.ticks + 1000 * x.warn)
        warnings := min 255 (l.warnings + 1)
        statePending := true } } with clock := t.clock }
      (x.warning = .notice → t = u) ∧ (x.warning = .noticeDiag → t = u.submit n .diag .liveness)) ∧
    (∀ e, l.monitor = .warned e → ∃ t, exec (.warnExpiry n) s = .next t ∧ t.clock.ticks = max s.clock.ticks e ∧
      let becomes := fun (y : Live) => t = { s.setNd n { s.nd n with live := { y with statePending := true } } with
        clock := t.clock }
      (l.recoveries = x.maxRecoveries → becomes { l with monitor := .exhausted .maxReached }) ∧
      (l.recoveries ≠ x.maxRecoveries → x.recovery = .none → becomes { l with monitor := .exhausted .noRecovery }) ∧
      (l.recoveries ≠ x.maxRecoveries → x.recovery ≠ .none →
        (∀ c, (s.nd n).power.ctrl = .locked c → becomes { l with monitor := .exhausted .controllerLocked }) ∧
        (∀ a q ab, (s.nd n).power.ctrl = .acting a q ab → becomes { l with
          monitor := .grace (t.clock.ticks + 1000 * x.grace), deferrals := min 255 (l.deferrals + 1) }) ∧
        ((s.nd n).power.ctrl = .idle → t = ({ s.setNd n { s.nd n with live := { l with
            monitor := .recovering, recoveries := l.recoveries + 1, outstanding := true, statePending := true } } with
              clock := t.clock } : State).submit n (if x.recovery = .reset then .reset else .cycle) .liveness)))
end

