-- ==== Sys2Proof/Laws/State.lean ====
section
/-! SUPPORT. What each named update of the state leaves in each field: one lemma per field per update, so that no later
proof unfolds a record update. -/

namespace Sys2Proof.Machine

variable (s : State)

/-! ### setNd -/

@[simp] theorem State.setNd_held (n : NodeId) (x : Node) : (s.setNd n x).held = s.held := rfl
@[simp] theorem State.setNd_resetCause (n : NodeId) (x : Node) : (s.setNd n x).resetCause = s.resetCause := rfl
@[simp] theorem State.setNd_restartDefaults (n : NodeId) (x : Node) : (s.setNd n x).restartDefaults = s.restartDefaults := rfl
@[simp] theorem State.setNd_linkRate (n : NodeId) (x : Node) : (s.setNd n x).linkRate = s.linkRate := rfl
@[simp] theorem State.setNd_clock (n : NodeId) (x : Node) : (s.setNd n x).clock = s.clock := rfl
@[simp] theorem State.setNd_cfg (n : NodeId) (x : Node) : (s.setNd n x).cfg = s.cfg := rfl
@[simp] theorem State.setNd_free (n : NodeId) (x : Node) : (s.setNd n x).free = s.free := rfl
@[simp] theorem State.setNd_entries (n : NodeId) (x : Node) : (s.setNd n x).entries = s.entries := rfl
@[simp] theorem State.setNd_lru (n : NodeId) (x : Node) : (s.setNd n x).lru = s.lru := rfl
@[simp] theorem State.setNd_mem (n : NodeId) (x : Node) : (s.setNd n x).mem = s.mem := rfl
@[simp] theorem State.setNd_link (n : NodeId) (x : Node) : (s.setNd n x).link = s.link := rfl
@[simp] theorem State.setNd_store (n : NodeId) (x : Node) : (s.setNd n x).store = s.store := rfl
@[simp] theorem State.setNd_pending (n : NodeId) (x : Node) : (s.setNd n x).pending = s.pending := rfl
@[simp] theorem State.setNd_pauses (n : NodeId) (x : Node) : (s.setNd n x).pauses = s.pauses := rfl

/-! ### mapLine -/

@[simp] theorem State.mapLine_held (n : NodeId) (f : Line → Line) : (s.mapLine n f).held = s.held := rfl
@[simp] theorem State.mapLine_resetCause (n : NodeId) (f : Line → Line) : (s.mapLine n f).resetCause = s.resetCause := rfl
@[simp] theorem State.mapLine_restartDefaults (n : NodeId) (f : Line → Line) : (s.mapLine n f).restartDefaults = s.restartDefaults := rfl
@[simp] theorem State.mapLine_linkRate (n : NodeId) (f : Line → Line) : (s.mapLine n f).linkRate = s.linkRate := rfl
@[simp] theorem State.mapLine_clock (n : NodeId) (f : Line → Line) : (s.mapLine n f).clock = s.clock := rfl
@[simp] theorem State.mapLine_cfg (n : NodeId) (f : Line → Line) : (s.mapLine n f).cfg = s.cfg := rfl
@[simp] theorem State.mapLine_free (n : NodeId) (f : Line → Line) : (s.mapLine n f).free = s.free := rfl
@[simp] theorem State.mapLine_entries (n : NodeId) (f : Line → Line) : (s.mapLine n f).entries = s.entries := rfl
@[simp] theorem State.mapLine_lru (n : NodeId) (f : Line → Line) : (s.mapLine n f).lru = s.lru := rfl
@[simp] theorem State.mapLine_mem (n : NodeId) (f : Line → Line) : (s.mapLine n f).mem = s.mem := rfl
@[simp] theorem State.mapLine_link (n : NodeId) (f : Line → Line) : (s.mapLine n f).link = s.link := rfl
@[simp] theorem State.mapLine_store (n : NodeId) (f : Line → Line) : (s.mapLine n f).store = s.store := rfl
@[simp] theorem State.mapLine_pending (n : NodeId) (f : Line → Line) : (s.mapLine n f).pending = s.pending := rfl
@[simp] theorem State.mapLine_pauses (n : NodeId) (f : Line → Line) : (s.mapLine n f).pauses = s.pauses := rfl

/-! ### mapHist -/

@[simp] theorem State.mapHist_held (n : NodeId) (f : History → History) : (s.mapHist n f).held = s.held := rfl
@[simp] theorem State.mapHist_resetCause (n : NodeId) (f : History → History) : (s.mapHist n f).resetCause = s.resetCause := rfl
@[simp] theorem State.mapHist_restartDefaults (n : NodeId) (f : History → History) : (s.mapHist n f).restartDefaults = s.restartDefaults := rfl
@[simp] theorem State.mapHist_linkRate (n : NodeId) (f : History → History) : (s.mapHist n f).linkRate = s.linkRate := rfl
@[simp] theorem State.mapHist_clock (n : NodeId) (f : History → History) : (s.mapHist n f).clock = s.clock := rfl
@[simp] theorem State.mapHist_cfg (n : NodeId) (f : History → History) : (s.mapHist n f).cfg = s.cfg := rfl
@[simp] theorem State.mapHist_free (n : NodeId) (f : History → History) : (s.mapHist n f).free = s.free := rfl
@[simp] theorem State.mapHist_entries (n : NodeId) (f : History → History) : (s.mapHist n f).entries = s.entries := rfl
@[simp] theorem State.mapHist_lru (n : NodeId) (f : History → History) : (s.mapHist n f).lru = s.lru := rfl
@[simp] theorem State.mapHist_mem (n : NodeId) (f : History → History) : (s.mapHist n f).mem = s.mem := rfl
@[simp] theorem State.mapHist_link (n : NodeId) (f : History → History) : (s.mapHist n f).link = s.link := rfl
@[simp] theorem State.mapHist_store (n : NodeId) (f : History → History) : (s.mapHist n f).store = s.store := rfl
@[simp] theorem State.mapHist_pending (n : NodeId) (f : History → History) : (s.mapHist n f).pending = s.pending := rfl
@[simp] theorem State.mapHist_pauses (n : NodeId) (f : History → History) : (s.mapHist n f).pauses = s.pauses := rfl

/-! ### mapWatch -/

@[simp] theorem State.mapWatch_held (n : NodeId) (f : List Place → List Place) : (s.mapWatch n f).held = s.held := rfl
@[simp] theorem State.mapWatch_resetCause (n : NodeId) (f : List Place → List Place) : (s.mapWatch n f).resetCause = s.resetCause := rfl
@[simp] theorem State.mapWatch_restartDefaults (n : NodeId) (f : List Place → List Place) : (s.mapWatch n f).restartDefaults = s.restartDefaults := rfl
@[simp] theorem State.mapWatch_linkRate (n : NodeId) (f : List Place → List Place) : (s.mapWatch n f).linkRate = s.linkRate := rfl
@[simp] theorem State.mapWatch_clock (n : NodeId) (f : List Place → List Place) : (s.mapWatch n f).clock = s.clock := rfl
@[simp] theorem State.mapWatch_cfg (n : NodeId) (f : List Place → List Place) : (s.mapWatch n f).cfg = s.cfg := rfl
@[simp] theorem State.mapWatch_free (n : NodeId) (f : List Place → List Place) : (s.mapWatch n f).free = s.free := rfl
@[simp] theorem State.mapWatch_entries (n : NodeId) (f : List Place → List Place) : (s.mapWatch n f).entries = s.entries := rfl
@[simp] theorem State.mapWatch_lru (n : NodeId) (f : List Place → List Place) : (s.mapWatch n f).lru = s.lru := rfl
@[simp] theorem State.mapWatch_mem (n : NodeId) (f : List Place → List Place) : (s.mapWatch n f).mem = s.mem := rfl
@[simp] theorem State.mapWatch_link (n : NodeId) (f : List Place → List Place) : (s.mapWatch n f).link = s.link := rfl
@[simp] theorem State.mapWatch_store (n : NodeId) (f : List Place → List Place) : (s.mapWatch n f).store = s.store := rfl
@[simp] theorem State.mapWatch_pending (n : NodeId) (f : List Place → List Place) : (s.mapWatch n f).pending = s.pending := rfl
@[simp] theorem State.mapWatch_pauses (n : NodeId) (f : List Place → List Place) : (s.mapWatch n f).pauses = s.pauses := rfl

/-! ### mapMedia -/

@[simp] theorem State.mapMedia_held (n : NodeId) (f : Media → Media) : (s.mapMedia n f).held = s.held := rfl
@[simp] theorem State.mapMedia_resetCause (n : NodeId) (f : Media → Media) : (s.mapMedia n f).resetCause = s.resetCause := rfl
@[simp] theorem State.mapMedia_restartDefaults (n : NodeId) (f : Media → Media) : (s.mapMedia n f).restartDefaults = s.restartDefaults := rfl
@[simp] theorem State.mapMedia_linkRate (n : NodeId) (f : Media → Media) : (s.mapMedia n f).linkRate = s.linkRate := rfl
@[simp] theorem State.mapMedia_clock (n : NodeId) (f : Media → Media) : (s.mapMedia n f).clock = s.clock := rfl
@[simp] theorem State.mapMedia_cfg (n : NodeId) (f : Media → Media) : (s.mapMedia n f).cfg = s.cfg := rfl
@[simp] theorem State.mapMedia_free (n : NodeId) (f : Media → Media) : (s.mapMedia n f).free = s.free := rfl
@[simp] theorem State.mapMedia_entries (n : NodeId) (f : Media → Media) : (s.mapMedia n f).entries = s.entries := rfl
@[simp] theorem State.mapMedia_lru (n : NodeId) (f : Media → Media) : (s.mapMedia n f).lru = s.lru := rfl
@[simp] theorem State.mapMedia_mem (n : NodeId) (f : Media → Media) : (s.mapMedia n f).mem = s.mem := rfl
@[simp] theorem State.mapMedia_link (n : NodeId) (f : Media → Media) : (s.mapMedia n f).link = s.link := rfl
@[simp] theorem State.mapMedia_store (n : NodeId) (f : Media → Media) : (s.mapMedia n f).store = s.store := rfl
@[simp] theorem State.mapMedia_pending (n : NodeId) (f : Media → Media) : (s.mapMedia n f).pending = s.pending := rfl
@[simp] theorem State.mapMedia_pauses (n : NodeId) (f : Media → Media) : (s.mapMedia n f).pauses = s.pauses := rfl

/-! ### mapCache -/

@[simp] theorem State.mapCache_held (n : NodeId) (f : NodeCache → NodeCache) : (s.mapCache n f).held = s.held := rfl
@[simp] theorem State.mapCache_resetCause (n : NodeId) (f : NodeCache → NodeCache) : (s.mapCache n f).resetCause = s.resetCause := rfl
@[simp] theorem State.mapCache_restartDefaults (n : NodeId) (f : NodeCache → NodeCache) : (s.mapCache n f).restartDefaults = s.restartDefaults := rfl
@[simp] theorem State.mapCache_linkRate (n : NodeId) (f : NodeCache → NodeCache) : (s.mapCache n f).linkRate = s.linkRate := rfl
@[simp] theorem State.mapCache_clock (n : NodeId) (f : NodeCache → NodeCache) : (s.mapCache n f).clock = s.clock := rfl
@[simp] theorem State.mapCache_cfg (n : NodeId) (f : NodeCache → NodeCache) : (s.mapCache n f).cfg = s.cfg := rfl
@[simp] theorem State.mapCache_free (n : NodeId) (f : NodeCache → NodeCache) : (s.mapCache n f).free = s.free := rfl
@[simp] theorem State.mapCache_entries (n : NodeId) (f : NodeCache → NodeCache) : (s.mapCache n f).entries = s.entries := rfl
@[simp] theorem State.mapCache_lru (n : NodeId) (f : NodeCache → NodeCache) : (s.mapCache n f).lru = s.lru := rfl
@[simp] theorem State.mapCache_mem (n : NodeId) (f : NodeCache → NodeCache) : (s.mapCache n f).mem = s.mem := rfl
@[simp] theorem State.mapCache_link (n : NodeId) (f : NodeCache → NodeCache) : (s.mapCache n f).link = s.link := rfl
@[simp] theorem State.mapCache_store (n : NodeId) (f : NodeCache → NodeCache) : (s.mapCache n f).store = s.store := rfl
@[simp] theorem State.mapCache_pending (n : NodeId) (f : NodeCache → NodeCache) : (s.mapCache n f).pending = s.pending := rfl
@[simp] theorem State.mapCache_pauses (n : NodeId) (f : NodeCache → NodeCache) : (s.mapCache n f).pauses = s.pauses := rfl

/-! ### mapPower -/

@[simp] theorem State.mapPower_held (n : NodeId) (f : Power → Power) : (s.mapPower n f).held = s.held := rfl
@[simp] theorem State.mapPower_resetCause (n : NodeId) (f : Power → Power) : (s.mapPower n f).resetCause = s.resetCause := rfl
@[simp] theorem State.mapPower_restartDefaults (n : NodeId) (f : Power → Power) : (s.mapPower n f).restartDefaults = s.restartDefaults := rfl
@[simp] theorem State.mapPower_linkRate (n : NodeId) (f : Power → Power) : (s.mapPower n f).linkRate = s.linkRate := rfl
@[simp] theorem State.mapPower_clock (n : NodeId) (f : Power → Power) : (s.mapPower n f).clock = s.clock := rfl
@[simp] theorem State.mapPower_cfg (n : NodeId) (f : Power → Power) : (s.mapPower n f).cfg = s.cfg := rfl
@[simp] theorem State.mapPower_free (n : NodeId) (f : Power → Power) : (s.mapPower n f).free = s.free := rfl
@[simp] theorem State.mapPower_entries (n : NodeId) (f : Power → Power) : (s.mapPower n f).entries = s.entries := rfl
@[simp] theorem State.mapPower_lru (n : NodeId) (f : Power → Power) : (s.mapPower n f).lru = s.lru := rfl
@[simp] theorem State.mapPower_mem (n : NodeId) (f : Power → Power) : (s.mapPower n f).mem = s.mem := rfl
@[simp] theorem State.mapPower_link (n : NodeId) (f : Power → Power) : (s.mapPower n f).link = s.link := rfl
@[simp] theorem State.mapPower_store (n : NodeId) (f : Power → Power) : (s.mapPower n f).store = s.store := rfl
@[simp] theorem State.mapPower_pending (n : NodeId) (f : Power → Power) : (s.mapPower n f).pending = s.pending := rfl
@[simp] theorem State.mapPower_pauses (n : NodeId) (f : Power → Power) : (s.mapPower n f).pauses = s.pauses := rfl

/-! ### mapLive -/

@[simp] theorem State.mapLive_held (n : NodeId) (f : Live → Live) : (s.mapLive n f).held = s.held := rfl
@[simp] theorem State.mapLive_resetCause (n : NodeId) (f : Live → Live) : (s.mapLive n f).resetCause = s.resetCause := rfl
@[simp] theorem State.mapLive_restartDefaults (n : NodeId) (f : Live → Live) : (s.mapLive n f).restartDefaults = s.restartDefaults := rfl
@[simp] theorem State.mapLive_linkRate (n : NodeId) (f : Live → Live) : (s.mapLive n f).linkRate = s.linkRate := rfl
@[simp] theorem State.mapLive_clock (n : NodeId) (f : Live → Live) : (s.mapLive n f).clock = s.clock := rfl
@[simp] theorem State.mapLive_cfg (n : NodeId) (f : Live → Live) : (s.mapLive n f).cfg = s.cfg := rfl
@[simp] theorem State.mapLive_free (n : NodeId) (f : Live → Live) : (s.mapLive n f).free = s.free := rfl
@[simp] theorem State.mapLive_entries (n : NodeId) (f : Live → Live) : (s.mapLive n f).entries = s.entries := rfl
@[simp] theorem State.mapLive_lru (n : NodeId) (f : Live → Live) : (s.mapLive n f).lru = s.lru := rfl
@[simp] theorem State.mapLive_mem (n : NodeId) (f : Live → Live) : (s.mapLive n f).mem = s.mem := rfl
@[simp] theorem State.mapLive_link (n : NodeId) (f : Live → Live) : (s.mapLive n f).link = s.link := rfl
@[simp] theorem State.mapLive_store (n : NodeId) (f : Live → Live) : (s.mapLive n f).store = s.store := rfl
@[simp] theorem State.mapLive_pending (n : NodeId) (f : Live → Live) : (s.mapLive n f).pending = s.pending := rfl
@[simp] theorem State.mapLive_pauses (n : NodeId) (f : Live → Live) : (s.mapLive n f).pauses = s.pauses := rfl

/-! ### mapLink -/

@[simp] theorem State.mapLink_held (f : Link → Link) : (s.mapLink f).held = s.held := rfl
@[simp] theorem State.mapLink_resetCause (f : Link → Link) : (s.mapLink f).resetCause = s.resetCause := rfl
@[simp] theorem State.mapLink_restartDefaults (f : Link → Link) : (s.mapLink f).restartDefaults = s.restartDefaults := rfl
@[simp] theorem State.mapLink_linkRate (f : Link → Link) : (s.mapLink f).linkRate = s.linkRate := rfl
@[simp] theorem State.mapLink_clock (f : Link → Link) : (s.mapLink f).clock = s.clock := rfl
@[simp] theorem State.mapLink_cfg (f : Link → Link) : (s.mapLink f).cfg = s.cfg := rfl
@[simp] theorem State.mapLink_nodes (f : Link → Link) : (s.mapLink f).nodes = s.nodes := rfl
@[simp] theorem State.mapLink_free (f : Link → Link) : (s.mapLink f).free = s.free := rfl
@[simp] theorem State.mapLink_entries (f : Link → Link) : (s.mapLink f).entries = s.entries := rfl
@[simp] theorem State.mapLink_lru (f : Link → Link) : (s.mapLink f).lru = s.lru := rfl
@[simp] theorem State.mapLink_mem (f : Link → Link) : (s.mapLink f).mem = s.mem := rfl
@[simp] theorem State.mapLink_store (f : Link → Link) : (s.mapLink f).store = s.store := rfl
@[simp] theorem State.mapLink_pending (f : Link → Link) : (s.mapLink f).pending = s.pending := rfl
@[simp] theorem State.mapLink_pauses (f : Link → Link) : (s.mapLink f).pauses = s.pauses := rfl

/-! ### mapSet -/

@[simp] theorem State.mapSet_held (n : NodeId) (f : NodeSettings → NodeSettings) : (s.mapSet n f).held = s.held := rfl
@[simp] theorem State.mapSet_resetCause (n : NodeId) (f : NodeSettings → NodeSettings) : (s.mapSet n f).resetCause = s.resetCause := rfl
@[simp] theorem State.mapSet_restartDefaults (n : NodeId) (f : NodeSettings → NodeSettings) : (s.mapSet n f).restartDefaults = s.restartDefaults := rfl
@[simp] theorem State.mapSet_linkRate (n : NodeId) (f : NodeSettings → NodeSettings) : (s.mapSet n f).linkRate = s.linkRate := rfl
@[simp] theorem State.mapSet_clock (n : NodeId) (f : NodeSettings → NodeSettings) : (s.mapSet n f).clock = s.clock := rfl
@[simp] theorem State.mapSet_nodes (n : NodeId) (f : NodeSettings → NodeSettings) : (s.mapSet n f).nodes = s.nodes := rfl
@[simp] theorem State.mapSet_free (n : NodeId) (f : NodeSettings → NodeSettings) : (s.mapSet n f).free = s.free := rfl
@[simp] theorem State.mapSet_entries (n : NodeId) (f : NodeSettings → NodeSettings) : (s.mapSet n f).entries = s.entries := rfl
@[simp] theorem State.mapSet_lru (n : NodeId) (f : NodeSettings → NodeSettings) : (s.mapSet n f).lru = s.lru := rfl
@[simp] theorem State.mapSet_mem (n : NodeId) (f : NodeSettings → NodeSettings) : (s.mapSet n f).mem = s.mem := rfl
@[simp] theorem State.mapSet_link (n : NodeId) (f : NodeSettings → NodeSettings) : (s.mapSet n f).link = s.link := rfl
@[simp] theorem State.mapSet_store (n : NodeId) (f : NodeSettings → NodeSettings) : (s.mapSet n f).store = s.store := rfl
@[simp] theorem State.mapSet_pending (n : NodeId) (f : NodeSettings → NodeSettings) : (s.mapSet n f).pending = s.pending := rfl
@[simp] theorem State.mapSet_pauses (n : NodeId) (f : NodeSettings → NodeSettings) : (s.mapSet n f).pauses = s.pauses := rfl

/-! ### toTick -/

@[simp] theorem State.toTick_held (t : Nat) : (s.toTick t).held = s.held := rfl
@[simp] theorem State.toTick_resetCause (t : Nat) : (s.toTick t).resetCause = s.resetCause := rfl
@[simp] theorem State.toTick_restartDefaults (t : Nat) : (s.toTick t).restartDefaults = s.restartDefaults := rfl
@[simp] theorem State.toTick_linkRate (t : Nat) : (s.toTick t).linkRate = s.linkRate := rfl
@[simp] theorem State.toTick_cfg (t : Nat) : (s.toTick t).cfg = s.cfg := rfl
@[simp] theorem State.toTick_nodes (t : Nat) : (s.toTick t).nodes = s.nodes := rfl
@[simp] theorem State.toTick_free (t : Nat) : (s.toTick t).free = s.free := rfl
@[simp] theorem State.toTick_entries (t : Nat) : (s.toTick t).entries = s.entries := rfl
@[simp] theorem State.toTick_lru (t : Nat) : (s.toTick t).lru = s.lru := rfl
@[simp] theorem State.toTick_mem (t : Nat) : (s.toTick t).mem = s.mem := rfl
@[simp] theorem State.toTick_link (t : Nat) : (s.toTick t).link = s.link := rfl
@[simp] theorem State.toTick_store (t : Nat) : (s.toTick t).store = s.store := rfl
@[simp] theorem State.toTick_pending (t : Nat) : (s.toTick t).pending = s.pending := rfl
@[simp] theorem State.toTick_pauses (t : Nat) : (s.toTick t).pauses = s.pauses := rfl

/-! ### toCycle -/

@[simp] theorem State.toCycle_held (k : Nat) : (s.toCycle k).held = s.held := rfl
@[simp] theorem State.toCycle_resetCause (k : Nat) : (s.toCycle k).resetCause = s.resetCause := rfl
@[simp] theorem State.toCycle_restartDefaults (k : Nat) : (s.toCycle k).restartDefaults = s.restartDefaults := rfl
@[simp] theorem State.toCycle_linkRate (k : Nat) : (s.toCycle k).linkRate = s.linkRate := rfl
@[simp] theorem State.toCycle_cfg (k : Nat) : (s.toCycle k).cfg = s.cfg := rfl
@[simp] theorem State.toCycle_nodes (k : Nat) : (s.toCycle k).nodes = s.nodes := rfl
@[simp] theorem State.toCycle_free (k : Nat) : (s.toCycle k).free = s.free := rfl
@[simp] theorem State.toCycle_entries (k : Nat) : (s.toCycle k).entries = s.entries := rfl
@[simp] theorem State.toCycle_lru (k : Nat) : (s.toCycle k).lru = s.lru := rfl
@[simp] theorem State.toCycle_mem (k : Nat) : (s.toCycle k).mem = s.mem := rfl
@[simp] theorem State.toCycle_link (k : Nat) : (s.toCycle k).link = s.link := rfl
@[simp] theorem State.toCycle_store (k : Nat) : (s.toCycle k).store = s.store := rfl
@[simp] theorem State.toCycle_pending (k : Nat) : (s.toCycle k).pending = s.pending := rfl
@[simp] theorem State.toCycle_pauses (k : Nat) : (s.toCycle k).pauses = s.pauses := rfl

/-! ### The field each update writes -/

@[simp] theorem State.setNd_nodes (n : NodeId) (x : Node) : (s.setNd n x).nodes = s.nodes.set n x := rfl
@[simp] theorem State.mapLink_link (f : Link → Link) : (s.mapLink f).link = f s.link := rfl
@[simp] theorem State.mapSet_cfg (n : NodeId) (f : NodeSettings → NodeSettings) :
    (s.mapSet n f).cfg = { s.cfg with nodes := s.cfg.nodes.set n (f (s.set n)) } := rfl
@[simp] theorem State.toTick_clock (t : Nat) : (s.toTick t).clock = s.clock.toTick s.cfg.fref t := rfl
@[simp] theorem State.toCycle_clock (k : Nat) : (s.toCycle k).clock = s.clock.toCycle s.cfg.fref k := rfl

/-! ### What the updates of other parts leave of the nodes and the settings -/

@[simp] theorem State.set_setNd (n : NodeId) (x : Node) (m : NodeId) : (s.setNd n x).set m = s.set m := rfl
@[simp] theorem State.set_mapLine (n : NodeId) (f : Line → Line) (m : NodeId) : (s.mapLine n f).set m = s.set m := rfl
@[simp] theorem State.set_mapHist (n : NodeId) (f : History → History) (m : NodeId) : (s.mapHist n f).set m = s.set m := rfl
@[simp] theorem State.set_mapWatch (n : NodeId) (f : List Place → List Place) (m : NodeId) : (s.mapWatch n f).set m = s.set m := rfl
@[simp] theorem State.set_mapMedia (n : NodeId) (f : Media → Media) (m : NodeId) : (s.mapMedia n f).set m = s.set m := rfl
@[simp] theorem State.set_mapCache (n : NodeId) (f : NodeCache → NodeCache) (m : NodeId) : (s.mapCache n f).set m = s.set m := rfl
@[simp] theorem State.set_mapPower (n : NodeId) (f : Power → Power) (m : NodeId) : (s.mapPower n f).set m = s.set m := rfl
@[simp] theorem State.set_mapLive (n : NodeId) (f : Live → Live) (m : NodeId) : (s.mapLive n f).set m = s.set m := rfl
@[simp] theorem State.nd_mapLink (f : Link → Link) (m : NodeId) : (s.mapLink f).nd m = s.nd m := rfl
@[simp] theorem State.set_mapLink (f : Link → Link) (m : NodeId) : (s.mapLink f).set m = s.set m := rfl
@[simp] theorem State.nd_mapSet (n : NodeId) (f : NodeSettings → NodeSettings) (m : NodeId) : (s.mapSet n f).nd m = s.nd m := rfl
@[simp] theorem State.nd_toTick (t : Nat) (m : NodeId) : (s.toTick t).nd m = s.nd m := rfl
@[simp] theorem State.set_toTick (t : Nat) (m : NodeId) : (s.toTick t).set m = s.set m := rfl
@[simp] theorem State.nd_toCycle (k : Nat) (m : NodeId) : (s.toCycle k).nd m = s.nd m := rfl
@[simp] theorem State.set_toCycle (k : Nat) (m : NodeId) : (s.toCycle k).set m = s.set m := rfl

/-! ### The nodes: reading what was written -/

@[simp] theorem PerNode.get_set_same {α : Type} (p : PerNode α) (n : NodeId) (a : α) : (p.set n a).get n = a := by
  cases n <;> rfl

theorem PerNode.get_set_ne {α : Type} (p : PerNode α) {n m : NodeId} (a : α) (h : m ≠ n) : (p.set n a).get m = p.get m := by
  cases n <;> cases m <;> first | rfl | exact absurd rfl h

@[simp] theorem PerNode.set_get {α : Type} (p : PerNode α) (n : NodeId) : p.set n (p.get n) = p := by cases n <;> rfl

@[simp] theorem PerNode.set_set {α : Type} (p : PerNode α) (n : NodeId) (a b : α) : (p.set n a).set n b = p.set n b := by
  cases n <;> rfl

theorem PerNode.set_comm {α : Type} (p : PerNode α) {n m : NodeId} (a b : α) (h : m ≠ n) :
    (p.set n a).set m b = (p.set m b).set n a := by
  cases n <;> cases m <;> first | rfl | exact absurd rfl h

/-- Four like things are equal when each node's thing is. -/
theorem PerNode.ext_get {α : Type} {p q : PerNode α} (h : ∀ n, p.get n = q.get n) : p = q := by
  cases p; cases q
  have h0 := h .n0; have h1 := h .n1; have h2 := h .n2; have h3 := h .n3
  simp only [PerNode.get] at h0 h1 h2 h3
  subst h0 h1 h2 h3; rfl

@[simp] theorem State.nd_setNd_same (n : NodeId) (x : Node) : (s.setNd n x).nd n = x := PerNode.get_set_same _ _ _

theorem State.nd_setNd_ne {n m : NodeId} (x : Node) (h : m ≠ n) : (s.setNd n x).nd m = s.nd m := PerNode.get_set_ne _ _ h

@[simp] theorem State.setNd_nd (n : NodeId) : s.setNd n (s.nd n) = s := by
  simp only [State.setNd, State.nd, PerNode.set_get]

@[simp] theorem State.setNd_setNd (n : NodeId) (x y : Node) : (s.setNd n x).setNd n y = s.setNd n y := by
  simp only [State.setNd, PerNode.set_set]

/-- Reading any node after one node has been replaced. -/
theorem State.nd_setNd (n m : NodeId) (x : Node) : (s.setNd n x).nd m = if m = n then x else s.nd m := by
  split
  · next h => subst h; exact s.nd_setNd_same _ _
  · next h => exact s.nd_setNd_ne _ h

@[simp] theorem State.set_mapSet_same (n : NodeId) (f : NodeSettings → NodeSettings) : (s.mapSet n f).set n = f (s.set n) :=
  PerNode.get_set_same _ _ _

theorem State.set_mapSet_ne {n m : NodeId} (f : NodeSettings → NodeSettings) (h : m ≠ n) : (s.mapSet n f).set m = s.set m :=
  PerNode.get_set_ne _ _ h

@[simp] theorem State.mapSet_fref (n : NodeId) (f : NodeSettings → NodeSettings) : (s.mapSet n f).cfg.fref = s.cfg.fref := rfl

/-! ### The blocks of a node: each update writes one and leaves the others, on every node -/

@[simp] theorem State.line_mapLine_same (n : NodeId) (f : Line → Line) : ((s.mapLine n f).nd n).line = f (s.nd n).line := by
  simp [State.mapLine]
theorem State.nd_mapLine_ne {n m : NodeId} (f : Line → Line) (h : m ≠ n) : (s.mapLine n f).nd m = s.nd m :=
  s.nd_setNd_ne _ h
@[simp] theorem State.hist_mapLine (n : NodeId) (f : Line → Line) (m : NodeId) : ((s.mapLine n f).nd m).hist = (s.nd m).hist := by
  rw [State.mapLine, State.nd_setNd]; split <;> simp_all
@[simp] theorem State.watch_mapLine (n : NodeId) (f : Line → Line) (m : NodeId) : ((s.mapLine n f).nd m).watch = (s.nd m).watch := by
  rw [State.mapLine, State.nd_setNd]; split <;> simp_all
@[simp] theorem State.media_mapLine (n : NodeId) (f : Line → Line) (m : NodeId) : ((s.mapLine n f).nd m).media = (s.nd m).media := by
  rw [State.mapLine, State.nd_setNd]; split <;> simp_all
@[simp] theorem State.cache_mapLine (n : NodeId) (f : Line → Line) (m : NodeId) : ((s.mapLine n f).nd m).cache = (s.nd m).cache := by
  rw [State.mapLine, State.nd_setNd]; split <;> simp_all
@[simp] theorem State.power_mapLine (n : NodeId) (f : Line → Line) (m : NodeId) : ((s.mapLine n f).nd m).power = (s.nd m).power := by
  rw [State.mapLine, State.nd_setNd]; split <;> simp_all
@[simp] theorem State.live_mapLine (n : NodeId) (f : Line → Line) (m : NodeId) : ((s.mapLine n f).nd m).live = (s.nd m).live := by
  rw [State.mapLine, State.nd_setNd]; split <;> simp_all

@[simp] theorem State.hist_mapHist_same (n : NodeId) (f : History → History) : ((s.mapHist n f).nd n).hist = f (s.nd n).hist := by
  simp [State.mapHist]
theorem State.nd_mapHist_ne {n m : NodeId} (f : History → History) (h : m ≠ n) : (s.mapHist n f).nd m = s.nd m :=
  s.nd_setNd_ne _ h
@[simp] theorem State.line_mapHist (n : NodeId) (f : History → History) (m : NodeId) : ((s.mapHist n f).nd m).line = (s.nd m).line := by
  rw [State.mapHist, State.nd_setNd]; split <;> simp_all
@[simp] theorem State.watch_mapHist (n : NodeId) (f : History → History) (m : NodeId) : ((s.mapHist n f).nd m).watch = (s.nd m).watch := by
  rw [State.mapHist, State.nd_setNd]; split <;> simp_all
@[simp] theorem State.media_mapHist (n : NodeId) (f : History → History) (m : NodeId) : ((s.mapHist n f).nd m).media = (s.nd m).media := by
  rw [State.mapHist, State.nd_setNd]; split <;> simp_all
@[simp] theorem State.cache_mapHist (n : NodeId) (f : History → History) (m : NodeId) : ((s.mapHist n f).nd m).cache = (s.nd m).cache := by
  rw [State.mapHist, State.nd_setNd]; split <;> simp_all
@[simp] theorem State.power_mapHist (n : NodeId) (f : History → History) (m : NodeId) : ((s.mapHist n f).nd m).power = (s.nd m).power := by
  rw [State.mapHist, State.nd_setNd]; split <;> simp_all
@[simp] theorem State.live_mapHist (n : NodeId) (f : History → History) (m : NodeId) : ((s.mapHist n f).nd m).live = (s.nd m).live := by
  rw [State.mapHist, State.nd_setNd]; split <;> simp_all

@[simp] theorem State.watch_mapWatch_same (n : NodeId) (f : List Place → List Place) : ((s.mapWatch n f).nd n).watch = f (s.nd n).watch := by
  simp [State.mapWatch]
theorem State.nd_mapWatch_ne {n m : NodeId} (f : List Place → List Place) (h : m ≠ n) : (s.mapWatch n f).nd m = s.nd m :=
  s.nd_setNd_ne _ h
@[simp] theorem State.line_mapWatch (n : NodeId) (f : List Place → List Place) (m : NodeId) : ((s.mapWatch n f).nd m).line = (s.nd m).line := by
  rw [State.mapWatch, State.nd_setNd]; split <;> simp_all
@[simp] theorem State.hist_mapWatch (n : NodeId) (f : List Place → List Place) (m : NodeId) : ((s.mapWatch n f).nd m).hist = (s.nd m).hist := by
  rw [State.mapWatch, State.nd_setNd]; split <;> simp_all
@[simp] theorem State.media_mapWatch (n : NodeId) (f : List Place → List Place) (m : NodeId) : ((s.mapWatch n f).nd m).media = (s.nd m).media := by
  rw [State.mapWatch, State.nd_setNd]; split <;> simp_all
@[simp] theorem State.cache_mapWatch (n : NodeId) (f : List Place → List Place) (m : NodeId) : ((s.mapWatch n f).nd m).cache = (s.nd m).cache := by
  rw [State.mapWatch, State.nd_setNd]; split <;> simp_all
@[simp] theorem State.power_mapWatch (n : NodeId) (f : List Place → List Place) (m : NodeId) : ((s.mapWatch n f).nd m).power = (s.nd m).power := by
  rw [State.mapWatch, State.nd_setNd]; split <;> simp_all
@[simp] theorem State.live_mapWatch (n : NodeId) (f : List Place → List Place) (m : NodeId) : ((s.mapWatch n f).nd m).live = (s.nd m).live := by
  rw [State.mapWatch, State.nd_setNd]; split <;> simp_all

@[simp] theorem State.media_mapMedia_same (n : NodeId) (f : Media → Media) : ((s.mapMedia n f).nd n).media = f (s.nd n).media := by
  simp [State.mapMedia]
theorem State.nd_mapMedia_ne {n m : NodeId} (f : Media → Media) (h : m ≠ n) : (s.mapMedia n f).nd m = s.nd m :=
  s.nd_setNd_ne _ h
@[simp] theorem State.line_mapMedia (n : NodeId) (f : Media → Media) (m : NodeId) : ((s.mapMedia n f).nd m).line = (s.nd m).line := by
  rw [State.mapMedia, State.nd_setNd]; split <;> simp_all
@[simp] theorem State.hist_mapMedia (n : NodeId) (f : Media → Media) (m : NodeId) : ((s.mapMedia n f).nd m).hist = (s.nd m).hist := by
  rw [State.mapMedia, State.nd_setNd]; split <;> simp_all
@[simp] theorem State.watch_mapMedia (n : NodeId) (f : Media → Media) (m : NodeId) : ((s.mapMedia n f).nd m).watch = (s.nd m).watch := by
  rw [State.mapMedia, State.nd_setNd]; split <;> simp_all
@[simp] theorem State.cache_mapMedia (n : NodeId) (f : Media → Media) (m : NodeId) : ((s.mapMedia n f).nd m).cache = (s.nd m).cache := by
  rw [State.mapMedia, State.nd_setNd]; split <;> simp_all
@[simp] theorem State.power_mapMedia (n : NodeId) (f : Media → Media) (m : NodeId) : ((s.mapMedia n f).nd m).power = (s.nd m).power := by
  rw [State.mapMedia, State.nd_setNd]; split <;> simp_all
@[simp] theorem State.live_mapMedia (n : NodeId) (f : Media → Media) (m : NodeId) : ((s.mapMedia n f).nd m).live = (s.nd m).live := by
  rw [State.mapMedia, State.nd_setNd]; split <;> simp_all

@[simp] theorem State.cache_mapCache_same (n : NodeId) (f : NodeCache → NodeCache) : ((s.mapCache n f).nd n).cache = f (s.nd n).cache := by
  simp [State.mapCache]
theorem State.nd_mapCache_ne {n m : NodeId} (f : NodeCache → NodeCache) (h : m ≠ n) : (s.mapCache n f).nd m = s.nd m :=
  s.nd_setNd_ne _ h
@[simp] theorem State.line_mapCache (n : NodeId) (f : NodeCache → NodeCache) (m : NodeId) : ((s.mapCache n f).nd m).line = (s.nd m).line := by
  rw [State.mapCache, State.nd_setNd]; split <;> simp_all
@[simp] theorem State.hist_mapCache (n : NodeId) (f : NodeCache → NodeCache) (m : NodeId) : ((s.mapCache n f).nd m).hist = (s.nd m).hist := by
  rw [State.mapCache, State.nd_setNd]; split <;> simp_all
@[simp] theorem State.watch_mapCache (n : NodeId) (f : NodeCache → NodeCache) (m : NodeId) : ((s.mapCache n f).nd m).watch = (s.nd m).watch := by
  rw [State.mapCache, State.nd_setNd]; split <;> simp_all
@[simp] theorem State.media_mapCache (n : NodeId) (f : NodeCache → NodeCache) (m : NodeId) : ((s.mapCache n f).nd m).media = (s.nd m).media := by
  rw [State.mapCache, State.nd_setNd]; split <;> simp_all
@[simp] theorem State.power_mapCache (n : NodeId) (f : NodeCache → NodeCache) (m : NodeId) : ((s.mapCache n f).nd m).power = (s.nd m).power := by
  rw [State.mapCache, State.nd_setNd]; split <;> simp_all
@[simp] theorem State.live_mapCache (n : NodeId) (f : NodeCache → NodeCache) (m : NodeId) : ((s.mapCache n f).nd m).live = (s.nd m).live := by
  rw [State.mapCache, State.nd_setNd]; split <;> simp_all

@[simp] theorem State.power_mapPower_same (n : NodeId) (f : Power → Power) : ((s.mapPower n f).nd n).power = f (s.nd n).power := by
  simp [State.mapPower]
theorem State.nd_mapPower_ne {n m : NodeId} (f : Power → Power) (h : m ≠ n) : (s.mapPower n f).nd m = s.nd m :=
  s.nd_setNd_ne _ h
@[simp] theorem State.line_mapPower (n : NodeId) (f : Power → Power) (m : NodeId) : ((s.mapPower n f).nd m).line = (s.nd m).line := by
  rw [State.mapPower, State.nd_setNd]; split <;> simp_all
@[simp] theorem State.hist_mapPower (n : NodeId) (f : Power → Power) (m : NodeId) : ((s.mapPower n f).nd m).hist = (s.nd m).hist := by
  rw [State.mapPower, State.nd_setNd]; split <;> simp_all
@[simp] theorem State.watch_mapPower (n : NodeId) (f : Power → Power) (m : NodeId) : ((s.mapPower n f).nd m).watch = (s.nd m).watch := by
  rw [State.mapPower, State.nd_setNd]; split <;> simp_all
@[simp] theorem State.media_mapPower (n : NodeId) (f : Power → Power) (m : NodeId) : ((s.mapPower n f).nd m).media = (s.nd m).media := by
  rw [State.mapPower, State.nd_setNd]; split <;> simp_all
@[simp] theorem State.cache_mapPower (n : NodeId) (f : Power → Power) (m : NodeId) : ((s.mapPower n f).nd m).cache = (s.nd m).cache := by
  rw [State.mapPower, State.nd_setNd]; split <;> simp_all
@[simp] theorem State.live_mapPower (n : NodeId) (f : Power → Power) (m : NodeId) : ((s.mapPower n f).nd m).live = (s.nd m).live := by
  rw [State.mapPower, State.nd_setNd]; split <;> simp_all

@[simp] theorem State.live_mapLive_same (n : NodeId) (f : Live → Live) : ((s.mapLive n f).nd n).live = f (s.nd n).live := by
  simp [State.mapLive]
theorem State.nd_mapLive_ne {n m : NodeId} (f : Live → Live) (h : m ≠ n) : (s.mapLive n f).nd m = s.nd m :=
  s.nd_setNd_ne _ h
@[simp] theorem State.line_mapLive (n : NodeId) (f : Live → Live) (m : NodeId) : ((s.mapLive n f).nd m).line = (s.nd m).line := by
  rw [State.mapLive, State.nd_setNd]; split <;> simp_all
@[simp] theorem State.hist_mapLive (n : NodeId) (f : Live → Live) (m : NodeId) : ((s.mapLive n f).nd m).hist = (s.nd m).hist := by
  rw [State.mapLive, State.nd_setNd]; split <;> simp_all
@[simp] theorem State.watch_mapLive (n : NodeId) (f : Live → Live) (m : NodeId) : ((s.mapLive n f).nd m).watch = (s.nd m).watch := by
  rw [State.mapLive, State.nd_setNd]; split <;> simp_all
@[simp] theorem State.media_mapLive (n : NodeId) (f : Live → Live) (m : NodeId) : ((s.mapLive n f).nd m).media = (s.nd m).media := by
  rw [State.mapLive, State.nd_setNd]; split <;> simp_all
@[simp] theorem State.cache_mapLive (n : NodeId) (f : Live → Live) (m : NodeId) : ((s.mapLive n f).nd m).cache = (s.nd m).cache := by
  rw [State.mapLive, State.nd_setNd]; split <;> simp_all
@[simp] theorem State.power_mapLive (n : NodeId) (f : Live → Live) (m : NodeId) : ((s.mapLive n f).nd m).power = (s.nd m).power := by
  rw [State.mapLive, State.nd_setNd]; split <;> simp_all

end Sys2Proof.Machine
end

