-- ==== Sys2Proof/Laws/Checks.lean ====
section
/-! SUPPORT. The laws of the entries and of the pages as checks that evaluate, so that a concrete state is shown to meet
them. -/

namespace Sys2Proof.Machine

/-- A list that is a reordering of the pages of the entries it should hold. -/
theorem State.lists_of_perm {s : State} {n : NodeId} {f : EntryState → Bool} {l : List Nat} (hn : l.Nodup)
    (hp : l.Perm ((s.entries.filter (fun e => e.node == n && f e.state)).map Entry.page)) : s.Lists n f l := by
  refine ⟨hn, fun p => ?_⟩
  rw [hp.mem_iff]
  simp only [List.mem_map, List.mem_filter, Bool.and_eq_true, beq_iff_eq]
  constructor
  · rintro ⟨e, ⟨he, hn, hf⟩, rfl⟩; exact ⟨e, he, rfl, hn, hf⟩
  · rintro ⟨e, he, rfl, hn, hf⟩; exact ⟨e, ⟨he, hn, hf⟩, rfl⟩

/-- The write-outs of the outstanding list, checked one by one. -/
def State.numberedCheck (s : State) (n : NodeId) : Bool :=
  (List.range (s.nd n).cache.outstanding.length).all (fun i =>
    match (s.nd n).cache.outstanding[i]? with
    | none => true
    | some p => s.seqOf p == some ((s.nd n).cache.seq - BitVec.ofNat 16 ((s.nd n).cache.outstanding.length - i)))

theorem State.numbered_of_check {s : State} {n : NodeId} (h : s.numberedCheck n = true) : s.Numbered n := by
  intro i p hi
  have hl : i < (s.nd n).cache.outstanding.length := by
    rcases Nat.lt_or_ge i (s.nd n).cache.outstanding.length with h' | h'
    · exact h'
    · rw [List.getElem?_eq_none h'] at hi; cases hi
  have := List.all_eq_true.1 h i (List.mem_range.2 hl)
  rw [hi] at this
  simpa using this

/-- The current command, checked. -/
def State.commandCheck (s : State) (n : NodeId) : Bool :=
  match (s.nd n).media.current with
  | none => true
  | some c =>
    s.slotReady n && decide (∀ m ∈ s.slot n, c.lba + c.count ≤ m.capacity) &&
      decide (c.list.length ≤ Config.listPlaces) && decide (c.finished + c.list.length ≤ c.count) &&
      (c.list.map BlockPlace.lba == List.range' (c.lba + c.finished) c.list.length) &&
      c.list.all (fun p => p.status != .wanting ||
        ((s.entryFor n p.lba).isNone && decide (∀ m ∈ s.slot n, inRanges m.zero p.lba = false)))

theorem State.command_of_check {s : State} {n : NodeId} (h : s.commandCheck n = true) : s.CommandLaw n := by
  intro c hc
  unfold State.commandCheck at h
  rw [hc] at h
  simp only [Bool.and_eq_true, decide_eq_true_eq, beq_iff_eq] at h
  obtain ⟨⟨⟨⟨⟨h1, h0⟩, h2⟩, h3⟩, h4⟩, h5⟩ := h
  refine ⟨h1, fun m hm => h0 m hm, h2, h3, fun i p hi => ?_, fun p hp hw => ?_⟩
  · have hl : i < c.list.length := by
      rcases Nat.lt_or_ge i c.list.length with h' | h'
      · exact h'
      · rw [List.getElem?_eq_none h'] at hi; cases hi
    have h6 : (c.list.map BlockPlace.lba)[i]? = some p.lba := by rw [List.getElem?_map, hi]; rfl
    rw [h4, List.getElem?_range' hl] at h6
    simp at h6; omega
  · have := List.all_eq_true.1 h5 p hp
    simp only [hw, bne_self_eq_false, Bool.false_or, Bool.and_eq_true, Option.isNone_iff_eq_none, decide_eq_true_eq] at this
    exact ⟨this.1, fun m hm => this.2 m hm⟩

/-- The law of R86, checked entry by entry. -/
def State.slotCheck (s : State) (n : NodeId) : Bool :=
  s.entries.all (fun e => e.node != n ||
    (match s.slot n with
     | some m => decide (e.lba < m.capacity) && !inRanges m.zero e.lba
     | none => false))

theorem State.slot_of_check {s : State} {n : NodeId} (h : s.slotCheck n = true) : s.SlotLaw n := by
  intro e he hn
  have hx := List.all_eq_true.1 h e he
  cases hs : s.slot n with
  | none => simp [hs, hn] at hx
  | some m => exact ⟨m, rfl, by simpa [hs, hn] using hx⟩

/-- The Media Cache's laws, checked. -/
def State.cacheCheck (s : State) : Bool :=
  decide s.entryPages.Nodup && decide (s.entries.map (fun e => (e.node, e.lba))).Nodup && decide s.lru.Nodup &&
    decide (s.lru.Perm ((s.entries.filter (fun e => e.state == .valid)).map Entry.page)) &&
    NodeId.all.all (fun n =>
      decide (s.nd n).cache.fetches.Nodup &&
      decide ((s.nd n).cache.fetches.Perm ((s.entries.filter (fun e => e.node == n && e.state == .filling none)).map
        Entry.page)) &&
      decide (s.nd n).cache.queue.Nodup &&
      decide ((s.nd n).cache.queue.Perm ((s.entries.filter (fun e => e.node == n && e.state.isDirty)).map Entry.page)) &&
      decide (s.nd n).cache.outstanding.Nodup &&
      decide ((s.nd n).cache.outstanding.Perm ((s.entries.filter (fun e => e.node == n && e.state.isFlushing)).map
        Entry.page)) &&
      s.numberedCheck n && decide (s.fillingCount n ≤ Config.fillingCap) && decide (s.unstoredCount n ≤ Config.dirtyCap) &&
      s.slotCheck n && s.commandCheck n)

theorem State.cacheLaw_of_check {s : State} (h : s.cacheCheck = true) : s.CacheLaw := by
  simp only [State.cacheCheck, Bool.and_eq_true, decide_eq_true_eq] at h
  obtain ⟨⟨⟨⟨h1, h2⟩, h3⟩, h4⟩, h5⟩ := h
  refine ⟨h1, h2, h3, fun p => ?_, fun n => ?_⟩
  · rw [h4.mem_iff]
    simp only [List.mem_map, List.mem_filter, beq_iff_eq]
    constructor
    · rintro ⟨e, ⟨he, hs⟩, rfl⟩; exact ⟨e, he, rfl, hs⟩
    · rintro ⟨e, he, rfl, hs⟩; exact ⟨e, ⟨he, hs⟩, rfl⟩
  · have := List.all_eq_true.1 h5 n (by cases n <;> decide)
    simp only [Bool.and_eq_true, decide_eq_true_eq] at this
    obtain ⟨⟨⟨⟨⟨⟨⟨⟨⟨⟨a1, a2⟩, b1⟩, b2⟩, c1⟩, c2⟩, d⟩, e⟩, f⟩, g⟩, k⟩ := this
    refine ⟨State.lists_of_perm a1 a2, State.lists_of_perm b1 b2, State.lists_of_perm c1 c2, State.numbered_of_check d, e, f,
      State.slot_of_check g, State.command_of_check k⟩

/-- The pages of a state whose rings hold the lowest pages, its entries the next, and its free list the others. -/
theorem State.pageLaw_of_runs {s : State} {k : Nat} (hr : s.ringPages ++ s.entryPages = List.range' 0 k)
    (hf : s.free = List.range' k (Config.pages - k)) (hk : k ≤ Config.pages) (hn : s.lru.Nodup)
    (hl : ∀ p ∈ s.lru, p ∈ s.entryPages) : s.PageLaw := by
  refine ⟨?_, ?_, hn, hl⟩
  · rw [List.append_assoc, hr, hf]
    refine List.perm_append_comm.trans (List.Perm.of_eq ?_)
    have := List.range'_append (s := 0) (m := k) (n := Config.pages - k) (step := 1)
    simp only [Nat.one_mul, Nat.zero_add] at this
    rw [this]
    congr 1
    omega
  · rw [hf]; exact List.pairwise_lt_range'

end Sys2Proof.Machine
end

