-- ==== Sys2Proof/Laws/History.lean ====
section
/-! SUPPORT. What the History Buffer's operations do, said once for each. -/

namespace Sys2Proof.Machine

/-! ### The event index -/

/-- A new entry changes the index, the lost count and the pending flag, and nothing else of the history (R33, R45). -/
theorem History.push_eq (h : History) (e : Event) :
    h.push e = { h with
      index := (if Config.indexEntries ≤ h.index.length then h.index.tail else h.index) ++ [e]
      lost := if Config.indexEntries ≤ h.index.length ∧ (h.index.head?.map Event.unsent).getD false = true
        then min 255 (h.lost + 1) else h.lost
      eventPending := h.eventPending || e.unsent } := by
  unfold History.push History.dropOldestEvent
  by_cases hc : Config.indexEntries ≤ h.index.length
  · cases hi : h.index with
    | nil => simp [hi, Config.indexEntries] at hc
    | cons o es => simp [hi] at hc; cases hu : o.unsent <;> simp [hc, hu]
  · simp [hc]

/-- The index never outgrows its 64 entries (R32). -/
theorem History.push_length (h : History) (e : Event) (hl : h.index.length ≤ Config.indexEntries) :
    (h.push e).index.length ≤ Config.indexEntries := by
  rw [History.push_eq]
  simp only [List.length_append, List.length_singleton]
  split
  · simp only [List.length_tail]; simp only [Config.indexEntries] at *; omega
  · omega

/-- The newest entry is the one just added. -/
theorem History.push_getLast (h : History) (e : Event) : (h.push e).index.getLast? = some e := by
  rw [History.push_eq]; simp

@[simp] theorem History.push_ring (h : History) (e : Event) : (h.push e).ring = h.ring := by rw [History.push_eq]
@[simp] theorem History.push_oldest (h : History) (e : Event) : (h.push e).oldest = h.oldest := by rw [History.push_eq]
@[simp] theorem History.push_next (h : History) (e : Event) : (h.push e).next = h.next := by rw [History.push_eq]
@[simp] theorem History.push_mark (h : History) (e : Event) : (h.push e).mark = h.mark := by rw [History.push_eq]
@[simp] theorem History.push_deliver (h : History) (e : Event) : (h.push e).deliver = h.deliver := by rw [History.push_eq]
@[simp] theorem History.push_gapCount (h : History) (e : Event) : (h.push e).gapCount = h.gapCount := by
  rw [History.push_eq]
@[simp] theorem History.push_pacer (h : History) (e : Event) : (h.push e).pacer = h.pacer := by rw [History.push_eq]
@[simp] theorem History.push_lineIdle (h : History) (e : Event) : (h.push e).lineIdle = h.lineIdle := by
  rw [History.push_eq]

variable (h : History) (mask boot detail : Half) (k : EventKind)

@[simp] theorem History.record_ring : (h.record mask boot k detail).ring = h.ring := by simp [History.record]
@[simp] theorem History.record_oldest : (h.record mask boot k detail).oldest = h.oldest := by simp [History.record]
@[simp] theorem History.record_next : (h.record mask boot k detail).next = h.next := by simp [History.record]
@[simp] theorem History.record_mark : (h.record mask boot k detail).mark = h.mark := by simp [History.record]
@[simp] theorem History.record_deliver : (h.record mask boot k detail).deliver = h.deliver := by simp [History.record]
@[simp] theorem History.record_gapCount : (h.record mask boot k detail).gapCount = h.gapCount := by simp [History.record]
@[simp] theorem History.record_pacer : (h.record mask boot k detail).pacer = h.pacer := by simp [History.record]
@[simp] theorem History.record_lineIdle : (h.record mask boot k detail).lineIdle = h.lineIdle := by simp [History.record]

/-- The entry just recorded stands in the index. -/
theorem History.mem_record : ⟨h.next, k, detail, boot, k.inMask mask⟩ ∈ (h.record mask boot k detail).index := by
  have := History.push_getLast h ⟨h.next, k, detail, boot, k.inMask mask⟩
  exact List.mem_of_getLast? this

/-- An error either joins an entry of the run or is a new entry; the rest of the history stays (R34). -/
theorem History.recordError_cases :
    (∃ es, h.recordError mask boot k = { h with index := es }) ∨
      h.recordError mask boot k = h.record mask boot k 1 := by
  unfold History.recordError; split
  · exact .inl ⟨_, rfl⟩
  · exact .inr rfl

@[simp] theorem History.recordError_ring : (h.recordError mask boot k).ring = h.ring := by
  rcases h.recordError_cases mask boot k with ⟨_, e⟩ | e <;> simp [e]
@[simp] theorem History.recordError_oldest : (h.recordError mask boot k).oldest = h.oldest := by
  rcases h.recordError_cases mask boot k with ⟨_, e⟩ | e <;> simp [e]
@[simp] theorem History.recordError_next : (h.recordError mask boot k).next = h.next := by
  rcases h.recordError_cases mask boot k with ⟨_, e⟩ | e <;> simp [e]
@[simp] theorem History.recordError_mark : (h.recordError mask boot k).mark = h.mark := by
  rcases h.recordError_cases mask boot k with ⟨_, e⟩ | e <;> simp [e]
@[simp] theorem History.recordError_deliver : (h.recordError mask boot k).deliver = h.deliver := by
  rcases h.recordError_cases mask boot k with ⟨_, e⟩ | e <;> simp [e]
@[simp] theorem History.recordError_pacer : (h.recordError mask boot k).pacer = h.pacer := by
  rcases h.recordError_cases mask boot k with ⟨_, e⟩ | e <;> simp [e]

/-! ### Giving up the oldest page -/

@[simp] theorem History.loseMark_ring : (h.loseMark mask boot).ring = h.ring := by
  unfold History.loseMark; split <;> [rfl; split] <;> simp
@[simp] theorem History.loseMark_oldest : (h.loseMark mask boot).oldest = h.oldest := by
  unfold History.loseMark; split <;> [rfl; split] <;> simp
@[simp] theorem History.loseMark_next : (h.loseMark mask boot).next = h.next := by
  unfold History.loseMark; split <;> [rfl; split] <;> simp
@[simp] theorem History.loseMark_deliver : (h.loseMark mask boot).deliver = h.deliver := by
  unfold History.loseMark; split <;> [rfl; split] <;> simp

@[simp] theorem History.jump_ring (f : Bool) : (h.jump f).ring = h.ring := by unfold History.jump; split <;> rfl
@[simp] theorem History.jump_oldest (f : Bool) : (h.jump f).oldest = h.oldest := by unfold History.jump; split <;> rfl
@[simp] theorem History.jump_next (f : Bool) : (h.jump f).next = h.next := by unfold History.jump; split <;> rfl
@[simp] theorem History.jump_mark (f : Bool) : (h.jump f).mark = h.mark := by unfold History.jump; split <;> rfl
@[simp] theorem History.jump_index (f : Bool) : (h.jump f).index = h.index := by unfold History.jump; split <;> rfl
@[simp] theorem History.jump_deliver (f : Bool) : (h.jump f).deliver = max h.deliver h.oldest := by
  unfold History.jump; split
  · simp only; omega
  · omega

/-- Giving up the oldest page keeps next_offset and the ring and advances oldest_offset by a page (R28). -/
theorem History.discardOldestPage_fields (f : Bool) :
    (h.discardOldestPage mask boot f).ring = h.ring ∧
      (h.discardOldestPage mask boot f).oldest = h.oldest + Config.pageBytes ∧
      (h.discardOldestPage mask boot f).next = h.next ∧
      (h.discardOldestPage mask boot f).deliver = max h.deliver (h.oldest + Config.pageBytes) := by
  simp [History.discardOldestPage, History.prune]

/-- Recycling moves the oldest page to the tail (R28). -/
theorem History.recycle_fields (f : Bool) (hr : h.ring ≠ []) :
    (h.recycle mask boot f).ring = h.ring.tail ++ h.ring.take 1 ∧
      (h.recycle mask boot f).oldest = h.oldest + Config.pageBytes ∧ (h.recycle mask boot f).next = h.next ∧
      (h.recycle mask boot f).deliver = max h.deliver (h.oldest + Config.pageBytes) := by
  have := h.discardOldestPage_fields mask boot f
  unfold History.recycle
  cases hc : h.ring with
  | nil => exact absurd hc hr
  | cons p ps => simp [this.2.1, this.2.2.1, this.2.2.2]

/-! ### On the state: one node's history, and nothing else -/

/-- Recording an event changes the history of its node alone. -/
theorem State.record_eq (s : State) (n : NodeId) (k : EventKind) (d : Half) :
    s.record n k d = s.setNd n { s.nd n with
      hist := (s.nd n).hist.record (s.set n).delivery.mask (s.nd n).power.boot k d } := rfl

theorem State.recordError_eq (s : State) (n : NodeId) (k : EventKind) :
    s.recordError n k = s.setNd n { s.nd n with
      hist := (s.nd n).hist.recordError (s.set n).delivery.mask (s.nd n).power.boot k } := rfl

theorem State.setMark_eq (s : State) (n : NodeId) (o : Nat) :
    s.setMark n o = s.setNd n { s.nd n with
      hist := (s.nd n).hist.setMark (s.set n).delivery.mask (s.nd n).power.boot o } := rfl

end Sys2Proof.Machine
end

