-- ==== Sys2Proof/Laws/Power.lean ====
section
/-! SUPPORT. The Power Controller's and the Liveness Monitor's shared operations: what each leaves as it was. -/

namespace Sys2Proof.Machine

/-! ### The link, the settings, the memory and the queue stay -/

/-- What no operation on one node's line, history, power or monitor touches. -/
structure State.SameAround (s t : State) : Prop where
  held : t.held = s.held
  cfg : t.cfg = s.cfg
  clock : t.clock = s.clock
  mem : t.mem = s.mem
  link : t.link = s.link
  store : t.store = s.store
  pending : t.pending = s.pending

theorem State.SameAround.refl (s : State) : s.SameAround s := ⟨rfl, rfl, rfl, rfl, rfl, rfl, rfl⟩

theorem State.SameAround.trans {s t u : State} (h : s.SameAround t) (h' : t.SameAround u) : s.SameAround u :=
  ⟨h'.held.trans h.held, h'.cfg.trans h.cfg, h'.clock.trans h.clock, h'.mem.trans h.mem, h'.link.trans h.link,
    h'.store.trans h.store, h'.pending.trans h.pending⟩

theorem State.SameAround.setNd (s : State) (n : NodeId) (x : Node) : s.SameAround (s.setNd n x) :=
  ⟨rfl, rfl, rfl, rfl, rfl, rfl, rfl⟩

/-! ### The ended list (R149) -/

/-- The record just added stands in the ended list. -/
theorem Power.mem_addEnded (r : FinalRecord) (p : Power) : r ∈ (p.addEnded r).ended := by
  unfold Power.addEnded; split <;> simp

/-- The ended list never outgrows its four records. -/
theorem Power.addEnded_length (r : FinalRecord) (p : Power) (h : p.ended.length ≤ 4) : (p.addEnded r).ended.length ≤ 4 := by
  unfold Power.addEnded; split
  · simp; omega
  · simp only [List.length_append, List.length_tail, List.length_singleton]; omega

/-- Adding a record changes the ended list and its lost count alone. -/
theorem Power.addEnded_eq (r : FinalRecord) (p : Power) :
    p.addEnded r = { p with ended := (p.addEnded r).ended, endedLost := (p.addEnded r).endedLost } := by
  unfold Power.addEnded; split <;> rfl

@[simp] theorem Power.addEnded_ctrl (r : FinalRecord) (p : Power) : (p.addEnded r).ctrl = p.ctrl := by
  rw [Power.addEnded_eq]
@[simp] theorem Power.addEnded_boot (r : FinalRecord) (p : Power) : (p.addEnded r).boot = p.boot := by
  rw [Power.addEnded_eq]
@[simp] theorem Power.addEnded_pg (r : FinalRecord) (p : Power) : (p.addEnded r).pg = p.pg := by rw [Power.addEnded_eq]
@[simp] theorem Power.addEnded_feedCut (r : FinalRecord) (p : Power) : (p.addEnded r).feedCut = p.feedCut := by
  rw [Power.addEnded_eq]
@[simp] theorem Power.addEnded_btnPwr (r : FinalRecord) (p : Power) : (p.addEnded r).btnPwr = p.btnPwr := by
  rw [Power.addEnded_eq]
@[simp] theorem Power.addEnded_btnRst (r : FinalRecord) (p : Power) : (p.addEnded r).btnRst = p.btnRst := by
  rw [Power.addEnded_eq]
@[simp] theorem Power.addEnded_diag (r : FinalRecord) (p : Power) : (p.addEnded r).diag = p.diag := by
  rw [Power.addEnded_eq]

/-! ### Phases -/

/-- Entering a phase changes the node's power record alone: its lines, its action and the pending flag (R126, R132). -/
theorem State.enterPhase_eq (s : State) (n : NodeId) (a : Action) (ph : Phase) (ms : Nat) (c : Action) (q : Option Queued)
    (ab : Bool) (h : (s.nd n).power.ctrl = .acting c q ab) :
    s.enterPhase n a ph ms = s.setNd n { s.nd n with power := { (s.nd n).power with
      btnPwr := decide (ph = .press ∨ ph = .hold)
      btnRst := decide (ph = .pulse ∧ a.kind = .reset)
      diag := decide (ph = .pulse ∧ a.kind = .diag)
      statePending := true
      ctrl := .acting { a with phase := ph, ends := s.clock.ticks + ms } q ab } } := by
  simp [State.enterPhase, State.mapPower, phaseLines, h]

/-- The buttons of a node are released, and nothing else changes. -/
theorem State.releaseButtons_eq (s : State) (n : NodeId) :
    s.releaseButtons n = s.setNd n { s.nd n with power := { (s.nd n).power with
      btnPwr := false, btnRst := false, diag := false } } := rfl

/-- An accepted change of the condition is no more than that where the condition stays. -/
theorem State.conditionChange_same {s : State} {n : NodeId} {old : Condition} {b : Bool} (h : s.condition n = old) :
    s.conditionChange n old b = s := by simp [State.conditionChange, h]

/-- The condition of a node whose feed is cut (R128). -/
theorem Power.condition_cut {p : Power} (h : p.feedCut = true) : p.condition = .cut := by simp [Power.condition, h]

/-- CUT exactly while FEED_CUTn is asserted (R128, a law of the device). -/
theorem Power.condition_eq_cut (p : Power) : p.condition = .cut ↔ p.feedCut = true := by
  unfold Power.condition
  cases p.feedCut <;> simp
  split <;> simp

/-! ### The monitor -/

/-- A kick that does not count changes nothing (R155). -/
theorem State.kick_ignored {s : State} {n : NodeId} {k : KickSource} (h : s.kickCounts n k = false) : s.kick n k = s := by
  simp [State.kick, h]

/-- The reports of the condition touch the monitor's own record alone. -/
theorem State.liveLeavesOn_frame (s : State) (n : NodeId) : s.SameAround (s.liveLeavesOn n) := by
  unfold State.liveLeavesOn; split
  · exact .setNd _ _ _
  · exact .refl _

theorem State.liveBoot_frame (s : State) (n : NodeId) : s.SameAround (s.liveBoot n) := by
  unfold State.liveBoot; split
  · split
    · exact .setNd _ _ _
    · exact .refl _
  · exact .refl _

theorem State.recoveryReport_frame (s : State) (n : NodeId) (b : Bool) : s.SameAround (s.recoveryReport n b) := by
  unfold State.recoveryReport
  split
  · simp only
    split
    · split
      · exact (State.SameAround.setNd _ _ _).trans (.setNd _ _ _)
      · split
        · exact (State.SameAround.setNd _ _ _).trans (.setNd _ _ _)
        · exact .setNd _ _ _
    · exact .setNd _ _ _
  · exact .refl _

/-- A record of an ended action goes to one node's index, ended list and monitor. -/
theorem State.recordEnd_frame (s : State) (n : NodeId) (r : FinalRecord) : s.SameAround (s.recordEnd n r) := by
  have h : s.SameAround (((s.record n (.actionEnd r.source.code) (packDetail r.kind.code r.result.code)).mapPower n
      (Power.addEnded r)).powerNotice n) :=
    ((State.SameAround.setNd _ _ _).trans (.setNd _ _ _)).trans (.setNd _ _ _)
  unfold State.recordEnd State.reportEnd
  simp only
  split
  · exact h.trans (State.recoveryReport_frame _ _ _)
  · exact h

end Sys2Proof.Machine
end

