-- ==== Sys2Proof/Laws/Ending.lean ====
section
/-! SUPPORT. How an action starts, goes on, ends and locks, what a boot event and a change of pg leave, and what the monitor
is told: for each shared operation of the Power Controller one lemma that says the whole node it leaves, in the words of
Safety.lean. -/

namespace Sys2Proof.Machine

/-! ### The monitor and the end of an action -/

/-- Replacing a node by itself, field by field, changes nothing. -/
theorem State.setNd_self (s : State) (n : NodeId) (x : Node) (h : x = s.nd n) : s.setNd n x = s := by
  rw [h, State.setNd_nd]

/-- The report of a recovery's end writes the monitor alone, by the table of R161. -/
theorem State.recoveryReport_eq (s : State) (n : NodeId) (failed : Bool) (r : ActionResult)
    (h : failed = false ↔ r = .done ∨ r = .aborted) :
    s.recoveryReport n failed = s.setNd n { s.nd n with live := (s.nd n).live.reported r (s.graceFrom n) } := by
  unfold State.recoveryReport Live.reported
  cases ho : (s.nd n).live.outstanding
  · simp only [Bool.false_eq_true, if_false, if_true]; exact (s.setNd_self n _ rfl).symm
  · cases hm : (s.nd n).live.monitor <;> cases failed <;>
      simp [← h, hm, Monitor.followsRecovery, State.mapLive, State.exhaust, State.enterGrace, Live.enter, State.graceFrom,
        State.after, Monitor.code]

/-- The end of an action is told to the monitor, and nothing else changes (R142, R157). -/
theorem State.reportEnd_eq (s : State) (n : NodeId) (f : FinalRecord) :
    s.reportEnd n f = s.setNd n { s.nd n with live := (s.nd n).live.told f (s.graceFrom n) } := by
  unfold State.reportEnd Live.told
  split
  · exact s.recoveryReport_eq n _ _ (by cases f.result <;> simp)
  · exact (s.setNd_self n _ rfl).symm

/-- The end of an action changes its node as `Node.withEnd` says (R142, R145, R149). -/
theorem State.recordEnd_eq (s : State) (n : NodeId) (f : FinalRecord) :
    s.recordEnd n f = s.setNd n ((s.nd n).withEnd (s.set n).delivery.mask (s.graceFrom n) f) := by
  unfold State.recordEnd
  rw [State.reportEnd_eq]
  simp only [State.record, State.powerNotice, State.mapPower, State.mapHist, State.setNd_setNd, State.nd_setNd_same,
    State.graceFrom, State.setNd_clock, State.set_setNd, Power.addEnded, Node.withEnd]
  split <;> simp

/-! ### The feed line -/

/-- The line of a node that leaves CUT changes, and nothing else (R24). -/
theorem State.lineLeavesCut_eq (s : State) (n : NodeId) :
    s.lineLeavesCut n = s.setNd n { s.nd n with line := ((s.lineLeavesCut n).nd n).line } := by
  unfold State.lineLeavesCut State.beginGap State.enterHunting State.mapLine
  split <;> split <;> simp

/-- The line of a node that becomes CUT changes, and nothing else (R24). -/
theorem State.lineEntersCut_eq (s : State) (n : NodeId) :
    s.lineEntersCut n = s.setNd n { s.nd n with line := ((s.lineEntersCut n).nd n).line } := by
  simp [State.lineEntersCut, State.mapLine]

/-- An active monitor goes DORMANT as its node leaves ON (R154). -/
theorem State.liveLeavesOn_eq (s : State) (n : NodeId) :
    s.liveLeavesOn n = s.setNd n { s.nd n with live :=
      if (s.nd n).live.monitor.active = true then { (s.nd n).live with monitor := .dormant, statePending := true }
      else (s.nd n).live } := by
  unfold State.liveLeavesOn
  cases hm : (s.nd n).live.monitor <;> simp [Monitor.active, State.mapLive, Live.enter, hm, Monitor.code] <;>
    exact (s.setNd_self n _ rfl).symm

/-- A DORMANT monitor enters GRACE as its node becomes ON (R154). -/
theorem State.liveBecomesOn_eq (s : State) (n : NodeId) :
    s.liveBecomesOn n = s.setNd n { s.nd n with live :=
      if (s.nd n).live.monitor = .dormant then
        { (s.nd n).live with monitor := .grace (s.graceFrom n), statePending := true }
      else (s.nd n).live } := by
  unfold State.liveBecomesOn
  split
  · next h => simp [State.enterGrace, State.mapLive, Live.enter, h, Monitor.code, State.graceFrom, State.after]
  · exact (s.setNd_self n _ rfl).symm

/-- A change of the condition that comes with no boot event: a notice, the monitor, and the line of a node that enters or leaves
CUT (R24, R128, R154). -/
theorem State.conditionChange_eq (s : State) (n : NodeId) (old : Condition) (h : s.condition n ≠ old) :
    s.conditionChange n old false = s.setNd n { s.nd n with
      line := ((s.conditionChange n old false).nd n).line
      power := { (s.nd n).power with statePending := true }
      live := (s.nd n).live.followed old (s.condition n) (s.graceFrom n) } := by
  have e := State.lineEntersCut_eq (s.powerNotice n) n
  have l := State.lineLeavesCut_eq (s.powerNotice n) n
  have hp : (s.powerNotice n).nd n = { s.nd n with power := { (s.nd n).power with statePending := true } } := by
    simp [State.powerNotice, State.mapPower]
  have hs : ∀ x, (s.powerNotice n).setNd n x = s.setNd n x := by intro x; simp [State.powerNotice, State.mapPower]
  rw [hs, hp] at e l
  have hline : ∃ L, (if s.condition n = .cut then (s.powerNotice n).lineEntersCut n
      else if old = .cut then (s.powerNotice n).lineLeavesCut n else s.powerNotice n) =
      s.setNd n { s.nd n with line := L, power := { (s.nd n).power with statePending := true } } := by
    split
    · exact ⟨_, e⟩
    · split
      · exact ⟨_, l⟩
      · exact ⟨(s.nd n).line, by simp [State.powerNotice, State.mapPower]⟩
  obtain ⟨L, hL⟩ := hline
  unfold State.conditionChange
  simp only [h, if_false, hL]
  by_cases ho : old = .on
  · subst ho
    rw [if_pos rfl, State.liveLeavesOn_eq]
    simp [Live.followed, h]
  · rw [if_neg ho]
    by_cases hn : s.condition n = .on
    · rw [if_pos ⟨hn, trivial⟩, State.liveBecomesOn_eq]
      simp [Live.followed, ho, hn, State.graceFrom]
    · rw [if_neg (fun k => hn k.1)]
      simp [Live.followed, ho, hn]

/-- FEED_CUTn of a node that is CUT is released: its line, its controller and its monitor change, and nothing else (R128). -/
theorem State.releaseFeedCut_eq (s : State) (n : NodeId) (h : (s.nd n).power.feedCut = true) :
    let p := { (s.nd n).power with feedCut := false, statePending := true }
    s.releaseFeedCut n = s.setNd n { s.nd n with
      line := ((s.releaseFeedCut n).nd n).line, power := p
      live := (s.nd n).live.followed .cut p.condition (s.graceFrom n) } := by
  have hc : s.condition n = .cut := Power.condition_cut h
  unfold State.releaseFeedCut
  rw [hc, State.conditionChange_eq _ _ _ (by simp [State.condition, State.mapPower, Power.condition]; split <;> simp)]
  simp [State.mapPower, State.condition, State.graceFrom, Power.condition]

/-- FEED_CUTn of a node that is not CUT is asserted: CUT is recorded, and its line, its controller and its monitor change, and
nothing else (R128, R136). -/
theorem State.assertFeedCut_eq (s : State) (n : NodeId) (h : (s.nd n).power.feedCut = false) :
    s.assertFeedCut n = s.setNd n { s.nd n with
      line := ((s.assertFeedCut n).nd n).line
      hist := (s.nd n).hist.record (s.set n).delivery.mask (s.nd n).power.boot .cut 0
      power := { (s.nd n).power with feedCut := true, statePending := true }
      live := (s.nd n).live.followed (s.condition n) .cut (s.graceFrom n) } := by
  have hc : s.condition n ≠ .cut := fun k => by simp [(Power.condition_eq_cut _).1 k] at h
  unfold State.assertFeedCut
  rw [State.conditionChange_eq _ _ _ (by simpa [State.condition, State.record, State.mapHist, State.mapPower, Power.condition] using hc.symm)]
  simp [State.record, State.mapHist, State.mapPower, State.condition, State.graceFrom, Power.condition]


/-! ### How an action starts and goes on -/

/-- A condition that stays leaves the monitor. -/
@[simp] theorem Live.followed_same (c : Condition) (g : Nat) (l : Live) : l.followed c c g = l := by
  cases c <;> simp [Live.followed]

@[simp] theorem State.graceFrom_setNd (s : State) (n m : NodeId) (x : Node) : (s.setNd n x).graceFrom m = s.graceFrom m := rfl
@[simp] theorem State.condition_setNd (s : State) (n : NodeId) (x : Node) : (s.setNd n x).condition n = x.power.condition := by
  simp [State.condition]

/-- The current action of node `z` enters a phase: on any node `x` that differs from it in the controller, its button lines and the
pending notice alone, it goes on so (R126, R132). -/
theorem State.enterPhase_goesOn (s : State) (n : NodeId) (x : Node) (a c : Action) (q : Option Queued) (ab : Bool) (ph : Phase)
    (ms : Nat) (hc : (s.nd n).power.ctrl = .acting c q ab)
    (hx : s.nd n = { x with power := { x.power with
      ctrl := (s.nd n).power.ctrl, btnPwr := (s.nd n).power.btnPwr, btnRst := (s.nd n).power.btnRst
      diag := (s.nd n).power.diag, statePending := (s.nd n).power.statePending } }) :
    s.enterPhase n a ph ms = s.setNd n ((s.enterPhase n a ph ms).nd n) ∧
      (s.enterPhase n a ph ms).GoesOn n x a q ab ph ms := by
  rw [s.enterPhase_eq n a ph ms c q ab hc]
  simp only [State.nd_setNd_same, State.GoesOn, State.EntersPhase, State.setNd_clock, true_and]
  rw [hx]

/-- Node `x` with action `a` just started: ACTION_START is recorded, and the action is current. -/
def Node.withStart (mask : Half) (a : Action) (x : Node) : Node :=
  { x with
    hist := x.hist.record mask x.power.boot .actionStart (packDetail a.kind.code a.source.code)
    power := { x.power with ctrl := .acting a none false, statePending := true } }

/-- A started action begins its first step on the node that `Node.withStart` describes (R132). -/
theorem State.startAction_eq (s : State) (n : NodeId) (k : ActionKind) (src : Source) :
    let a : Action := ⟨k, src, .none, s.clock.ticks, false, (s.set n).choices.method, false⟩
    s.startAction n k src = (s.setNd n ((s.nd n).withStart (s.set n).delivery.mask a)).firstStep n a := by
  simp [State.startAction, State.record, State.mapHist, State.mapPower, Node.withStart]

/-- Where the first step leaves the action running, the launch is that step (R132). -/
theorem State.launch_running {s t : State} {n : NodeId} {k : ActionKind} {src : Source} (h : s.startAction n k src = (t, false)) :
    s.launch n k src = t := by simp [State.launch, h]

/-- The last action of a node ends, and nothing of the part but the node changes (R142). -/
theorem State.finishLast_eq (s : State) (n : NodeId) (a : Action) (r : ActionResult) :
    s.finishLast n a r =
      s.setNd n (((s.nd n).atRest .idle).withEnd (s.set n).delivery.mask (s.graceFrom n) (a.final r none)) := by
  unfold State.finishLast
  rw [State.recordEnd_eq]
  simp [State.releaseButtons, State.ctrlTo, State.mapPower, Node.atRest, State.graceFrom]

/-- Where the first step ends the action, it ends DONE (R132, R142). -/
theorem State.launch_ended {s t : State} {n : NodeId} {k : ActionKind} {src : Source} {a : Action} {q : Option Queued} {ab : Bool}
    (h : s.startAction n k src = (t, true)) (ha : (t.nd n).power.ctrl = .acting a q ab) :
    s.launch n k src =
      t.setNd n (((t.nd n).atRest .idle).withEnd (t.set n).delivery.mask (t.graceFrom n) (a.final .done none)) := by
  simp [State.launch, h, ha, State.finishLast_eq]

/-- An action whose first step has come to state `v`, where the feed is as the action wants it, goes on in its first phase or has
ended DONE (R132). -/
theorem State.launch_of_firstStep (s v : State) (n : NodeId) (k : ActionKind) (src : Source) (a : Action) (l : Line)
    (ha : a = ⟨k, src, .none, s.clock.ticks, false, (s.set n).choices.method, false⟩)
    (hv : v = s.setNd n (v.nd n))
    (hn : v.nd n = let y := (s.nd n).started (s.set n).delivery.mask (s.set n).choices (s.graceFrom n) k src l
      { y with power := { y.power with ctrl := .acting a none false, statePending := true } })
    (hf : match (s.nd n).firstPhase (s.set n).choices (s.set n).timings k with
      | some (ph, ms) => s.startAction n k src = (v.enterPhase n { a with onPart := decide (k = .on) } ph ms, false)
      | none => s.startAction n k src = (v, true)) :
    s.launch n k src = s.setNd n ((s.launch n k src).nd n) ∧ (s.launch n k src).ActionStarted n (s.nd n) k src := by
  have hset : v.set n = s.set n := by rw [hv]; rfl
  have hg : v.graceFrom n = s.graceFrom n := by rw [hv]; rfl
  have hline : (v.nd n).line = l := by rw [hn]; rfl
  have hctrl : (v.nd n).power.ctrl = .acting a none false := by rw [hn]
  cases hp : (s.nd n).firstPhase (s.set n).choices (s.set n).timings k with
  | none =>
    rw [hp] at hf
    rw [State.launch_ended hf hctrl]
    refine ⟨by rw [hv]; simp, ?_⟩
    simp only [State.ActionStarted, State.set_setNd, hset, hp, State.nd_setNd_same, State.graceFrom_setNd, hg]
    rw [hn]
    simp [Node.started, Node.atRest, Node.withEnd, Action.final, ha]
  | some r =>
    obtain ⟨ph, ms⟩ := r
    rw [hp] at hf
    rw [State.launch_running hf]
    have := State.enterPhase_goesOn v n ((s.nd n).started (s.set n).delivery.mask (s.set n).choices (s.graceFrom n) k src l) { a with onPart := decide (k = .on) } a none false ph ms hctrl (by rw [hn])
    refine ⟨by rw [this.1, hv]; simp, ?_⟩
    have hset' : (v.enterPhase n { a with onPart := decide (k = .on) } ph ms).set n = s.set n := by rw [this.1]; exact hset
    have hg' : (v.enterPhase n { a with onPart := decide (k = .on) } ph ms).graceFrom n = s.graceFrom n := by
      rw [this.1]; exact hg
    have hl : ((v.enterPhase n { a with onPart := decide (k = .on) } ph ms).nd n).line = l := by rw [this.2.2]; rfl
    have h2 := this.2
    simp only [State.ActionStarted, hset', hp, hg', hl]
    subst ha
    exact h2

/-- An action starts as `State.ActionStarted` says, and nothing of the part but its node changes. -/
theorem State.launch_started (s : State) (n : NodeId) (k : ActionKind) (src : Source) (h : k.allowed (s.condition n) = true) :
    s.launch n k src = s.setNd n ((s.launch n k src).nd n) ∧ (s.launch n k src).ActionStarted n (s.nd n) k src := by
  have hs := s.startAction_eq n k src
  simp only at hs
  generalize ha : (⟨k, src, .none, s.clock.ticks, false, (s.set n).choices.method, false⟩ : Action) = a at hs
  generalize hu : s.setNd n _ = u at hs
  have hun : u.nd n = (s.nd n).withStart (s.set n).delivery.mask a := by rw [← hu]; exact State.nd_setNd_same _ _ _
  have huv : u = s.setNd n (u.nd n) := by rw [← hu]; simp
  have hset : u.set n = s.set n := by rw [← hu]; rfl
  have hc : u.condition n = s.condition n := by rw [State.condition, hun]; rfl
  have hst : ∀ x : State, x.set n = u.set n → x.timings n = (s.set n).timings := fun x hx => by
    rw [State.timings, hx, hset]
  have plain : ∀ (ph : Phase) (ms : Nat), k ≠ .on → (s.nd n).feedCutBy (s.set n).choices k = false →
      (s.nd n).firstPhase (s.set n).choices (s.set n).timings k = some (ph, ms) →
      u.firstStep n a = (u.enterPhase n a ph ms, false) →
      s.launch n k src = s.setNd n ((s.launch n k src).nd n) ∧ (s.launch n k src).ActionStarted n (s.nd n) k src := by
    intro ph ms hk hf hp he
    refine s.launch_of_firstStep u n k src a (s.nd n).line ha.symm huv ?_ ?_
    · rw [hun, ← ha]; simp [Node.withStart, Node.started, hf, hk, Power.condition]
    · rw [hp, hs, he, ← ha]; simp [hk]
  have mid : ∀ (v : State) (w : Node) (l : Line), v = u.setNd n w →
      w = (let y := (s.nd n).started (s.set n).delivery.mask (s.set n).choices (s.graceFrom n) k src l
        ({ y with power := { y.power with ctrl := .acting a none false, statePending := true } } : Node)) →
      (match (s.nd n).firstPhase (s.set n).choices (s.set n).timings k with
      | some (ph, ms) => u.firstStep n a = (v.enterPhase n { a with onPart := decide (k = .on) } ph ms, false)
      | none => u.firstStep n a = (v, true)) →
      s.launch n k src = s.setNd n ((s.launch n k src).nd n) ∧ (s.launch n k src).ActionStarted n (s.nd n) k src := by
    intro v w l hv hw hf
    refine s.launch_of_firstStep v n k src a l ha.symm ?_ ?_ ?_
    · rw [hv, State.nd_setNd_same, huv, State.setNd_setNd]
    · rw [hv, State.nd_setNd_same, hw]
    · rw [hs]; exact hf
  have cut : (s.nd n).power.feedCut = false → k ≠ .on → (s.nd n).feedCutBy (s.set n).choices k = true →
      ∃ w l, u.assertFeedCut n = u.setNd n w ∧
        w = (let y := (s.nd n).started (s.set n).delivery.mask (s.set n).choices (s.graceFrom n) k src l
          ({ y with power := { y.power with ctrl := .acting a none false, statePending := true } } : Node)) := by
    intro hfeed hk hf
    refine ⟨_, ((u.assertFeedCut n).nd n).line, u.assertFeedCut_eq n (by rw [hun]; exact hfeed), ?_⟩
    have hg : u.graceFrom n = s.graceFrom n := by rw [← hu]; rfl
    rw [hun, hset, hg, hc, ← ha]
    simp [Node.withStart, Node.started, hf, hk, Power.condition, State.condition]
  cases k
  case offSoft => exact plain .press _ (by simp) (by simp [Node.feedCutBy]) rfl (by rw [← hst u rfl]; simp [← ha, State.firstStep])
  case offHard => exact plain .hold _ (by simp) (by simp [Node.feedCutBy]) rfl (by rw [← hst u rfl]; simp [← ha, State.firstStep])
  case reset => exact plain .pulse _ (by simp) (by simp [Node.feedCutBy]) rfl (by rw [← hst u rfl]; simp [← ha, State.firstStep])
  case diag => exact plain .pulse _ (by simp) (by simp [Node.feedCutBy]) rfl (by rw [← hst u rfl]; simp [← ha, State.firstStep])
  case cut =>
    have hfeed : (s.nd n).power.feedCut = false := by
      cases hq : (s.nd n).power.feedCut
      · rfl
      · simp [State.condition, Power.condition_cut hq, ActionKind.allowed] at h
    obtain ⟨w, l, e, hw⟩ := cut hfeed (by simp) (by simp [Node.feedCutBy])
    refine mid _ w l e hw ?_
    have hpg : (u.setNd n w).pgHigh n = ((s.nd n).power.pg == .high) := by
      rw [State.pgHigh, State.nd_setNd_same, hw]; rfl
    cases hh : (s.nd n).power.pg <;> simp [Node.firstPhase, hh, ← ha, State.firstStep, State.beginCut, e, hpg, hst u rfl]
  case cycle =>
    by_cases hon : (s.nd n).power.condition = .on
    · have hpw : (s.nd n).power.feedCut = false ∧ (s.nd n).power.pg = .high := by
        unfold Power.condition at hon
        cases hq : (s.nd n).power.feedCut <;> simp [hq] at hon ⊢
        exact hon
      have hcu : u.condition n = .on := hc.trans hon
      cases hm : (s.set n).choices.method with
      | soft =>
        exact plain .press (s.set n).timings.press (by simp) (by simp [Node.feedCutBy, hm]) (by simp [Node.firstPhase, hon, hm])
          (by rw [← hst u rfl]; simp [← ha, State.firstStep, hcu, hm])
      | hard =>
        exact plain .hold (s.set n).timings.hold (by simp) (by simp [Node.feedCutBy, hm]) (by simp [Node.firstPhase, hon, hm])
          (by rw [← hst u rfl]; simp [← ha, State.firstStep, hcu, hm])
      | cut =>
        obtain ⟨w, l, e, hw⟩ := cut hpw.1 (by simp) (by simp [Node.feedCutBy, hon, hm])
        refine mid _ w l e hw ?_
        have hpg : (u.setNd n w).pgHigh n = true := by
          rw [State.pgHigh, State.nd_setNd_same, hw]; simp [Node.started, hpw.2]
        simp [Node.firstPhase, hon, hm, ← ha, State.firstStep, hcu, State.beginCut, e, hpg, hst u rfl]
    · have hcu : ¬ u.condition n = .on := fun q => hon (hc.symm.trans q)
      exact plain .dwell (s.set n).timings.dwell (by simp) (by simp [Node.feedCutBy, hon]) (by simp [Node.firstPhase, hon])
        (by rw [← hst u rfl]; simp [← ha, State.firstStep, hcu, State.beginDwell])
  case on =>
    by_cases hcut : (s.nd n).power.feedCut = true
    · have hcond := Power.condition_cut hcut
      have hcu : u.condition n = .cut := hc.trans hcond
      have e := u.releaseFeedCut_eq n (by rw [hun]; exact hcut)
      have hg : u.graceFrom n = s.graceFrom n := by rw [← hu]; rfl
      refine mid _ _ ((u.releaseFeedCut n).nd n).line e ?_ ?_
      · rw [hun, hg, ← ha]
        simp [Node.withStart, Node.started, Node.feedCutBy, Power.condition, hcut]
      · have hpg : (u.releaseFeedCut n).pgHigh n = ((s.nd n).power.pg == .high) := by
          rw [e, State.pgHigh, State.nd_setNd_same, hun]; rfl
        cases hh : (s.nd n).power.pg <;>
          simp [Node.firstPhase, hcond, hh, ← ha, State.firstStep, State.beginOn, hcu, hpg, hst u rfl]
    · have hoff : (s.nd n).power.pg ≠ .high := by
        intro hp
        simp [State.condition, Power.condition, hcut, hp, ActionKind.allowed] at h
      have hcond : (s.nd n).power.condition ≠ .cut := fun q => hcut ((Power.condition_eq_cut _).1 q)
      have hcu : ¬ u.condition n = .cut := fun q => hcond (hc.symm.trans q)
      have hpg : u.pgHigh n = false := by rw [State.pgHigh, hun]; simpa [Node.withStart] using hoff
      refine mid u (u.nd n) (s.nd n).line (by simp) ?_ ?_
      · rw [hun, ← ha]
        simp [Node.withStart, Node.started, Node.feedCutBy, Power.condition, hcut]
      · simp [Node.firstPhase, hcond, ← ha, State.firstStep, State.beginOn, hcu, hpg, hst u rfl]

/-! ### Ends of actions -/

/-- The current action ends as `State.ActionEnded` says, and nothing of the part but its node changes (R142, R145). -/
theorem State.finish_ended (s : State) (n : NodeId) (r : ActionResult) {a : Action} {q : Option Queued} {ab : Bool}
    (hc : (s.nd n).power.ctrl = .acting a q ab) :
    s.finish n r = s.setNd n ((s.finish n r).nd n) ∧ (s.finish n r).ActionEnded n (s.nd n) a q r := by
  unfold State.finish
  simp only [hc, State.finishLast_eq]
  cases q with
  | none => simp [State.ActionEnded]
  | some z =>
    have hcond : (((s.nd n).atRest .idle).withEnd (s.set n).delivery.mask (s.graceFrom n) (a.final r none)).power.condition
        = (s.nd n).power.condition := rfl
    simp only [State.comeUp, State.condition_setNd, hcond]
    by_cases hq : z.kind.allowed (s.nd n).power.condition = true
    · simp only [hq, if_true]
      have := State.launch_started (s.setNd n (((s.nd n).atRest .idle).withEnd (s.set n).delivery.mask (s.graceFrom n) (a.final r none))) n z.kind z.source (by rw [State.condition_setNd, hcond]; exact hq)
      rw [State.setNd_setNd, State.nd_setNd_same] at this
      refine ⟨this.1, ?_⟩
      have hset := congrArg (fun t => State.set t n) this.1
      have hg := congrArg (fun t => State.graceFrom t n) this.1
      simp only [State.set_setNd, State.graceFrom_setNd] at hset hg
      simp only [State.ActionEnded, hq, if_true, hset, hg]
      exact this.2
    · simp [hq, State.ActionEnded, State.recordEnd_eq]

/-- The current action ends with a lock as `State.ActionLocked` says, and nothing of the part but its node changes
(R142, R145, R161). -/
theorem State.lock_locked (s : State) (n : NodeId) (c : LockCause) {a : Action} {q : Option Queued} {ab : Bool}
    (hc : (s.nd n).power.ctrl = .acting a q ab) :
    s.lock n c = s.setNd n ((s.lock n c).nd n) ∧ (s.lock n c).ActionLocked n (s.nd n) a q c := by
  unfold State.lock
  simp only [hc]
  have e : ((s.releaseButtons n).ctrlTo n (.locked c)) = s.setNd n ((s.nd n).atRest (.locked c)) := by
    simp [State.releaseButtons, State.ctrlTo, State.mapPower, Node.atRest]
  rw [e, State.recordEnd_eq, State.recoveryReport_eq _ _ _ .failed (by simp)]
  cases q <;> simp [State.ActionLocked, State.recordEnd_eq]

/-- What an ended action leaves depends on the node without its controller, its button lines and the pending notice. -/
theorem State.ActionEnded.congr {t : State} {n : NodeId} {x y : Node} {a : Action} {q : Option Queued} {r : ActionResult}
    (h : t.ActionEnded n x a q r)
    (e : ∀ mask g f, (x.atRest .idle).withEnd mask g f = (y.atRest .idle).withEnd mask g f) : t.ActionEnded n y a q r := by
  have hc : x.power.condition = y.power.condition := congrArg (fun z => z.power.condition) (e 0 0 (a.final r none))
  unfold State.ActionEnded at h ⊢
  simp only [e, hc] at h
  exact h

/-- What an ended action leaves is not asked of the line. -/
theorem State.ActionEnded.line {t : State} {n : NodeId} {x : Node} {a : Action} {q : Option Queued} {r : ActionResult}
    (h : t.ActionEnded n x a q r) : t.ActionEnded n { x with line := (t.nd n).line } a q r := by
  unfold State.ActionEnded at h ⊢
  cases q with
  | none => simp only at h ⊢; rw [h]; rfl
  | some z =>
    simp only at h ⊢
    split
    · next hq => rw [if_pos hq] at h; exact h
    · next hq =>
      rw [if_neg hq] at h; rw [h]; rfl

/-- The same of an action that goes on. -/
theorem State.GoesOn.line {t : State} {n : NodeId} {x : Node} {a : Action} {q : Option Queued} {ab : Bool} {ph : Phase} {ms : Nat}
    (h : t.GoesOn n x a q ab ph ms) : t.GoesOn n { x with line := (t.nd n).line } a q ab ph ms := by
  refine ⟨h.1, ?_⟩
  have e := h.2
  have hl : (t.nd n).line = x.line := by rw [e]
  rw [hl]; exact e

/-! ### The boot event -/

/-- The part with the media side of node `n`, and the pages and entries of the pool, replaced. -/
def State.withMedia (s : State) (n : NodeId) (m : Media) (c : NodeCache) (f : List Nat) (e : List Entry) (l : List Nat) : State :=
  { s.setNd n { s.nd n with media := m, cache := c } with free := f, entries := e, lru := l }

/-- Of two replacements the later one stands. -/
theorem State.withMedia_withMedia (s : State) (n : NodeId) (m m' : Media) (c c' : NodeCache) (f f' : List Nat)
    (e e' : List Entry) (l l' : List Nat) :
    (s.withMedia n m c f e l).withMedia n m' c' f' e' l' = s.withMedia n m' c' f' e' l' := by
  have : (s.withMedia n m c f e l).nd n = { s.nd n with media := m, cache := c } := State.nd_setNd_same _ _ _
  unfold State.withMedia at this ⊢
  rw [this]
  simp [State.setNd]

/-- Between the two states nothing has changed but the media side of node `n`, with the pages and entries of the pool. -/
def State.MediaSide (s t : State) (n : NodeId) : Prop := ∃ m c f e l, t = s.withMedia n m c f e l

/-- What changes nothing changes the media side alone. -/
theorem State.MediaSide.refl (s : State) (n : NodeId) : s.MediaSide s n :=
  ⟨(s.nd n).media, (s.nd n).cache, s.free, s.entries, s.lru, by
    have : s = { s.setNd n (s.nd n) with free := s.free, entries := s.entries, lru := s.lru } := by rw [State.setNd_nd]
    exact this⟩

/-- Two such changes are one. -/
theorem State.MediaSide.trans {s t u : State} {n : NodeId} (h : s.MediaSide t n) (k : t.MediaSide u n) : s.MediaSide u n := by
  obtain ⟨m, c, f, e, l, rfl⟩ := h
  obtain ⟨m', c', f', e', l', rfl⟩ := k
  exact ⟨m', c', f', e', l', State.withMedia_withMedia _ _ _ _ _ _ _ _ _ _ _ _⟩

theorem State.MediaSide.mapMedia (s : State) (n : NodeId) (f : Media → Media) : s.MediaSide (s.mapMedia n f) n :=
  ⟨f (s.nd n).media, (s.nd n).cache, s.free, s.entries, s.lru, rfl⟩

theorem State.MediaSide.freeEntry (s : State) (e : Entry) : s.MediaSide (s.freeEntry e) e.node :=
  ⟨(s.nd e.node).media, _, _, _, _, rfl⟩

theorem State.MediaSide.freeAll {n : NodeId} (l : List Entry) (s : State) (h : ∀ e ∈ l, e.node = n) :
    s.MediaSide (l.foldl State.freeEntry s) n := by
  induction l generalizing s with
  | nil => exact .refl _ _
  | cons e es ih =>
    have he := h e (by simp)
    exact (he ▸ State.MediaSide.freeEntry s e).trans (ih _ (fun x hx => h x (by simp [hx])))

theorem State.MediaSide.freeWhere {n : NodeId} (s : State) (f : Entry → Bool) (h : ∀ e, f e = true → e.node = n) :
    s.MediaSide (s.freeWhere f) n :=
  State.MediaSide.freeAll _ _ (fun e he => h e (List.mem_filter.1 he).2)

/-- A drain changes the media side alone (R81). -/
theorem State.MediaSide.drain (s : State) (n : NodeId) : s.MediaSide (s.drain n) n := by
  unfold State.drain
  split
  · exact .refl _ _
  · split
    · exact .refl _ _
    · simp only
      have h1 : s.MediaSide ((s.slotTo n .withdrawing).leaveReady n) n := by
        refine (State.MediaSide.mapMedia s n _ : s.MediaSide (s.slotTo n .withdrawing) n).trans ?_
        unfold State.leaveReady
        split
        · exact .mapMedia _ _ _
        · exact .refl _ _
      have h2 := h1.trans (State.MediaSide.freeWhere ((s.slotTo n .withdrawing).leaveReady n)
        (fun e => e.node == n && e.state.isFilling) (by intro e he; simp at he; exact he.1))
      generalize State.freeWhere _ _ = u at h2
      have hd : ∀ v : State, v.MediaSide (v.drainEnd n) n := by
        intro v
        unfold State.drainEnd
        split
        · exact .refl _ _
        · split
          · exact (State.MediaSide.freeWhere v _ (by intro e he; simpa using he)).trans (.mapMedia _ _ _)
          · exact .refl _ _
      split
      · refine (h2.trans ?_).trans (hd _)
        unfold State.returnFlushing
        refine State.MediaSide.trans ?_ ⟨_, _, _, _, _, rfl⟩
        generalize (u.nd n).cache.outstanding = ps
        clear h2 h1
        induction ps generalizing u with
        | nil => exact .refl _ _
        | cons p ps ih =>
          have h0 := State.MediaSide.refl u n
          obtain ⟨m, c, f, e, l, h0⟩ := h0
          have h1 : u.MediaSide (u.setEntry p .dirty) n :=
            ⟨m, c, f, _, l, by rw [State.setEntry]; exact congrArg (fun v : State => ({ v with entries := u.entries.map (fun (e : Entry) => if e.page = p then { e with state := .dirty } else e) } : State)) h0⟩
          exact h1.trans (ih _)
      · exact h2.trans (hd _)

/-- The ONCE rule changes the media side alone (R85). -/
theorem State.MediaSide.onceRule (s : State) (n : NodeId) : s.MediaSide (s.onceRule n) n := by
  unfold State.onceRule
  split
  · exact .refl _ _
  · split
    · exact .refl _ _
    · split
      · exact .drain _ _
      · exact .refl _ _

/-- The monitor at a boot event (R154, R156). -/
theorem State.liveBoot_eq (s : State) (n : NodeId) :
    s.liveBoot n = s.setNd n { s.nd n with live :=
      if (s.nd n).power.condition = .on then (s.nd n).live.booted (s.graceFrom n) else (s.nd n).live } := by
  have hcond : s.condition n = (s.nd n).power.condition := rfl
  unfold State.liveBoot Live.booted
  rw [hcond]
  by_cases hc : (s.nd n).power.condition = .on
  · cases hm : (s.nd n).live.monitor <;>
      simp [hc, hm, Monitor.active, State.enterGrace, State.mapLive, Live.enter, Monitor.code, State.graceFrom, State.after] <;>
      exact (s.setNd_self n _ rfl).symm
  · simp [hc]; exact (s.setNd_self n _ rfl).symm

/-- What a boot event leaves of its node, and that it changes nothing else but the pool (R18, R85, R129). -/
theorem State.bootEvent_eq (s : State) (n : NodeId) :
    ∃ (l : Line) (m : Media) (c : NodeCache) (f : List Nat) (e : List Entry) (u : List Nat),
      s.bootEvent n = { s.setNd n { (s.nd n).booted (s.set n).delivery.mask (s.graceFrom n) with line := l, media := m, cache := c } with
        free := f, entries := e, lru := u } := by
  have h := State.MediaSide.onceRule
    (((((s.mapPower n (fun p => { p with boot := p.boot + 1 })).record n .boot).powerNotice n).rearmLine n).watchBoot n |>.liveBoot n) n
  have he : s.bootEvent n = (((((s.mapPower n (fun p => { p with boot := p.boot + 1 })).record n .boot).powerNotice n).rearmLine n).watchBoot n |>.liveBoot n).onceRule n := rfl
  rw [he]
  have hr : ∃ l, (((s.mapPower n (fun p => { p with boot := p.boot + 1 })).record n .boot).powerNotice n).rearmLine n =
      s.setNd n { s.nd n with
        line := l
        hist := (s.nd n).hist.record (s.set n).delivery.mask ((s.nd n).power.boot + 1) .boot 0
        power := { (s.nd n).power with boot := (s.nd n).power.boot + 1, statePending := true } } := by
    unfold State.rearmLine
    split
    · exact ⟨_, by simp [State.enterHunting, State.mapLine, State.powerNotice, State.record, State.mapPower, State.mapHist]; rfl⟩
    · exact ⟨(s.nd n).line, by simp [State.powerNotice, State.record, State.mapPower, State.mapHist]⟩
  obtain ⟨l, hl⟩ := hr
  rw [hl, State.liveBoot_eq] at h ⊢
  obtain ⟨m, c, f, e, u, h⟩ := h
  refine ⟨l, m, c, f, e, u, h.trans ?_⟩
  unfold State.withMedia
  simp [State.watchBoot, State.mapWatch, State.graceFrom, Node.booted]
  rfl

/-- DWELL ends: from OFF and from CUT with pg low the action goes on, the feed released; with pg high it ends (R133, R138). -/
theorem State.dwellExpires_says (s : State) (n : NodeId) (a : Action) (q : Option Queued) (ab : Bool)
    (hc : (s.nd n).power.ctrl = .acting a q ab) :
    let p := (s.nd n).power
    let x := s.nd n
    let y := (s.set n).timings
    let t := s.dwellExpires n a
    let on := { a with onPart := true }
    let fed : Node := { x with line := (t.nd n).line, power := { p with feedCut := false } }
    t = s.setNd n (t.nd n) ∧
    (s.condition n = .off → t.GoesOn n x on q ab .press y.press) ∧
    (s.condition n = .cut → p.pg ≠ .high → t.GoesOn n fed on q ab .settle y.settle) ∧
    (p.pg = .high →
           t.ActionEnded n { fed with live := x.live.followed (s.condition n) .on (t.graceFrom n) } a q .done) := by
  intro p x y t on fed
  by_cases hcut : p.feedCut = true
  · have hcc : s.condition n = .cut := Power.condition_cut hcut
    have e := s.releaseFeedCut_eq n hcut
    simp only at e
    generalize hv : s.releaseFeedCut n = v at e
    by_cases hp : p.pg = .high
    · have hvp : v.pgHigh n = true := by rw [e, State.pgHigh, State.nd_setNd_same]; simpa using hp
      have ht : t = v.finish n .done := by
        simp only [t, State.dwellExpires, State.beginOn, hcc, if_true, hv, hvp]
      have hvc : (v.nd n).power.ctrl = .acting a q ab := by rw [e, State.nd_setNd_same]; exact hc
      have f := v.finish_ended n .done hvc
      rw [← ht] at f
      have hts : t = s.setNd n (t.nd n) := by have := f.1; rw [e, State.setNd_setNd] at this; exact this
      refine ⟨hts, ?_, ?_, ?_⟩
      · intro h; rw [hcc] at h; cases h
      · intro _ h; exact absurd hp h
      · intro _
        have hg : t.graceFrom n = s.graceFrom n := by rw [hts]; rfl
        refine f.2.line.congr ?_
        intro mask g r
        rw [e, State.nd_setNd_same, hcc, hg]
        simp [Node.atRest, Node.withEnd, fed, x, p, Power.condition]
        rw [if_pos hp]
        refine ⟨⟨?_, ?_⟩, ?_⟩ <;> rfl
    · have hvp : v.pgHigh n = false := by rw [e, State.pgHigh, State.nd_setNd_same]; simpa using hp
      have ht : t = v.enterPhase n on .settle y.settle := by
        simp only [t, State.dwellExpires, State.beginOn, hcc, if_true, hv, hvp]
        rfl
      have f := State.enterPhase_goesOn v n { fed with line := (v.nd n).line } on a q ab .settle y.settle (by rw [e, State.nd_setNd_same]; exact hc)
        (by rw [e, State.nd_setNd_same]; simp [Power.condition, hp, fed, x, p, Live.followed])
      rw [← ht] at f
      refine ⟨?_, ?_, ?_, ?_⟩
      · have := f.1; rw [e, State.setNd_setNd] at this; exact this
      · intro h; rw [hcc] at h; cases h
      · intro _ _; exact f.2.line
      · intro h; exact absurd h hp
  · have hcf : p.feedCut = false := by simpa using hcut
    have hcc : ¬ s.condition n = .cut := fun k => hcut ((Power.condition_eq_cut _).1 k)
    by_cases hp : p.pg = .high
    · have hvp : s.pgHigh n = true := by simpa [State.pgHigh] using hp
      have hon : s.condition n = .on := by
        have h1 : (s.nd n).power.pg = .high := hp
        have h2 : (s.nd n).power.feedCut = false := hcf
        simp [State.condition, Power.condition, h1, h2]
      have ht : t = s.finish n .done := by
        simp only [t, State.dwellExpires, State.beginOn, hcc, if_false, hvp, if_true]
      have f := s.finish_ended n .done hc
      rw [← ht] at f
      refine ⟨f.1, ?_, ?_, ?_⟩
      · intro h; rw [hon] at h; cases h
      · intro h; exact absurd h hcc
      · intro _
        refine f.2.line.congr ?_
        intro mask g r
        simp [Node.atRest, Node.withEnd, fed, x, p, hon, ← hcf]
    · have hvp : s.pgHigh n = false := by simpa [State.pgHigh] using hp
      have ht : t = s.enterPhase n on .press y.press := by
        simp only [t, State.dwellExpires, State.beginOn, hcc, if_false, hvp]
        rfl
      have f := State.enterPhase_goesOn s n x on a q ab .press y.press hc rfl
      rw [← ht] at f
      exact ⟨f.1, fun _ => f.2, fun h => absurd h hcc, fun h => absurd h hp⟩

/-- The end of an action leaves the media side. -/
theorem State.ActionEnded.media {t : State} {n : NodeId} {x : Node} {a : Action} {q : Option Queued} {r : ActionResult}
    (h : t.ActionEnded n x a q r) : (t.nd n).media = x.media ∧ (t.nd n).cache = x.cache := by
  unfold State.ActionEnded at h
  cases q with
  | none => simp only at h; rw [h]; exact ⟨rfl, rfl⟩
  | some z =>
    simp only at h
    split at h
    · unfold State.ActionStarted at h
      simp only at h
      split at h
      · rw [h.2]; exact ⟨rfl, rfl⟩
      · rw [h]; exact ⟨rfl, rfl⟩
    · rw [h]; exact ⟨rfl, rfl⟩

/-- A boot event with the end of the action after it (R129, R139, R142). -/
theorem State.boot_finish (s : State) (n : NodeId) (a : Action) (q : Option Queued) (ab : Bool) (r : ActionResult) (hc : (s.nd n).power.ctrl = .acting a q ab) :
    let t := (s.bootEvent n).finish n r
    t = { s with nodes := t.nodes, free := t.free, entries := t.entries, lru := t.lru } ∧ (∀ k, k ≠ n → t.nd k = s.nd k) ∧
    t.ActionEnded n { (s.nd n).booted (s.set n).delivery.mask (t.graceFrom n) with
           line := (t.nd n).line, media := (t.nd n).media, cache := (t.nd n).cache } a q r := by
  intro t
  obtain ⟨l, m, c, f, e, u, hb⟩ := s.bootEvent_eq n
  have hn : (s.bootEvent n).nd n = { (s.nd n).booted (s.set n).delivery.mask (s.graceFrom n) with line := l, media := m, cache := c } := by
    rw [hb]; exact State.nd_setNd_same _ _ _
  have hf := (s.bootEvent n).finish_ended n r (a := a) (q := q) (ab := ab) (by rw [hn]; exact hc)
  have ht : t = (s.bootEvent n).setNd n (t.nd n) := hf.1
  have hg : t.graceFrom n = s.graceFrom n := by rw [ht, hb]; rfl
  refine ⟨?_, ?_, ?_⟩
  · rw [ht, hb]; rfl
  · intro k hk; rw [ht, State.nd_setNd_ne _ _ hk, hb]; exact State.nd_setNd_ne _ _ hk
  · have h1 := hf.2.line
    have h2 := hf.2.media
    rw [hn] at h1 h2
    change (t.nd n).media = m ∧ (t.nd n).cache = c at h2
    rw [h2.1, h2.2, hg]
    exact h1

/-- PULSE ends: a RESET with a boot event, and the action with it (R139, R140, R147). -/
theorem State.pulseEnds_says (s : State) (n : NodeId) (a : Action) (q : Option Queued) (ab : Bool) (hc : (s.nd n).power.ctrl = .acting a q ab) :
    let x := s.nd n
    let t := s.pulseEnds n a
    let boots := a.kind = .reset
    let booted : Node := { x.booted (s.set n).delivery.mask (t.graceFrom n) with
           line := (t.nd n).line, media := (t.nd n).media, cache := (t.nd n).cache }
    t = { s with nodes := t.nodes, free := t.free, entries := t.entries, lru := t.lru } ∧ (∀ k, k ≠ n → t.nd k = s.nd k) ∧
    t.ActionEnded n (if boots then booted else x) a q (if ab then .aborted else .done) := by
  intro x t boots booted
  have hr : s.releaseButtons n = s.setNd n { s.nd n with power := { (s.nd n).power with btnPwr := false, btnRst := false, diag := false } } := rfl
  have hrc : ((s.releaseButtons n).nd n).power.ctrl = .acting a q ab := by rw [hr, State.nd_setNd_same]; exact hc
  have hab : s.aborting n = ab := by simp [State.aborting, hc]
  by_cases hk : a.kind = .reset
  · have ht : t = ((s.releaseButtons n).bootEvent n).finish n (if ab then .aborted else .done) := by
      simp [t, State.pulseEnds, hk, hab]
    have h := (s.releaseButtons n).boot_finish n a q ab (if ab then .aborted else .done) hrc
    simp only at h
    rw [← ht] at h
    obtain ⟨h1, h2, h3⟩ := h
    refine ⟨h1, ?_, ?_⟩
    · intro k hn; rw [h2 k hn, hr, State.nd_setNd_ne _ _ hn]
    · simp only [boots, hk, if_true]
      refine h3.congr ?_
      intro mask g r
      rw [hr, State.nd_setNd_same]
      rfl
  · have ht : t = (s.releaseButtons n).finish n (if ab then .aborted else .done) := by
      simp [t, State.pulseEnds, hk, hab]
    have h := (s.releaseButtons n).finish_ended n (if ab then .aborted else .done) hrc
    rw [← ht] at h
    have e : t = s.setNd n (t.nd n) := by have := h.1; rw [hr, State.setNd_setNd] at this; exact this
    refine ⟨by rw [e]; rfl, fun k hn => by rw [e, State.nd_setNd_ne _ _ hn], ?_⟩
    simp only [boots, hk, if_false]
    refine h.2.congr ?_
    intro mask g r
    rw [hr, State.nd_setNd_same]
    rfl

/-! ### pg -/

/-- The condition is re-derived with the feed as it was, and a notice pending: the monitor follows it, and nothing else changes
(R128, R154). -/
theorem State.conditionChange_fed (s : State) (n : NodeId) (old : Condition) (hc : old = .cut ↔ s.condition n = .cut)
    (hs : (s.nd n).power.statePending = true) :
    s.conditionChange n old false = s.setNd n { s.nd n with live := (s.nd n).live.followed old (s.condition n) (s.graceFrom n) } := by
  have hp : s.powerNotice n = s := by
    have : { (s.nd n).power with statePending := true } = (s.nd n).power := by rw [← hs]
    simp only [State.powerNotice, State.mapPower, this]; exact s.setNd_nd n
  unfold State.conditionChange
  by_cases h : s.condition n = old
  · simp [h]; exact (s.setNd_self n _ rfl).symm
  · have h1 : ¬ s.condition n = .cut := fun k => h (k.trans (hc.2 k).symm)
    have h2 : ¬ old = .cut := fun k => h1 (hc.1 k)
    simp only [h, h1, h2, if_false, hp]
    by_cases ho : old = .on
    · subst ho
      rw [if_pos rfl, State.liveLeavesOn_eq]
      simp [Live.followed, h]
    · rw [if_neg ho]
      by_cases hn : s.condition n = .on
      · rw [if_pos ⟨hn, trivial⟩, State.liveBecomesOn_eq]
        simp [Live.followed, ho, hn]
      · rw [if_neg (fun k => hn k.1)]
        simp [Live.followed, ho, hn]; exact (s.setNd_self n _ rfl).symm

/-- The same before a boot event, which the monitor is handed in its place (R154). -/
theorem State.conditionChange_boot (s : State) (n : NodeId) (old : Condition) (hc : old = .cut ↔ s.condition n = .cut)
    (ho : old ≠ .on) (hs : (s.nd n).power.statePending = true) :
    s.conditionChange n old true = s := by
  have hp : s.powerNotice n = s := by
    have : { (s.nd n).power with statePending := true } = (s.nd n).power := by rw [← hs]
    simp only [State.powerNotice, State.mapPower, this]; exact s.setNd_nd n
  unfold State.conditionChange
  by_cases h : s.condition n = old
  · simp [h]
  · have h1 : ¬ s.condition n = .cut := fun k => h (k.trans (hc.2 k).symm)
    have h2 : ¬ old = .cut := fun k => h1 (hc.1 k)
    simp [h, h1, h2, hp, ho]

/-- The first acceptance of pg changes its node alone (R151, R154). -/
theorem State.initialPg_says (s : State) (n : NodeId) (high : Bool) :
    let x := s.nd n
    let acc := x.accepted high
    s.initialPg n high = s.setNd n { acc with
        hist := if high then x.hist.record (s.set n).delivery.mask x.power.boot .pgUp 0 else x.hist
        live := x.live.followed (s.condition n) acc.power.condition (s.graceFrom n) } := by
  intro x acc
  have e : ∃ w : Node, w = { acc with hist := if high then x.hist.record (s.set n).delivery.mask x.power.boot .pgUp 0 else x.hist } ∧
      s.initialPg n high = (s.setNd n w).conditionChange n (s.condition n) false := by
    refine ⟨_, rfl, ?_⟩
    unfold State.initialPg
    cases high <;> simp [State.record, State.powerNotice, State.mapPower, State.mapHist, acc, x, Node.accepted]
  obtain ⟨w, hw, e⟩ := e
  have hcond : (s.setNd n w).condition n = acc.power.condition := by rw [State.condition_setNd, hw]
  rw [e, State.conditionChange_fed]
  · rw [hcond, State.setNd_setNd, State.nd_setNd_same, State.graceFrom_setNd, hw]; rfl
  · rw [hcond, State.condition, Power.condition_eq_cut, Power.condition_eq_cut]; rfl
  · rw [State.nd_setNd_same, hw]; rfl

/-- A fall of pg, before it reaches the action: PG_DOWN, and the monitor (R127, R128, R154). -/
theorem State.pgFall_says (s : State) (n : NodeId) :
    let x := s.nd n
    let acc := x.accepted false
    s.pgFall n = (s.setNd n { acc with
        hist := x.hist.record (s.set n).delivery.mask x.power.boot .pgDown 0
        live := x.live.followed (s.condition n) acc.power.condition (s.graceFrom n) }).actionFall n := by
  intro x acc
  have e : ∃ w : Node, w = { acc with hist := x.hist.record (s.set n).delivery.mask x.power.boot .pgDown 0 } ∧
      s.pgFall n = ((s.setNd n w).conditionChange n (s.condition n) false).actionFall n := by
    refine ⟨_, rfl, ?_⟩
    unfold State.pgFall
    simp [State.record, State.powerNotice, State.mapPower, State.mapHist, acc, x, Node.accepted]
  obtain ⟨w, hw, e⟩ := e
  have hcond : (s.setNd n w).condition n = acc.power.condition := by rw [State.condition_setNd, hw]
  rw [e, State.conditionChange_fed]
  · rw [hcond, State.setNd_setNd, State.nd_setNd_same, State.graceFrom_setNd, hw]; rfl
  · rw [hcond, State.condition, Power.condition_eq_cut, Power.condition_eq_cut]; rfl
  · rw [State.nd_setNd_same, hw]; rfl

/-- A rise of pg, before it reaches the action: PG_UP and the boot event (R127, R129). -/
theorem State.pgRise_says (s : State) (n : NodeId) (hp : (s.nd n).power.pg = .low) :
    let x := s.nd n
    s.pgRise n = ((s.setNd n { x.accepted true with
        hist := x.hist.record (s.set n).delivery.mask x.power.boot .pgUp 0 }).bootEvent n).actionRise n := by
  intro x
  have e : ∃ w : Node, w = { x.accepted true with hist := x.hist.record (s.set n).delivery.mask x.power.boot .pgUp 0 } ∧
      s.pgRise n = (((s.setNd n w).conditionChange n (s.condition n) true).bootEvent n).actionRise n := by
    refine ⟨_, rfl, ?_⟩
    unfold State.pgRise
    simp [State.record, State.powerNotice, State.mapPower, State.mapHist, x, Node.accepted]
  obtain ⟨w, hw, e⟩ := e
  have hcond : (s.setNd n w).condition n = (x.accepted true).power.condition := by rw [State.condition_setNd, hw]
  rw [e, State.conditionChange_boot, hw]
  · rw [hcond, State.condition, Power.condition_eq_cut, Power.condition_eq_cut]; rfl
  · unfold State.condition Power.condition
    cases (s.nd n).power.feedCut <;> simp [hp]
  · rw [State.nd_setNd_same, hw]; rfl

/-- What a fall of pg makes of the running action (R134 to R139, R141, R147). -/
theorem State.actionFall_says (s : State) (n : NodeId) :
    let fell := s.nd n
    let p := fell.power
    let t := s.actionFall n
    t = s.setNd n (t.nd n) ∧
    ((∀ a q ab, p.ctrl ≠ .acting a q ab) → t.nd n = fell) ∧
    ∀ a q ab, p.ctrl = .acting a q ab →
        let downEnds := (a.phase = .press ∧ a.onPart = false) ∨ a.phase = .awaitDown ∨ a.phase = .hold ∨
          a.phase = .cutCheck ∨ (a.phase = .pulse ∧ a.kind = .reset)
        (¬downEnds → t.nd n = fell) ∧
        (downEnds → ab = true → t.ActionEnded n fell a q .aborted) ∧
        (downEnds → ab = false → a.kind = .reset → t.ActionLocked n fell a q .resetDroppedPower) ∧
        (downEnds → ab = false → a.kind = .cycle → t.GoesOn n fell a q ab .dwell (s.set n).timings.dwell) ∧
        (downEnds → ab = false → a.kind ≠ .reset → a.kind ≠ .cycle → t.ActionEnded n fell a q .done) := by
  intro fell p t
  cases hc : p.ctrl with
  | acting a q ab =>
    have hc' : (s.nd n).power.ctrl = .acting a q ab := hc
    have hd : a.endsOnFall = true ↔ ((a.phase = .press ∧ a.onPart = false) ∨ a.phase = .awaitDown ∨ a.phase = .hold ∨
          a.phase = .cutCheck ∨ (a.phase = .pulse ∧ a.kind = .reset)) := by
      unfold Action.endsOnFall; cases hph : a.phase <;> simp
    have ht : t = if a.endsOnFall then (if ab then s.finish n .aborted else if a.kind = .reset then s.lock n .resetDroppedPower
        else if a.kind = .cycle then s.beginDwell n a else s.finish n .done) else s := by
      simp only [t, State.actionFall, hc']
    by_cases hde : a.endsOnFall = true
    · rw [if_pos hde] at ht
      cases ab with
      | true =>
        simp only [if_true] at ht
        have f := s.finish_ended n .aborted hc'
        rw [← ht] at f
        refine ⟨f.1, fun h => absurd rfl (h a q true), ?_⟩
        rintro a' q' ab' ⟨⟩
        exact ⟨fun h => absurd (hd.1 hde) h, fun _ _ => f.2, fun _ h => absurd h (by simp), fun _ h => absurd h (by simp), fun _ h => absurd h (by simp)⟩
      | false =>
        simp only [Bool.false_eq_true, if_false] at ht
        by_cases hk : a.kind = .reset
        · rw [if_pos hk] at ht
          have f := s.lock_locked n .resetDroppedPower hc'
          rw [← ht] at f
          refine ⟨f.1, fun h => absurd rfl (h a q false), ?_⟩
          rintro a' q' ab' ⟨⟩
          exact ⟨fun h => absurd (hd.1 hde) h, fun _ h => absurd h (by simp), fun _ _ _ => f.2, fun _ _ h => (by rw [hk] at h; cases h), fun _ _ h => absurd hk h⟩
        · rw [if_neg hk] at ht
          by_cases hk' : a.kind = .cycle
          · rw [if_pos hk'] at ht
            have f := State.enterPhase_goesOn s n fell a a q false .dwell (s.set n).timings.dwell hc' rfl
            change t = s.enterPhase n a .dwell (s.set n).timings.dwell at ht
            rw [← ht] at f
            refine ⟨f.1, fun h => absurd rfl (h a q false), ?_⟩
            rintro a' q' ab' ⟨⟩
            exact ⟨fun h => absurd (hd.1 hde) h, fun _ h => absurd h (by simp), fun _ _ h => absurd h hk, fun _ _ _ => f.2, fun _ _ _ h => absurd hk' h⟩
          · rw [if_neg hk'] at ht
            have f := s.finish_ended n .done hc'
            rw [← ht] at f
            refine ⟨f.1, fun h => absurd rfl (h a q false), ?_⟩
            rintro a' q' ab' ⟨⟩
            exact ⟨fun h => absurd (hd.1 hde) h, fun _ h => absurd h (by simp), fun _ _ h => absurd h hk, fun _ _ h => absurd h hk', fun _ _ _ _ => f.2⟩
    · rw [if_neg hde] at ht
      rw [ht]
      refine ⟨by simp, fun _ => rfl, ?_⟩
      rintro a' q' ab' ⟨⟩
      exact ⟨fun _ => rfl, fun h => absurd (hd.2 h) hde, fun h => absurd (hd.2 h) hde, fun h => absurd (hd.2 h) hde, fun h => absurd (hd.2 h) hde⟩
  | _ =>
    have hc' : (s.nd n).power.ctrl = _ := hc
    have ht : t = s := by simp only [t, State.actionFall, hc']
    rw [ht]
    exact ⟨by simp, fun _ => rfl, fun a q ab h => by cases h⟩

/-- What a rise of pg makes of the running action (R133, R138, R141, R147). -/
theorem State.actionRise_says (s : State) (n : NodeId) :
    let rose := s.nd n
    let p := rose.power
    let t := s.actionRise n
    t = s.setNd n (t.nd n) ∧
    ((∀ a q ab, p.ctrl ≠ .acting a q ab) → t.nd n = rose) ∧
    ∀ a q ab, p.ctrl = .acting a q ab → p.pg = .high →
        let upEnds := a.phase = .settle ∨ a.phase = .awaitUp ∨ a.phase = .dwell ∨ (a.phase = .press ∧ a.onPart = true)
        let fed : Node := { rose with power := { rose.power with feedCut := false }, live := rose.live.followed .cut .on (t.graceFrom n) }
        (¬upEnds → t.nd n = rose) ∧
        (upEnds → ab = true → t.ActionEnded n rose a q .aborted) ∧
        (upEnds → ab = false →
          t.ActionEnded n { (if a.phase = .dwell ∧ p.feedCut = true then fed else rose) with line := (t.nd n).line } a q .done) := by
  intro rose p t
  cases hc : p.ctrl with
  | acting a q ab =>
    have hc' : (s.nd n).power.ctrl = .acting a q ab := hc
    have hd : a.endsOnRise = true ↔ (a.phase = .settle ∨ a.phase = .awaitUp ∨ a.phase = .dwell ∨ (a.phase = .press ∧ a.onPart = true)) := by
      unfold Action.endsOnRise; cases hph : a.phase <;> simp
    have ht : t = if a.endsOnRise then (if ab then s.finish n .aborted else if a.phase = .dwell ∧ p.feedCut then
        (s.releaseFeedCut n).finish n .done else s.finish n .done) else s := by
      simp only [t, State.actionRise, hc']; rfl
    by_cases hde : a.endsOnRise = true
    · rw [if_pos hde] at ht
      cases ab with
      | true =>
        simp only [if_true] at ht
        have f := s.finish_ended n .aborted hc'
        rw [← ht] at f
        refine ⟨f.1, fun h => absurd rfl (h a q true), ?_⟩
        rintro a' q' ab' ⟨⟩ hpg
        exact ⟨fun h => absurd (hd.1 hde) h, fun _ _ => f.2, fun _ h => absurd h (by simp)⟩
      | false =>
        simp only [Bool.false_eq_true, if_false] at ht
        by_cases hk : a.phase = .dwell ∧ p.feedCut = true
        · rw [if_pos hk] at ht
          have e := s.releaseFeedCut_eq n hk.2
          simp only at e
          generalize hv : s.releaseFeedCut n = v at e ht
          have f := v.finish_ended n .done (a := a) (q := q) (ab := false) (by rw [e, State.nd_setNd_same]; exact hc)
          rw [← ht] at f
          have hts : t = s.setNd n (t.nd n) := by have := f.1; rw [e, State.setNd_setNd] at this; exact this
          refine ⟨hts, fun h => absurd rfl (h a q false), ?_⟩
          rintro a' q' ab' ⟨⟩ hpg
          have hg : t.graceFrom n = s.graceFrom n := by rw [hts]; rfl
          refine ⟨fun h => absurd (hd.1 hde) h, fun _ h => absurd h (by simp), fun _ _ => ?_⟩
          rw [if_pos hk]
          refine f.2.line.congr ?_
          intro mask g r
          have hpg' : (s.nd n).power.pg = .high := hpg
          rw [e, State.nd_setNd_same, hg]
          simp [Node.atRest, Node.withEnd, rose, Power.condition, hpg']
        · rw [if_neg hk] at ht
          have f := s.finish_ended n .done hc'
          rw [← ht] at f
          refine ⟨f.1, fun h => absurd rfl (h a q false), ?_⟩
          rintro a' q' ab' ⟨⟩ hpg
          refine ⟨fun h => absurd (hd.1 hde) h, fun _ h => absurd h (by simp), fun _ _ => ?_⟩
          rw [if_neg hk]
          exact f.2.line
    · rw [if_neg hde] at ht
      rw [ht]
      refine ⟨by simp, fun _ => rfl, ?_⟩
      rintro a' q' ab' ⟨⟩ hpg
      exact ⟨fun _ => rfl, fun h => absurd (hd.2 h) hde, fun h => absurd (hd.2 h) hde⟩
  | _ =>
    have hc' : (s.nd n).power.ctrl = _ := hc
    have ht : t = s := by simp only [t, State.actionRise, hc']
    rw [ht]
    exact ⟨by simp, fun _ => rfl, fun a q ab h => by cases h⟩
end Sys2Proof.Machine
end

