-- ==== Sys2Proof/Laws/Fields.lean ====
section
/-! SUPPORT. Fields and codes: a number comes back from its bytes, and a code names what it encodes. -/

namespace Sys2Proof.Machine

/-! ### Bytes (R193) -/

@[simp] theorem length_leBytes (k v : Nat) : (leBytes k v).length = k := by
  induction k generalizing v with
  | zero => rfl
  | succ k ih => simp [leBytes, ih]

/-- A number that fits in its field comes back from it. -/
theorem leNat_leBytes (k v : Nat) (h : v < 256 ^ k) : leNat (leBytes k v) = v := by
  induction k generalizing v with
  | zero => simp at h; simp [leBytes, leNat, h]
  | succ k ih =>
    have h' : v / 256 < 256 ^ k := by rw [Nat.pow_succ, Nat.mul_comm] at h; exact Nat.div_lt_of_lt_mul h
    simp only [leBytes, leNat, ih _ h', BitVec.toNat_ofNat]
    omega

/-- A field holds less than its width allows. -/
theorem leNat_lt (bs : List Byte) : leNat bs < 256 ^ bs.length := by
  induction bs with
  | nil => simp [leNat]
  | cons b bs ih =>
    have := b.isLt
    simp only [leNat, List.length_cons, Nat.pow_succ]
    omega

/-- The bytes of a field come back from the number they spell. -/
theorem leBytes_leNat (bs : List Byte) : leBytes bs.length (leNat bs) = bs := by
  induction bs with
  | nil => rfl
  | cons b bs ih =>
    have hb := b.isLt
    have h1 : (b.toNat + 256 * leNat bs) / 256 = leNat bs := by omega
    have h2 : BitVec.ofNat 8 (b.toNat + 256 * leNat bs) = b := by
      apply BitVec.eq_of_toNat_eq
      simp only [BitVec.toNat_ofNat]
      omega
    simp only [List.length_cons, leBytes, leNat, h1, h2, ih]

/-- Clamping into a range, as the manual's tables use it. -/
theorem clamp_eq {lo hi : Nat} (h : lo ≤ hi) (v : Nat) : clamp lo hi v = min hi (max lo v) := by
  unfold clamp; split <;> [skip; split] <;> omega

theorem clamp_bounds {lo hi : Nat} (h : lo ≤ hi) (v : Nat) : lo ≤ clamp lo hi v ∧ clamp lo hi v ≤ hi := by
  unfold clamp; split <;> [skip; split] <;> omega

/-! ### Codes -/

@[simp] theorem NodeId.ofByte_toByte (n : NodeId) : NodeId.ofByte n.toByte = some n := by cases n <;> rfl

/-- Only the NODE byte of a node names it. -/
theorem NodeId.ofByte_eq_some (b : Byte) (n : NodeId) : NodeId.ofByte b = some n ↔ b = n.toByte := by
  constructor
  · unfold NodeId.ofByte
    intro h
    split at h <;> [skip; split at h <;> [skip; split at h <;> [skip; split at h]]] <;> simp_all <;> subst h <;> rfl
  · rintro rfl; exact NodeId.ofByte_toByte n

theorem Parity.ofCode_code (p : Parity) : Parity.ofCode p.code = some p := by cases p <;> rfl
theorem ActionKind.ofCode_code (k : ActionKind) : ActionKind.ofCode k.code = some k := by cases k <;> rfl
theorem Escalation.ofCode_code (x : Escalation) : Escalation.ofCode x.code = some x := by cases x <;> rfl
theorem CycleMethod.ofCode_code (x : CycleMethod) : CycleMethod.ofCode x.code = some x := by cases x <;> rfl
theorem AbortPolicy.ofCode_code (x : AbortPolicy) : AbortPolicy.ofCode x.code = some x := by cases x <;> rfl
theorem WarningAction.ofCode_code (x : WarningAction) : WarningAction.ofCode x.code = some x := by cases x <;> rfl
theorem RecoveryAction.ofCode_code (x : RecoveryAction) : RecoveryAction.ofCode x.code = some x := by cases x <;> rfl
theorem WritePolicy.ofCode_code (x : WritePolicy) : WritePolicy.ofCode x.code = some x := by cases x <;> rfl

/-- A code above the listed ones names no action kind. -/
theorem ActionKind.ofCode_none (b : Byte) (h : b = 0 ∨ 7 < b) : ActionKind.ofCode b = none := by
  revert b; decide

theorem Parity.ofCode_none (b : Byte) (h : 4 < b) : Parity.ofCode b = Option.none := by revert b; decide
theorem Escalation.ofCode_none (b : Byte) (h : 1 < b) : Escalation.ofCode b = Option.none := by revert b; decide
theorem CycleMethod.ofCode_none (b : Byte) (h : 2 < b) : CycleMethod.ofCode b = none := by revert b; decide
theorem AbortPolicy.ofCode_none (b : Byte) (h : 1 < b) : AbortPolicy.ofCode b = none := by revert b; decide
theorem WarningAction.ofCode_none (b : Byte) (h : 1 < b) : WarningAction.ofCode b = none := by revert b; decide
theorem RecoveryAction.ofCode_none (b : Byte) (h : 2 < b) : RecoveryAction.ofCode b = Option.none := by revert b; decide
theorem WritePolicy.ofCode_none (b : Byte) (h : 2 < b) : WritePolicy.ofCode b = none := by revert b; decide

/-! ### The clock (R2, notes/assumptions/2.md) -/

/-- Time comes to a tick, or stays where it is past it. -/
@[simp] theorem Clock.toTick_ticks (fref t : Nat) (c : Clock) : (c.toTick fref t).ticks = max c.ticks t := by
  unfold Clock.toTick; split <;> simp <;> omega

/-- Time comes to a cycle, or stays where it is past it. -/
@[simp] theorem Clock.toCycle_cycles (fref k : Nat) (c : Clock) : (c.toCycle fref k).cycles = max c.cycles k := by
  simp only [Clock.toCycle, Clock.advance]; omega

/-- A tick that has been reached changes nothing. -/
theorem Clock.toTick_of_le {fref t : Nat} {c : Clock} (h : t ≤ c.ticks) : c.toTick fref t = c := by
  simp [Clock.toTick, h]

theorem State.toTick_of_le {s : State} {t : Nat} (h : t ≤ s.clock.ticks) : s.toTick t = s := by
  simp [State.toTick, Clock.toTick_of_le h]

end Sys2Proof.Machine
end

