-- ==== Sys2Proof/Laws/Line.lean ====
section
/-! SUPPORT. The Line Unit's shared operations: the bit period, and what each operation writes. -/

namespace Sys2Proof.Machine

/-! ### The bit period (R5) -/

/-- The divisor stays inside its range. -/
theorem divisor_bounds (fref b : Nat) : 16 ≤ divisor fref b ∧ divisor fref b ≤ 1048575 :=
  clamp_bounds (by decide) _

theorem State.bitPeriod_hunting {s : State} {n : NodeId} {w : Option Window} (h : (s.nd n).line.autobaud = .hunting w) :
    s.bitPeriod n = none := by simp [State.bitPeriod, State.lineRate, h]

theorem State.bitPeriod_locked {s : State} {n : NodeId} {r : Nat} {c : Option LockCheck}
    (h : (s.nd n).line.autobaud = .locked r c) : s.bitPeriod n = some (divisor s.cfg.fref r) := by
  simp [State.bitPeriod, State.lineRate, h]

theorem State.bitPeriod_fixed {s : State} {n : NodeId} {b : Nat} (h : (s.nd n).line.autobaud = .fixed)
    (hr : (s.set n).line.rate = .baud b) : s.bitPeriod n = some (divisor s.cfg.fref b) := by
  simp [State.bitPeriod, State.lineRate, h, hr]

/-! ### The character frame (R8) -/

/-- A parity bit stands in a frame exactly where parity is used. -/
theorem Parity.bit_length (p : Parity) (v : Byte) : (p.bit v).toList.length = if p = .none then 0 else 1 := by
  cases p <;> rfl

/-- A frame lasts as many half-bits as R8 counts. -/
theorem LineSettings.frameHalves_length (l : LineSettings) (b : Byte) : (l.frameHalves b).length = l.halfBits := by
  simp [LineSettings.frameHalves, LineSettings.frameBits, LineSettings.halfBits, Parity.bit_length,
    Function.comp_def]
  split <;> omega

/-- The frame of a byte taken now ends one character time from now. -/
theorem State.frameFor_ends {s : State} {n : NodeId} {d : Nat} (b : Byte) (hd : s.bitPeriod n = some d) :
    s.charCycles n 1 = some ((s.frameFor n d b).ends - s.clock.cycles) := by
  simp [State.charCycles, hd, TxFrame.ends, State.frameFor, LineSettings.frameHalves_length]

/-- A frame whose half-bits have all passed leaves the line high. -/
theorem TxFrame.level_after {f : TxFrame} {c : Nat} (h : f.halves.length ≤ 2 * (c - f.start) / f.period) :
    f.level c = true := by simp [TxFrame.level, List.getElem?_eq_none h]

/-! ### The receiver after a lock (R16) -/

/-- A fall during the wait leaves it without an end. -/
@[simp] theorem Receiver.waitEdge_fall (e f : Option Nat) : (Receiver.lockWait f).waitEdge true e = .lockWait none := by
  cases f <;> rfl

/-- A rise begins a wait that does not run. -/
@[simp] theorem Receiver.waitEdge_rise (e : Option Nat) : (Receiver.lockWait none).waitEdge false e = .lockWait e := rfl

/-- An edge reaches no receiver but one that waits. -/
theorem Receiver.waitEdge_other {r : Receiver} (h : ∀ e, r ≠ .lockWait e) (falling : Bool) (e : Option Nat) :
    r.waitEdge falling e = r := by
  cases r with
  | lockWait f => exact absurd rfl (h f)
  | _ => rfl

/-! ### The transmitter -/

/-- The judgement of R23 writes the two room flags alone. -/
theorem Line.roomCheck_eq (low : Nat) (l : Line) :
    l.roomCheck low = { l with
      roomWanted := l.roomWanted && !decide (l.queue.length ≤ low)
      roomPending := l.roomPending || (l.roomWanted && decide (l.queue.length ≤ low)) } := by
  obtain ⟨a, r, t, q, w, p, g⟩ := l
  unfold Line.roomCheck
  cases w <;> by_cases h : q.length ≤ low <;> simp [h]

/-- A transmitter that sends, that is floating, that has nothing to send or no bit period takes nothing (R21). -/
theorem State.takeItem_none {s : State} {n : NodeId} (h : (s.nd n).line.tx ≠ .idle ∨ s.condition n = .cut ∨
    s.bitPeriod n = none ∨ (s.nd n).line.queue = []) : s.takeItem n = s := by
  unfold State.takeItem
  split
  · next hc =>
    rcases h with h | h | h | h
    · exact absurd hc.1 h
    · exact absurd h hc.2
    · simp [h]
    · rw [h]; cases s.bitPeriod n <;> rfl
  · rfl

/-- A byte is taken from the head of the queue, as a frame of the settings in force (R8, R21, R23). -/
theorem State.takeItem_byte {s : State} {n : NodeId} {d : Nat} {b : Byte} {q : List TxItem}
    (ht : (s.nd n).line.tx = .idle) (hc : s.condition n ≠ .cut) (hd : s.bitPeriod n = some d)
    (hq : (s.nd n).line.queue = .byte b :: q) :
    s.takeItem n = (s.mapLine n (fun l => { l with tx := .byte (s.frameFor n d b), queue := q })).roomCheck n := by
  simp [State.takeItem, ht, hc, hd, hq]

/-- A break is taken from the head of the queue, and recorded (R20, R21, R23). -/
theorem State.takeItem_break {s : State} {n : NodeId} {d ms : Nat} {q : List TxItem}
    (ht : (s.nd n).line.tx = .idle) (hc : s.condition n ≠ .cut) (hd : s.bitPeriod n = some d)
    (hq : (s.nd n).line.queue = .brk ms :: q) :
    s.takeItem n = ((s.mapLine n (fun l => { l with tx := .brk (s.clock.ticks + ms), queue := q })).record n
      .breakTx).roomCheck n := by
  simp [State.takeItem, ht, hc, hd, hq]

/-- A line that waits for no gap is left alone. -/
theorem State.startWaitingGap_none {s : State} {n : NodeId} (h : (s.nd n).line.tx ≠ .gap none) :
    s.startWaitingGap n = s := by simp [State.startWaitingGap, h]

end Sys2Proof.Machine
end

