-- ==== Sys2Proof/Laws/Link.lean ====
section
/-! SUPPORT. Taking a request and replying to it: what the two wrappers of every request command do, said once. -/

namespace Sys2Proof.Machine

/-! ### Taking a frame and replying -/

/-- Taking a frame and making its reply changes the link alone (R173, R175). -/
theorem State.reply_takeFrame (s : State) (f : Frame) (a : Answer) :
    s.takeFrame.reply f a = { s with link := { s.link with
      complete := s.link.complete.tail
      replies := s.link.replies ++ [f.reply s.link.discarded a]
      discarded := false } } := rfl

/-- A reply changes the reply queue and the DISCARDED flag alone. -/
theorem State.reply_eq (s : State) (f : Frame) (a : Answer) :
    s.reply f a = { s with link := { s.link with
      replies := s.link.replies ++ [f.reply s.link.discarded a], discarded := false } } := rfl

@[simp] theorem State.takeFrame_nd (s : State) (n : NodeId) : s.takeFrame.nd n = s.nd n := rfl
@[simp] theorem State.takeFrame_set (s : State) (n : NodeId) : s.takeFrame.set n = s.set n := rfl
@[simp] theorem State.takeFrame_clock (s : State) : s.takeFrame.clock = s.clock := rfl
@[simp] theorem State.takeFrame_entries (s : State) : s.takeFrame.entries = s.entries := rfl
@[simp] theorem State.takeFrame_mem (s : State) : s.takeFrame.mem = s.mem := rfl
@[simp] theorem State.takeFrame_pending (s : State) : s.takeFrame.pending = s.pending := rfl
@[simp] theorem State.reply_nd (s : State) (f : Frame) (a : Answer) (n : NodeId) : (s.reply f a).nd n = s.nd n := rfl
@[simp] theorem State.reply_set (s : State) (f : Frame) (a : Answer) (n : NodeId) : (s.reply f a).set n = s.set n := rfl
@[simp] theorem State.reply_pending (s : State) (f : Frame) (a : Answer) : (s.reply f a).pending = s.pending := rfl

/-- An answer made at once replies; an answer to come leaves the state as the request left it. -/
theorem Carried.settle_answers (s : State) (r : Result) (fields : List Byte) (f : Frame) :
    (s.answers r fields).settle f = s.reply f { result := r, fields := fields } := rfl

/-- A part that takes frames is running and its link is open. -/
theorem State.takes_listening {s : State} {f : Frame} (h : s.takes f = true) : s.held = false ∧ s.link.up = true := by
  simp only [State.takes, State.dispatcherReady, State.listening, Bool.and_eq_true, Bool.not_eq_true'] at h
  exact h.1.1.1.1

/-- Where a frame may be taken, a place for its reply is free. -/
theorem State.takes_room {s : State} {f : Frame} (h : s.takes f = true) :
    s.link.replies.length < Config.replyPlaces ∧ s.link.saveReply = none ∧ s.link.restart = none := by
  simp only [State.takes, State.dispatcherReady, Bool.and_eq_true, decide_eq_true_eq, Option.isNone_iff_eq_none] at h
  exact ⟨h.1.1.1.2, h.1.1.2, h.1.2⟩

/-! ### The wrappers of the request commands (R173, R174) -/

/-- A request for a node that is taken and passes its checks is carried out on the node and answered. -/
theorem nodeRequest_ok {kind tag : Byte} {n : NodeId} {p : List Byte} {ok : Bool} {carry : NodeId → State → Carried}
    {s : State} (h : s.takes ⟨kind, tag, n.toByte, p⟩ = true) (hok : ok = true) :
    nodeRequest kind tag n.toByte p ok carry s = (carry n s.takeFrame).settle ⟨kind, tag, n.toByte, p⟩ := by
  simp [nodeRequest, h, hok]

/-- A request that the dispatcher may not take changes nothing. -/
theorem nodeRequest_not_taken {kind tag node : Byte} {p : List Byte} {ok : Bool} {carry : NodeId → State → Carried}
    {s : State} (h : s.takes ⟨kind, tag, node, p⟩ = false) : nodeRequest kind tag node p ok carry s = s := by
  simp [nodeRequest, h]

/-- A wrong NODE byte is BAD_NODE. -/
theorem nodeRequest_badNode {kind tag node : Byte} {p : List Byte} {ok : Bool} {carry : NodeId → State → Carried}
    {s : State} (h : s.takes ⟨kind, tag, node, p⟩ = true) (hn : NodeId.ofByte node = none) :
    nodeRequest kind tag node p ok carry s = s.takeFrame.reply ⟨kind, tag, node, p⟩ (.refused .badNode) := by
  simp [nodeRequest, h, hn]

/-- A wrong length is BAD_PARAM. -/
theorem nodeRequest_badLength {kind tag : Byte} {n : NodeId} {p : List Byte} {ok : Bool} {carry : NodeId → State → Carried}
    {s : State} (h : s.takes ⟨kind, tag, n.toByte, p⟩ = true) (hok : ok = false) :
    nodeRequest kind tag n.toByte p ok carry s = s.takeFrame.reply ⟨kind, tag, n.toByte, p⟩ (.refused .badParam) := by
  simp [nodeRequest, h, hok]

/-- A part-wide request that is taken and passes its checks is carried out and answered. -/
theorem partRequest_ok {kind tag : Byte} {p : List Byte} {ok : Bool} {carry : State → Carried} {s : State}
    (h : s.takes ⟨kind, tag, 0xFF, p⟩ = true) (hok : ok = true) :
    partRequest kind tag 0xFF p ok carry s = (carry s.takeFrame).settle ⟨kind, tag, 0xFF, p⟩ := by
  simp only [partRequest]
  rw [if_pos h, if_neg (by simp), if_pos hok]

/-- A part-wide request that the dispatcher may not take changes nothing. -/
theorem partRequest_not_taken {kind tag node : Byte} {p : List Byte} {ok : Bool} {carry : State → Carried} {s : State}
    (h : s.takes ⟨kind, tag, node, p⟩ = false) : partRequest kind tag node p ok carry s = s := by
  simp [partRequest, h]

/-- A NODE byte other than FFh is BAD_NODE. -/
theorem partRequest_badNode {kind tag node : Byte} {p : List Byte} {ok : Bool} {carry : State → Carried} {s : State}
    (h : s.takes ⟨kind, tag, node, p⟩ = true) (hn : node ≠ 0xFF) :
    partRequest kind tag node p ok carry s = s.takeFrame.reply ⟨kind, tag, node, p⟩ (.refused .badNode) := by
  simp only [partRequest]
  rw [if_pos h, if_pos hn]

/-- A wrong length is BAD_PARAM. -/
theorem partRequest_badLength {kind tag : Byte} {p : List Byte} {ok : Bool} {carry : State → Carried} {s : State}
    (h : s.takes ⟨kind, tag, 0xFF, p⟩ = true) (hok : ok = false) :
    partRequest kind tag 0xFF p ok carry s = s.takeFrame.reply ⟨kind, tag, 0xFF, p⟩ (.refused .badParam) := by
  simp only [partRequest]
  rw [if_pos h, if_neg (by simp), if_neg (by simp [hok])]

/-! ### Receiving and sending -/

/-- A frame whose gap limit has not passed stays (R170). -/
theorem Link.lapse_early {l : Link} {now : Nat} (h : ∀ a, l.assembling = some a → now < a.gapEnds) : l.lapse now = l := by
  unfold Link.lapse
  cases ha : l.assembling with
  | none => rfl
  | some a => simp [Nat.not_le.mpr (h a ha)]

/-- A frame whose gap limit has passed is discarded (R170). -/
theorem Link.lapse_late {l : Link} {now : Nat} {a : Assembly} (ha : l.assembling = some a) (h : a.gapEnds ≤ now) :
    l.lapse now = l.discard := by simp [Link.lapse, ha, h]

/-- While LRTS is asserted the frame on LTX can end (R172). -/
theorem Link.ending_asserted {l : Link} (h : l.lrts = true) : l.ending = l.sending := by
  cases hs : l.sending <;> simp [Link.ending, hs, h]

/-- A paused frame that has bytes to send cannot end (R172). -/
theorem Link.ending_paused {l : Link} (h : l.lrts = false) (hs : ∀ x, l.sending = some x → x.sent ≠ x.frame.wire.length) :
    l.ending = none := by
  cases hx : l.sending with
  | none => simp [Link.ending, hx]
  | some x => simp [Link.ending, hx, h, hs x hx]

/-- A frame has a byte. -/
theorem Frame.wire_pos (f : Frame) : 1 ≤ f.wire.length := by simp [Frame.wire]

/-- A pause keeps the frame, comes after its first byte, and never takes a byte back. -/
theorem Sending.pause_sent (k : Nat) (x : Sending) (h : x.sent ≤ x.frame.wire.length) :
    (x.pause k).frame = x.frame ∧ (x.pause k).isReply = x.isReply ∧ 1 ≤ (x.pause k).sent ∧ x.sent ≤ (x.pause k).sent ∧
      (x.pause k).sent ≤ x.frame.wire.length := by
  have := x.frame.wire_pos
  refine ⟨rfl, rfl, ?_, ?_, ?_⟩ <;> simp only [Sending.pause] <;> omega

/-- Every number of bytes within those bounds is one that a pause can take, that of the pause before among them. -/
theorem Sending.pause_within {k : Nat} {x : Sending} (h1 : 1 ≤ k) (hs : x.sent ≤ k) (hl : k ≤ x.frame.wire.length) :
    x.pause k = { x with sent := k } := by
  simp only [Sending.pause]; congr 1; omega

/-! ### Events -/

/-- An event in a part held in reset changes nothing. -/
@[simp] theorem State.given_held {α : Type} {s : State} (h : s.held = true) (o : Option α) (f : α → State) :
    s.given o f = s := by simp [State.given, h]

/-- An event that cannot occur changes nothing (notes/assumptions/3.md). -/
@[simp] theorem State.given_none {α : Type} (s : State) (f : α → State) : s.given none f = s := by
  unfold State.given; split <;> rfl

theorem State.given_some {α : Type} {s : State} (h : s.held = false) (a : α) (f : α → State) : s.given (some a) f = f a := by
  simp [State.given, h]

end Sys2Proof.Machine
end

