-- ==== Sys2Proof/Laws/Memory.lean ====
section
/-! SUPPORT. The buffer memory: a read after a write, and the canonical form that every write keeps. -/

namespace Sys2Proof.Machine

/-! ### Reading -/

@[simp] theorem Memory.read_nil (x : Nat) : Memory.read [] x = 0 := rfl

theorem Memory.read_cons (k : Nat) (b : Byte) (m : Memory) (x : Nat) :
    Memory.read ((k, b) :: m) x = if k = x then b else m.read x := rfl

/-- An address that no cell lists reads 0. -/
theorem Memory.read_of_unlisted {m : Memory} {x : Nat} (h : ∀ c ∈ m, c.1 ≠ x) : m.read x = 0 := by
  induction m with
  | nil => rfl
  | cons c m ih =>
    obtain ⟨k, b⟩ := c
    rw [Memory.read_cons, if_neg (h (k, b) (by simp)), ih fun d hd => h d (by simp [hd])]

/-- The first list decides where it lists the address, the second elsewhere. -/
theorem Memory.read_append (m m' : Memory) (x : Nat) :
    Memory.read (m ++ m') x = if ∃ c ∈ m, c.1 = x then m.read x else m'.read x := by
  induction m with
  | nil => simp
  | cons c m ih =>
    obtain ⟨k, b⟩ := c
    by_cases h : k = x
    · simp [Memory.read_cons, h]
    · simp [Memory.read_cons, h, ih]

/-- Leaving out addresses that do not pass a test leaves the others as they read. -/
theorem Memory.read_filter (m : Memory) (p : Nat → Bool) (x : Nat) :
    Memory.read (m.filter (fun c => p c.1)) x = if p x then m.read x else 0 := by
  induction m with
  | nil => simp
  | cons c m ih =>
    obtain ⟨k, b⟩ := c
    by_cases h : k = x
    · subst h
      cases hp : p k <;> simp [hp, Memory.read_cons, ih]
    · cases hp : p k <;> simp [hp, Memory.read_cons, h, ih]

theorem Memory.cells_cons (a : Nat) (b : Byte) (bs : List Byte) :
    Memory.cells a (b :: bs) = if b = 0 then Memory.cells (a + 1) bs else (a, b) :: Memory.cells (a + 1) bs := rfl

/-- The cells of a run lie in the run. -/
theorem Memory.mem_cells {a : Nat} {bs : List Byte} {c : Host.Cell} (h : c ∈ Memory.cells a bs) :
    a ≤ c.1 ∧ c.1 < a + bs.length ∧ c.2 ≠ 0 := by
  induction bs generalizing a with
  | nil => simp [Memory.cells] at h
  | cons b bs ih =>
    rw [Memory.cells_cons] at h
    rw [List.length_cons]
    split at h
    · exact ⟨by have := ih h; omega, by have := ih h; omega, (ih h).2.2⟩
    · next hb =>
      rcases List.mem_cons.1 h with rfl | h
      · exact ⟨by simp, by simp, hb⟩
      · exact ⟨by have := ih h; omega, by have := ih h; omega, (ih h).2.2⟩

/-- The cells of a run read as the run. -/
theorem Memory.read_cells (a : Nat) (bs : List Byte) (x : Nat) :
    Memory.read (Memory.cells a bs) x = if a ≤ x then (bs[x - a]?).getD 0 else 0 := by
  induction bs generalizing a with
  | nil => simp [Memory.cells]
  | cons b bs ih =>
    rcases Nat.lt_trichotomy x a with h | h | h
    · rw [Memory.read_of_unlisted, if_neg (by omega)]
      intro c hc
      have := Memory.mem_cells hc
      omega
    · subst h
      rw [Memory.cells_cons]
      split
      · next hb => rw [ih, if_neg (by omega)]; simp [hb]
      · simp [Memory.read_cons]
    · rw [Memory.cells_cons]
      obtain ⟨j, rfl⟩ : ∃ j, x = a + 1 + j := ⟨x - (a + 1), by omega⟩
      have e : a + 1 + j - a = j + 1 := by omega
      split
      · rw [ih, if_pos (by omega), if_pos (by omega), e]; simp
      · rw [Memory.read_cons, if_neg (by omega), ih, if_pos (by omega), if_pos (by omega), e]; simp

/-- A byte reads as written inside the run, and as before outside it. -/
theorem Memory.read_write (m : Memory) (a : Nat) (bs : List Byte) (x : Nat) :
    (m.write a bs).read x = if a ≤ x ∧ x < a + bs.length then (bs[x - a]?).getD 0 else m.read x := by
  rw [Memory.write, List.append_assoc, Memory.read_append, Memory.read_append, Memory.read_cells]
  rw [Memory.read_filter m (fun k => decide (k < a)), Memory.read_filter m (fun k => decide (a + bs.length ≤ k))]
  by_cases h1 : x < a
  · rw [if_neg (by omega : ¬(a ≤ x ∧ x < a + bs.length))]
    split
    · simp [h1]
    · next hn =>
      rw [if_neg fun ⟨c, hc, he⟩ => by have := Memory.mem_cells hc; omega]
      simp only [decide_eq_true_eq, if_neg (by omega : ¬a + bs.length ≤ x)]
      refine (Memory.read_of_unlisted fun c hc he => hn ⟨c, ?_, he⟩).symm
      simp [List.mem_filter, hc, he, h1]
  · rw [if_neg fun ⟨c, hc, he⟩ => by simp [List.mem_filter] at hc; omega]
    by_cases h2 : x < a + bs.length
    · rw [if_pos (by omega : a ≤ x ∧ x < a + bs.length), if_pos (by omega : a ≤ x)]
      split
      · rfl
      · next hn =>
        have hz := Memory.read_cells a bs x
        rw [Memory.read_of_unlisted fun c hc he => hn ⟨c, hc, he⟩, if_pos (by omega : a ≤ x)] at hz
        rw [if_neg (by simpa using h2)]; exact hz
    · rw [if_neg fun ⟨c, hc, he⟩ => by have := Memory.mem_cells hc; omega, if_neg (by omega : ¬(a ≤ x ∧ x < a + bs.length))]
      simp [if_pos (by omega : a + bs.length ≤ x)]

/-- A byte just written reads back. -/
theorem Memory.read_write_same (m : Memory) (a : Nat) (bs : List Byte) (i : Nat) (h : i < bs.length) :
    (m.write a bs).read (a + i) = bs[i] := by
  rw [Memory.read_write, if_pos (by omega)]
  simp [h]

/-- A write leaves every other address alone. -/
theorem Memory.read_write_other (m : Memory) (a : Nat) (bs : List Byte) (x : Nat) (h : x < a ∨ a + bs.length ≤ x) :
    (m.write a bs).read x = m.read x := by
  rw [Memory.read_write, if_neg (by omega)]

/-- A run of bytes reads back byte by byte. -/
theorem Memory.getElem?_readRun (m : Memory) (a k i : Nat) (h : i < k) : (m.readRun a k)[i]? = some (m.read (a + i)) := by
  induction k generalizing a i with
  | zero => omega
  | succ k ih =>
    cases i with
    | zero => simp [Memory.readRun]
    | succ i => simp only [Memory.readRun, List.getElem?_cons_succ]; rw [ih _ _ (by omega)]; congr 2; omega

@[simp] theorem Memory.length_readRun (m : Memory) (a k : Nat) : (m.readRun a k).length = k := by
  induction k generalizing a with
  | zero => rfl
  | succ k ih => simp [Memory.readRun, ih]

@[simp] theorem Memory.length_page (m : Memory) (p : Nat) : (m.page p).length = Config.pageBytes := by simp [Memory.page]

/-- A page reads back as the block written into it. -/
theorem Memory.page_writePage (m : Memory) (p : Nat) (bs : List Byte) (h : bs.length = Config.pageBytes) :
    (m.writePage p bs).page p = bs := by
  apply List.ext_getElem?
  intro i
  by_cases hi : i < Config.pageBytes
  · rw [Memory.page, Memory.getElem?_readRun _ _ _ _ hi, Memory.writePage, Memory.read_write_same _ _ _ _ (by omega)]
    simp [h, hi]
  · rw [List.getElem?_eq_none (by simpa using hi), List.getElem?_eq_none (by omega)]

/-! ### The canonical form -/

theorem Memory.wf_iff (m : Memory) : m.wf = true ↔ m.Pairwise (fun x y => x.1 < y.1) ∧ ∀ c ∈ m, c.2 ≠ 0 := by
  simp [Memory.wf]

theorem Memory.pairwise_cells (a : Nat) (bs : List Byte) : (Memory.cells a bs).Pairwise (fun x y => x.1 < y.1) := by
  induction bs generalizing a with
  | nil => simp [Memory.cells]
  | cons b bs ih =>
    rw [Memory.cells_cons]
    split
    · exact ih _
    · refine List.Pairwise.cons (fun c hc => ?_) (ih _)
      have := Memory.mem_cells hc
      simp only; omega

/-- A write keeps the canonical form. -/
theorem Memory.wf_write {m : Memory} (h : m.wf = true) (a : Nat) (bs : List Byte) : (m.write a bs).wf = true := by
  rw [Memory.wf_iff] at h ⊢
  constructor
  · rw [Memory.write, List.append_assoc, List.pairwise_append, List.pairwise_append]
    refine ⟨h.1.filter _, ⟨Memory.pairwise_cells _ _, h.1.filter _, fun x hx y hy => ?_⟩, fun x hx y hy => ?_⟩
    · have := Memory.mem_cells hx
      simp [List.mem_filter] at hy
      omega
    · simp [List.mem_filter] at hx
      rcases List.mem_append.1 hy with hy | hy
      · have := Memory.mem_cells hy; omega
      · simp [List.mem_filter] at hy; omega
  · intro c hc
    simp only [Memory.write, List.mem_append, List.mem_filter] at hc
    rcases hc with (hc | hc) | hc
    · exact h.2 c hc.1
    · exact (Memory.mem_cells hc).2.2
    · exact h.2 c hc.1

/-- A page write keeps the canonical form. -/
theorem Memory.wf_writePage {m : Memory} (h : m.wf = true) (p : Nat) (bs : List Byte) : (m.writePage p bs).wf = true :=
  Memory.wf_write h _ _

/-- The memory after reset has the canonical form. -/
theorem Memory.wf_reset : State.reset.mem.wf = true := rfl

end Sys2Proof.Machine
end

