-- ==== Sys2Proof/Laws/Pages.lean ====
section
/-! SUPPORT. The page pool and the entries: what taking, giving back and freeing do. -/

namespace Sys2Proof.Machine

/-! ### The free list -/

/-- A page given back joins the free list, and nothing leaves it. -/
theorem insertPage_perm (p : Nat) (l : List Nat) : (insertPage p l).Perm (p :: l) := by
  induction l with
  | nil => exact .refl _
  | cons q qs ih =>
    unfold insertPage
    split
    · exact .refl _
    · exact (List.Perm.cons q ih).trans (.swap _ _ _)

/-- The free list stays in rising order. -/
theorem insertPage_sorted {p : Nat} {l : List Nat} (h : l.Pairwise (· < ·)) (hp : p ∉ l) :
    (insertPage p l).Pairwise (· < ·) := by
  induction l with
  | nil => simp [insertPage]
  | cons q qs ih =>
    rw [List.pairwise_cons] at h
    simp only [List.mem_cons, not_or] at hp
    unfold insertPage
    split
    · next hle =>
      refine List.Pairwise.cons (fun x hx => ?_) (List.pairwise_cons.2 h)
      rcases List.mem_cons.1 hx with rfl | hx
      · omega
      · have := h.1 x hx; omega
    · next hle =>
      refine List.Pairwise.cons (fun x hx => ?_) (ih h.2 hp.2)
      rcases List.mem_cons.1 ((insertPage_perm p qs).mem_iff.1 hx) with rfl | hx
      · omega
      · exact h.1 x hx

/-- What a request for a page can answer: the lowest free page; the least recently used VALID entry's page, the entry
freed; or nothing, where there is neither (R60, R63, R65, R66). -/
theorem State.getPage_cases (s : State) :
    (∃ p ps, s.free = p :: ps ∧ s.getPage = some (p, { s with free := ps })) ∨
      (∃ p ps, s.free = [] ∧ s.lru = p :: ps ∧
        s.getPage = some (p, { s with lru := ps, entries := s.entries.filter (fun e => e.page != p) })) ∨
      (s.free = [] ∧ s.lru = [] ∧ s.getPage = none) := by
  unfold State.getPage State.takeFree State.evict
  cases hf : s.free with
  | cons p ps => exact .inl ⟨p, ps, rfl, by simp⟩
  | nil =>
    cases hl : s.lru with
    | cons p ps => exact .inr (.inl ⟨p, ps, rfl, rfl, by simp⟩)
    | nil => exact .inr (.inr ⟨rfl, rfl, by simp⟩)

/-- A request is refused exactly where no page is free and no entry is VALID. -/
theorem State.getPage_eq_none (s : State) : s.getPage = none ↔ s.free ++ s.lru = [] := by
  rcases s.getPage_cases with ⟨p, ps, h, e⟩ | ⟨p, ps, h, h', e⟩ | ⟨h, h', e⟩ <;> simp [*]

/-- The page a request is given. -/
theorem State.getPage_page {s t : State} {p : Nat} (h : s.getPage = some (p, t)) : (s.free ++ s.lru).head? = some p := by
  rcases s.getPage_cases with ⟨q, qs, hf, e⟩ | ⟨q, qs, hf, hl, e⟩ | ⟨hf, hl, e⟩ <;> simp_all

/-- A request for a page touches the free list, the LRU list and the entries alone. -/
theorem State.getPage_frame {s t : State} {p : Nat} (h : s.getPage = some (p, t)) :
    t = { s with free := t.free, lru := t.lru, entries := t.entries } := by
  rcases s.getPage_cases with ⟨q, qs, hf, e⟩ | ⟨q, qs, hf, hl, e⟩ | ⟨hf, hl, e⟩ <;> rw [e] at h <;> cases h <;> rfl

/-! ### Entries -/

/-- The table gains the entry, and nothing else. -/
theorem insertEntry_perm (e : Entry) (l : List Entry) : (insertEntry e l).Perm (e :: l) := by
  induction l with
  | nil => exact .refl _
  | cons f fs ih =>
    unfold insertEntry
    split
    · exact .refl _
    · exact (List.Perm.cons f ih).trans (.swap _ _ _)

theorem mem_without {p q : Nat} {l : List Nat} : q ∈ without p l ↔ q ∈ l ∧ q ≠ p := by simp [without]

/-- Taking out a page that is not there changes nothing. -/
theorem without_of_not_mem {p : Nat} {l : List Nat} (h : p ∉ l) : without p l = l := by
  rw [without, List.filter_eq_self]
  intro q hq
  simp only [bne_iff_ne, ne_eq]
  rintro rfl; exact h hq

/-- Changing an entry's state changes no page, node or LBA of the table. -/
theorem State.setEntry_keys (s : State) (p : Nat) (st : EntryState) :
    (s.setEntry p st).entries.map (fun e => (e.page, e.node, e.lba)) = s.entries.map (fun e => (e.page, e.node, e.lba)) := by
  simp only [State.setEntry, List.map_map]
  refine List.map_congr_left fun e _ => ?_
  simp only [Function.comp]; split <;> rfl

theorem State.setEntry_frame (s : State) (p : Nat) (st : EntryState) :
    s.setEntry p st = { s with entries := (s.setEntry p st).entries } := rfl

/-- What freeing an entry changes: the table, the LRU list, the free list, and its node's three lists (R101). -/
theorem State.freeEntry_eq (s : State) (e : Entry) :
    s.freeEntry e = { s.setNd e.node { s.nd e.node with cache := { (s.nd e.node).cache with
        fetches := without e.page (s.nd e.node).cache.fetches
        queue := without e.page (s.nd e.node).cache.queue
        outstanding := without e.page (s.nd e.node).cache.outstanding } } with
      entries := s.entries.filter (fun f => f.page != e.page)
      lru := without e.page s.lru
      free := insertPage e.page s.free } := rfl

/-- What creating a FILLING entry changes (R100, R103). -/
theorem State.newFilling_eq (s : State) (n : NodeId) (lba p : Nat) :
    s.newFilling n lba p = { s.setNd n { s.nd n with cache := { (s.nd n).cache with
        fetches := (s.nd n).cache.fetches ++ [p] } } with
      entries := insertEntry ⟨p, n, lba, .filling none⟩ s.entries } := rfl

/-- What creating a DIRTY entry changes (R100, R110). -/
theorem State.newDirty_eq (s : State) (n : NodeId) (lba p : Nat) :
    s.newDirty n lba p = { s.setNd n { s.nd n with cache := { (s.nd n).cache with
        queue := (s.nd n).cache.queue ++ [p] } } with
      entries := insertEntry ⟨p, n, lba, .dirty⟩ s.entries } := rfl

/-- What making an entry DIRTY changes (R96, R109, R110). -/
theorem State.makeDirty_eq (s : State) (n : NodeId) (p : Nat) :
    s.makeDirty n p = { s.setNd n { s.nd n with cache := { (s.nd n).cache with
        fetches := without p (s.nd n).cache.fetches
        outstanding := without p (s.nd n).cache.outstanding
        queue := (s.nd n).cache.queue ++ [p] } } with
      entries := (s.setEntry p .dirty).entries, lru := without p s.lru } := rfl

/-- What making an entry VALID changes (R102). -/
theorem State.makeValid_eq (s : State) (n : NodeId) (p : Nat) :
    s.makeValid n p = { s.setNd n { s.nd n with cache := { (s.nd n).cache with
        fetches := without p (s.nd n).cache.fetches
        queue := without p (s.nd n).cache.queue
        outstanding := without p (s.nd n).cache.outstanding } } with
      entries := (s.setEntry p .valid).entries, lru := without p s.lru ++ [p] } := rfl

end Sys2Proof.Machine
end

