-- ==== Sys2Proof/Laws/Media.lean ====
section
/-! SUPPORT. The Media Function's shared operations: what each writes, and when it changes nothing. -/

namespace Sys2Proof.Machine

/-! ### Ranges -/

@[simp] theorem inRanges_nil (lba : Nat) : inRanges [] lba = false := rfl

@[simp] theorem inRanges_cons (r : Range) (t : List Range) (lba : Nat) :
    inRanges (r :: t) lba = (r.covers lba || inRanges t lba) := rfl

theorem inRanges_append (t u : List Range) (lba : Nat) : inRanges (t ++ u) lba = (inRanges t lba || inRanges u lba) := by
  simp [inRanges]

/-- A table lists a block exactly when one of its ranges covers it. -/
theorem inRanges_iff (t : List Range) (lba : Nat) :
    inRanges t lba = true ↔ ∃ r ∈ t, r.first ≤ lba ∧ lba < r.first + r.count := by
  simp [inRanges, Range.covers]

/-! ### Answers and slots -/

/-- An answer given at once writes the last status and the port's latch (R73, R74). -/
theorem State.answer_eq (s : State) (n : NodeId) (st : NodeStatus) (d : PortData) :
    s.answer n st d = s.setNd n { s.nd n with media := { (s.nd n).media with
      last := st, out := { status := some st, data := d } } } := rfl

/-- The end of a command empties its list and the receive buffer, and gives its status (R74, R79, R95, R97). -/
theorem State.endCommand_eq (s : State) (n : NodeId) (st : NodeStatus) (d : PortData) :
    s.endCommand n st d = s.setNd n { s.nd n with media := { (s.nd n).media with
      current := none, received := none, last := st, out := { status := some st, data := d } } } := rfl

/-- With no command current, leaving READY ends nothing (R79). -/
theorem State.leaveReady_idle {s : State} {n : NodeId} (h : (s.nd n).media.current = none) : s.leaveReady n = s := by
  simp [State.leaveReady, h]

/-- With a command current, leaving READY ends it NOT_READY (R79). -/
theorem State.leaveReady_current {s : State} {n : NodeId} {c : Command} (h : (s.nd n).media.current = some c) :
    s.leaveReady n = s.endCommand n .notReady := by simp [State.leaveReady, h]

/-- A bus reset without a command tears nothing down (R75). -/
theorem State.tearDown_idle {s : State} {n : NodeId} (h : (s.nd n).media.current = none) : s.tearDown n = s := by
  simp [State.tearDown, h]

/-- The slot becomes ABSENT, its continuation point with it (R86). -/
theorem State.slotAbsent_eq (s : State) (n : NodeId) :
    s.slotAbsent n = s.setNd n { s.nd n with media := { (s.nd n).media with
      slot := none, continuation := none, statePending := true } } := rfl

/-- The end test of R82 where it fails. -/
theorem State.drainEnd_stays {s : State} {n : NodeId} {m : Medium} (h : s.slot n = some m)
    (hm : ¬(m.state = .withdrawing ∧ s.unstoredCount n = 0)) : s.drainEnd n = s := by simp [State.drainEnd, h, hm]

/-- A drain of an ABSENT or WITHDRAWING slot changes nothing (R81). -/
theorem State.drain_noop {s : State} {n : NodeId} (h : ∀ m, s.slot n = some m → m.state = .withdrawing) : s.drain n = s := by
  unfold State.drain
  cases hs : s.slot n with
  | none => rfl
  | some m => simp [h m hs]

/-- A PERSIST medium stays at a boot event (R85). -/
theorem State.onceRule_persist {s : State} {n : NodeId} {m : Medium} (h : s.slot n = some m) (hp : m.present = .persist) :
    s.onceRule n = s := by simp [State.onceRule, h, hp]

/-! ### Requests for pages -/

/-- What the request of one READ block does (R92, R93, R100): it changes nothing and there is none, or it takes a page, makes
the entry and marks the block. -/
theorem State.serveRequest_cases (s : State) (n : NodeId) :
    s.serveRequest n = none ∨ ∃ c lba p t, (s.nd n).media.current = some c ∧ c.wanting = some lba ∧
      s.fillingCount n < Config.fillingCap ∧ s.getPage = some (p, t) ∧
      s.serveRequest n = some ((t.newFilling n lba p).mapCommand n (fun c => c.mark lba .waiting)) := by
  unfold State.serveRequest
  cases hc : (s.nd n).media.current with
  | none => exact .inl rfl
  | some c =>
    cases hw : c.wanting with
    | none => simp [hw]
    | some lba =>
      by_cases hf : Config.fillingCap ≤ s.fillingCount n
      · simp [hw, hf]
      · cases hp : s.getPage with
        | none => simp [hw]
        | some r => exact .inr ⟨c, lba, r.1, r.2, rfl, hw, by omega, rfl, by simp [hw, hf]⟩

end Sys2Proof.Machine
end

