-- ==== Sys2Proof/Laws/Step.lean ====
section
/-! SUPPORT. The step: from a queue with a command, and from an empty one. -/

namespace Sys2Proof.Machine

theorem step_cons {s : State} {c : Instr} {cs : List Instr} (h : s.pending = c :: cs) :
    step s = exec c { s with pending := cs } := by simp [step, h]

theorem step_nil {s : State} (h : s.pending = []) : step s = .next s.cycle := by simp [step, h]

/-- A law that exec keeps, and that neither the queue nor one cycle of REFCLK can break, is a law that steps keep. -/
theorem step_keeps {P : State → Prop} (hq : ∀ s cs, P s → P { s with pending := cs })
    (hc : ∀ s, P s → P s.cycle) (he : ∀ c s t, P s → exec c s = .next t → P t) {s t : State} (h : P s)
    (hst : step s = .next t) : P t := by
  cases hp : s.pending with
  | nil => rw [step_nil hp] at hst; cases hst; exact hc s h
  | cons c cs => rw [step_cons hp] at hst; exact he c _ t (hq s cs h) hst

/-- A cycle changes the clock alone. -/
theorem State.cycle_frame (s : State) : s.cycle = { s with clock := s.cycle.clock } := by
  unfold State.cycle; split <;> rfl

end Sys2Proof.Machine
end

