-- ==== Sys2Proof/Tests/Slice0.lean ====
section
/-! SUPPORT. The model's own tests: ill-formed commands refused, the manual's worked figures and examples, one step of each
command on a small state, and for every statement with hypotheses a state that meets them. -/

namespace Sys2Proof.Machine

set_option Elab.async false

/-! ### Ill-formed commands -/

theorem test_wf_payload : (Instr.conWrite 0 0 (List.replicate 542 0)).wf = false ∧ (Instr.conWrite 0 0 (List.replicate 541 0)).wf = true := by
  decide +kernel
theorem test_wf_known_kind : (Instr.unknownKindFrame 0x30 0 0 []).wf = false ∧ (Instr.unknownKindFrame 0x3B 0 0 []).wf = true := by
  decide
theorem test_wf_run : (Instr.autobaudAcceptedEdge .n0 true 15).wf = false ∧ (Instr.autobaudWindowComplete .n0 16).wf = true := by
  decide
theorem test_wf_window_run : (Instr.autobaudWindowComplete .n0 15).wf = false := by decide
theorem test_wf_block : (Instr.writeBlockReceived .n0 (List.replicate 511 0)).wf = false := by decide +kernel
theorem test_wf_page : (Instr.fetchTimeout 1024).wf = false ∧ (Instr.fetchTimeout 1023).wf = true := by decide

/-- No row of the opcode table has bits, so no word spells a command. -/
theorem test_no_word_spells_a_command : decodeTableWord 8 0xA5 = none ∧ State.reset.withFetchWord 16 7 = State.reset :=
  ⟨rfl, rfl⟩

/-! ### Worked figures of the manual -/

/-- The check strings of R168 and R186: "123456789". -/
theorem test_crc16 : crc16 [0x31, 0x32, 0x33, 0x34, 0x35, 0x36, 0x37, 0x38, 0x39] = 0x29B1 := by decide +kernel
theorem test_crc32 : crc32 [0x31, 0x32, 0x33, 0x34, 0x35, 0x36, 0x37, 0x38, 0x39] = 0xCBF43926 := by decide +kernel

/-- Spec 01, worked figures: divisor. -/
theorem test_divisor_common : divisor 25000 115200 = 217 ∧ nearestQuotient 25000 217 = 115207 ∧ ratePpm 25000 115200 217 = 64 := by
  decide +kernel
theorem test_divisor_unreachable : divisor 25000 3000000 = 16 ∧ nearestQuotient 25000 16 = 1562500 ∧
    ratePpm 25000 3000000 16 = -479166 := by decide +kernel
theorem test_divisor_new_fref : divisor 24000 115200 = 208 ∧ nearestQuotient 24000 208 = 115385 ∧
    ratePpm 24000 115200 208 = 1602 := by decide +kernel

/-- Spec 01, characters: 8N1 at d = 217, and five bits with stop LONG. -/
theorem test_character_time : characterCycles 1 20 217 = 2170 ∧ characterCycles 1 15 217 = 1628 ∧
    characterCycles 4 20 217 = 8680 := by decide

/-- Spec 01, worked figures: autobaud. -/
theorem test_autobaud_windows : judgeWindow 25000 216 = some 115200 ∧ judgeWindow 25000 190 = none ∧
    judgeWindow 25000 434 = some 57600 := by decide +kernel

/-- Spec 05, R88's example: the list in normal form against a capacity of 9,020. -/
theorem test_normal_form : normalRanges 9020 [⟨500, 10⟩, ⟨0, 64⟩, ⟨505, 20⟩, ⟨525, 5⟩, ⟨9000, 50⟩] =
    [⟨0, 64⟩, ⟨500, 30⟩, ⟨9000, 20⟩] := by decide +kernel

/-- Fourteen ranges that the example of a full zero table does not name. -/
def fourteen : List Range := (List.range 14).map (fun i => ⟨10 * i, 5⟩)

/-- Spec 05, example: writes into a full zero table. -/
theorem test_full_zero_table :
    removeBlock (fourteen ++ [⟨1000, 100⟩, ⟨2000, 5⟩]) 1030 = fourteen ++ [⟨1031, 69⟩, ⟨2000, 5⟩] ∧
    removeBlock (fourteen ++ [⟨1031, 69⟩, ⟨2000, 5⟩]) 1031 = fourteen ++ [⟨1032, 68⟩, ⟨2000, 5⟩] ∧
    removeBlock (fourteen ++ [⟨1032, 68⟩, ⟨2000, 5⟩]) 2002 = fourteen ++ [⟨1032, 68⟩, ⟨2000, 2⟩] := by decide +kernel

def abab : Pattern := { bytes := [0x41, 0x42, 0x41, 0x42], fold := false, once := false, action := .notice }
def okGt : Pattern := { bytes := [0x6F, 0x6B, 0x3E], fold := true, once := false, action := .notice }

/-- Spec 03, example: overlapping and folded hits on "ABABABOK>". -/
theorem test_overlapping_hits : abab.after [0x41, 0x42, 0x41] = 3 ∧ abab.examine 0x42 3 = (2, true) ∧
    abab.examine 0x41 2 = (3, false) ∧ abab.examine 0x4F 2 = (0, false) ∧ okGt.examine 0x3E 2 = (0, true) ∧
    okGt.after [0x4F, 0x4B] = 2 := by decide +kernel

/-- Spec 11, example: the frame of PWR_ACTION RESET for N1 with tag 17h has 9 bytes. -/
theorem test_frame_bytes : (nodeFrame 0x30 0x17 .n1 [6]).wire.take 7 = [0xA5, 4, 0, 0x30, 0x17, 1, 6] ∧
    (nodeFrame 0x30 0x17 .n1 [6]).wire.length = 9 := by decide +kernel

/-! ### Small states -/

/-- The state after reset with the link open. -/
def openLink : State := { State.reset with link := { State.reset.link with up := true, readyPending := false } }

/-- The state after a command. -/
def after (c : Instr) (s : State) : State :=
  match exec c s with
  | .next t => t
  | _ => s

/-- The payload of the newest reply. -/
def lastReply (s : State) : List Byte :=
  match s.link.replies.getLast? with
  | some f => f.payload
  | none => []

/-- N0 ON, with its controller in state `c`. -/
def onN0 (c : Controller) : State :=
  openLink.mapPower .n0 (fun p => { p with sense := true, pg := .high, debounce := none, ctrl := c })

/-- N0 OFF, with its controller in state `c`. -/
def offN0 (c : Controller) : State :=
  openLink.mapPower .n0 (fun p => { p with pg := .low, debounce := none, ctrl := c })

/-- An action of N0 in a phase. -/
def act (k : ActionKind) (ph : Phase) (onPart : Bool) : Action :=
  { kind := k, source := .watch, phase := ph, ends := 50, escalated := false, method := .hard, onPart := onPart }

/-- N0's monitor in state `m`, enabled with every kick source. -/
def monN0 (m : Monitor) (s : State) : State :=
  (s.mapLive .n0 (fun l => { l with monitor := m })).mapSet .n0 (fun x => { x with
    live := { x.live with enable := true, kicks := 0x0F } })

/-- N0's Line Unit changed. -/
def lineN0 (f : Line → Line) : State := openLink.mapLine .n0 f

/-- N0's Line Unit changed, on a line with rate AUTO. -/
def autoN0 (f : Line → Line) : State :=
  (openLink.mapLine .n0 f).mapSet .n0 (fun x => { x with line := { x.line with rate := .auto } })

/-- A READY medium of 300 blocks. -/
def disk : Medium :=
  { state := .ready, imageId := 5, capacity := 300, policy := .cached, present := .persist, removable := true,
    changed := false, protect := [], zero := [] }

/-- The rings hold pages 0 to 7, the entries the next, and the free list the others; N0 is connected, with the medium and the
lists given. -/
def lab (es : List Entry) (lru : List Nat) (m : Media → Media) (c : NodeCache → NodeCache) : State :=
  let nd := fun (p : Nat) => ({ Node.initial 0 with hist := .fresh [p, p + 1] } : Node)
  { openLink with
    nodes := ⟨{ nd 0 with media := m { Media.fresh true with slot := some disk }, cache := c .fresh }, nd 2, nd 4, nd 6⟩
    entries := es, lru := lru, free := List.range' (8 + es.length) (1016 - es.length) }

theorem lab_pages (es : List Entry) (lru : List Nat) (m : Media → Media) (c : NodeCache → NodeCache)
    (hp : es.map Entry.page = List.range' 8 es.length) (he : es.length ≤ 1016) (hn : lru.Nodup)
    (hl : ∀ p ∈ lru, p ∈ es.map Entry.page) : (lab es lru m c).PageLaw := by
  refine State.pageLaw_of_runs (k := 8 + es.length) ?_ ?_ ?_ hn hl
  · have h8 : (lab es lru m c).ringPages = List.range' 0 8 := rfl
    have := List.range'_append (s := 0) (m := 8) (n := es.length) (step := 1)
    simp only [Nat.one_mul, Nat.zero_add] at this
    rw [h8, show (lab es lru m c).entryPages = List.range' 8 es.length from hp, this]
  · show List.range' (8 + es.length) (1016 - es.length) = List.range' (8 + es.length) (1024 - (8 + es.length))
    congr 1; omega
  · show 8 + es.length ≤ 1024; omega

/-- A current READ of three blocks at LBA 5, its list as given. -/
def reading (l : List BlockPlace) (m : Media) : Media :=
  { m with current := some { write := false, lba := 5, count := 3, finished := 0, list := l, unstored := 0 } }

/-- A current WRITE of two blocks at LBA 5, with a block in the receive buffer. -/
def writing (m : Media) : Media :=
  { m with
    current := some { write := true, lba := 5, count := 2, finished := 0, list := [⟨5, .ready⟩, ⟨6, .ready⟩], unstored := 0 }
    received := some (List.replicate 512 7) }

/-- N0's slot in another state. -/
def slotIs (st : SlotState) (m : Media) : Media := { m with slot := some { disk with state := st } }

/-- Two half-bits for each bit, written as digits: a level for each half-bit of a frame. -/
def halves (bits : List Nat) : List Bool := bits.flatMap (fun b => [b == 1, b == 1])

/-- A frame of a byte on a line 8N1 with d = 217 that began at `start`. -/
def frame (b : Byte) (start : Nat) : TxFrame := { openLink.frameFor .n0 217 b with start := start }

/-! ### One step of each command -/

/-- R8, 8N1: start bit 0, the bits of 41h from the least significant on, and a stop bit 1. -/
theorem test_frame_8n1 : (frame 0x41 0).halves = halves [0, 1, 0, 0, 0, 0, 0, 1, 0, 1] ∧ (frame 0x41 5).ends = 2175 := by decide +kernel
/-- R8, 7E2 and 5O with stop LONG: only the low bits are sent, the parity bit is theirs, and the stop bits last two bits and
one and a half. -/
theorem test_frame_parity :
    LineSettings.frameHalves { openLink.cfg.nodes.get .n0 |>.line with wordLen := 7, parity := .even, stop := .long } 0xC3 =
      halves [0, 1, 1, 0, 0, 0, 0, 1, 1, 1, 1] ∧
    LineSettings.frameHalves { openLink.cfg.nodes.get .n0 |>.line with wordLen := 5, parity := .odd, stop := .long } 0xE3 =
      halves [0, 1, 1, 0, 0, 0, 1, 1] ++ [true] := by decide +kernel
/-- CTXn through the frame, and outside it. -/
theorem test_pin : [0, 216, 217, 433, 434, 2169, 2170].map (fun c => (Transmitter.byte (frame 0x41 0)).pin c) =
      [.low, .low, .high, .high, .low, .high, .high] ∧
    (Transmitter.brk 9).pin 0 = .low ∧ Transmitter.idle.pin 0 = .high ∧ (Transmitter.floating none).pin 0 = .floating := by decide +kernel

/-- PART_STATUS answers 41 bytes of fields: part id 0418h, family bytes and the rest. -/
theorem test_partStatus : (lastReply (after (.partStatus 9 0xFF []) openLink)).length = 43 := by decide +kernel
theorem test_partSave : (after (.partSave 9 0xFF []) openLink).store.save = some { snapshot := .default, tag := 9, node := 0xFF } ∧
    (after (.partSave 9 0xFF []) openLink).store.image = .bad := by decide +kernel
theorem test_saveWriteEnd_idle : after .saveWriteEnd openLink = openLink := by rfl
theorem test_partRestart : (after (.partRestart 9 0xFF [1]) openLink).link.restart = some true ∧
    lastReply (after (.partRestart 9 0xFF [2]) openLink) = [4, 0] := by decide +kernel
theorem test_poolSet : ((after (.poolSet 9 0xFF [2, 2, 8, 64, 8, 64, 8, 64]) openLink).nd .n0).hist.ring.length = 2 ∧
    (lastReply (after (.poolSet 9 0xFF [2, 161, 8, 64, 8, 64, 8, 64]) openLink)).head? = some 4 := by decide +kernel
theorem test_clockSet : (after (.clockSet 9 0xFF (leBytes 4 24000)) openLink).cfg.fref = 24000 ∧
    (lastReply (after (.clockSet 9 0xFF (leBytes 4 60000)) openLink)).take 6 = 9 :: 0 :: leBytes 4 50000 := by decide +kernel
theorem test_conLineSet : (lastReply (after (.conLineSet 9 0 (leBytes 4 3000000 ++ [8, 0, 0, 0, 32, 4])) openLink)).take 8 =
    9 :: 0 :: 3 :: 0 :: leBytes 4 16 := by decide +kernel
theorem test_conLineSet_refused : (lastReply (after (.conLineSet 9 0 (leBytes 4 115200 ++ [8, 5, 0, 0, 32, 4])) openLink)).head? =
    some 4 := by decide +kernel
theorem test_conWrite : ((after (.conWrite 9 0 [0x41, 0x42]) openLink).nd .n0).line.tx = .byte (frame 0x41 0) ∧
    ((after (.conWrite 9 0 [0x41, 0x42]) openLink).nd .n0).line.queue = [.byte 0x42] := by decide +kernel
/-- R23: a flag that an earlier append set is not judged by an append that sets none, although n has since risen. -/
theorem test_conWrite_older_flag : let s := (lineN0 (fun l => { l with tx := .brk 9, roomWanted := true })).mapSet .n0 (fun x => { x with
      line := { x.line with roomLow := 255 } })
    ((after (.conWrite 9 0 [0x41]) s).nd .n0).line.roomWanted = true ∧ ((after (.conWrite 9 0 [0x41]) s).nd .n0).line.roomPending = false := by
  decide +kernel
theorem test_conBreak : ((after (.conBreak 9 0 [0, 0]) openLink).nd .n0).line.tx = .brk 1 ∧
    lastReply (after (.conBreak 9 0 [0, 0]) openLink) = [9, 0, 1, 0] := by decide +kernel
theorem test_conRead_empty : lastReply (after (.conRead 9 0 (leBytes 6 0 ++ leBytes 2 512)) openLink) =
    [0, 0, 0] ++ leBytes 6 0 ++ leBytes 2 0 ++ leBytes 6 0 ++ leBytes 6 0 ++ leBytes 6 0xFFFFFFFFFFFF := by decide +kernel
theorem test_conMark : ((after (.conMark 9 0 (leBytes 6 5)) openLink).nd .n0).hist.mark = some 0 ∧
    (lastReply (after (.conMark 9 0 (leBytes 6 5)) openLink)).head? = some 9 := by decide +kernel
theorem test_conEvents : lastReply (after (.conEvents 9 0 (leBytes 6 0 ++ [0])) (after (.conMark 9 0 (leBytes 6 0)) openLink)) =
    [0, 0, 0, 1, 1] ++ Event.layout ⟨0, .markSet, 0, 0, true⟩ := by decide +kernel
theorem test_conDeliverySet : ((after (.conDeliverySet 9 0 ([1] ++ leBytes 2 0 ++ leBytes 2 1001 ++ [4] ++ leBytes 2 0xFFFF ++
    [0] ++ leBytes 6 0)) openLink).set .n0).delivery = { follow := true, count := 1, delay := 1000, gap := 4, mask := 0x7FFF } := by
  decide +kernel
theorem test_conWatchSet : ((after (.conWatchSet 9 0 [7, 1, 1, 3, 6, 2, 0x6F, 0x6B]) openLink).set .n0).watch[7]? =
    some (some { bytes := [0x6F, 0x6B], fold := true, once := false, action := .power .reset }) := by decide +kernel
theorem test_conTxFlush : ((after (.conTxFlush 9 0 []) (lineN0 (fun l => { l with tx := .brk 9, queue := [.byte 1] }))).nd .n0).line.tx =
    .gap (some 2170) := by decide +kernel
theorem test_medAttach : ((after (.medAttach 9 0 (leBytes 4 5 ++ leBytes 4 300 ++ [2, 1, 1])) openLink).slot .n0).map Medium.present =
    some (.once 0) := by decide +kernel
theorem test_medDetach : (after (.medDetach 9 0 [0]) (lab [] [] id id)).slot .n0 = none := by decide +kernel
theorem test_medFill : (after (.medFill 9 0 (leBytes 2 8 ++ leBytes 4 5 ++ List.replicate 512 7)) (lab [⟨8, .n0, 5, .filling none⟩] [] id
    (fun c => { c with fetches := [8] }))).entries = [⟨8, .n0, 5, .valid⟩] := by decide +kernel
theorem test_medFillFail : (after (.medFillFail 9 0 (leBytes 2 8 ++ leBytes 4 5)) (lab [⟨8, .n0, 5, .filling none⟩] [] (reading
    [⟨5, .waiting⟩]) (fun c => { c with fetches := [8] })) |>.nd .n0).media.last = .mediumError := by decide +kernel

/-- Spec 06, example: an acknowledgement across the wrap. -/
def wrapped : State :=
  lab [⟨8, .n0, 10, .flushing 65534 false 9⟩, ⟨9, .n0, 11, .flushing 65535 false 9⟩, ⟨10, .n0, 12, .flushing 0 false 9⟩] [] id
    (fun c => { c with outstanding := [8, 9, 10], seq := 1 })

theorem test_medStored : ((after (.medStored 9 0 (leBytes 2 65535)) wrapped).nd .n0).cache.outstanding = [10] ∧
    (after (.medStored 9 0 (leBytes 2 65535)) wrapped).lru = [8, 9] := by decide +kernel
theorem test_medStored_beyond : lastReply (after (.medStored 9 0 (leBytes 2 5)) (after (.medStored 9 0 (leBytes 2 65535)) wrapped)) =
    [4, 0, 1, 0, 0, 0, 0, 0] := by decide +kernel
theorem test_medExtentsSet : ((after (.medExtentsSet 9 0 ([1, 1] ++ leBytes 4 290 ++ leBytes 4 20)) (lab [] [] id id)).slot .n0).map
    Medium.protect = some [⟨290, 10⟩] := by decide +kernel

/-- Spec 06, R119's example: the entries of LBA 70 and 71 go back ahead of 90 and 91. -/
theorem test_medRecover : ((after (.medRecover 9 0 []) (lab [⟨8, .n0, 70, .flushing 7 false 9⟩, ⟨9, .n0, 71, .flushing 8 true 9⟩,
    ⟨10, .n0, 90, .dirty⟩, ⟨11, .n0, 91, .dirty⟩] [] (slotIs .faulted) (fun c => { c with
      outstanding := [8, 9], queue := [10, 11], seq := 9 }))).nd .n0).cache =
    { fetches := [], queue := [8, 9, 10, 11], outstanding := [], seq := 9 } := by decide +kernel
theorem test_medStatus : (after (.medStatus 9 3 []) openLink).nodes = openLink.nodes := by rfl
theorem test_medTuningSet : ((after (.medTuningSet 9 0 ([33] ++ leBytes 2 99 ++ leBytes 4 120001)) openLink).set .n0).tuning =
    { readAhead := 32, fetchTimeout := 100, storeTimeout := 120000 } := by decide +kernel
theorem test_pwrAction : ((after (.pwrAction 9 0 [6]) (onN0 .idle)).nd .n0).power.btnRst = true ∧
    (lastReply (after (.pwrAction 9 0 [6]) (onN0 .idle))).take 3 = [0, 0, 1] := by decide +kernel
theorem test_pwrAction_off : (lastReply (after (.pwrAction 9 0 [6]) (offN0 .idle))).take 3 = [5, 0, 0] ∧
    (lastReply (after (.pwrAction 9 7 [6]) (offN0 .idle))) = [3, 0] := by decide +kernel
theorem test_pwrAbort : ((after (.pwrAbort 9 0 []) (onN0 (.acting (act .reset .pulse false) none false))).nd .n0).power.ctrl = .idle := by
  decide +kernel
theorem test_pwrClear : ((after (.pwrClear 9 0 []) (onN0 (.locked .cutIneffective))).nd .n0).power.ctrl = .idle := by decide +kernel
theorem test_pwrTimingSet : ((after (.pwrTimingSet 9 0 (List.replicate 47 0)) openLink).set .n0).timings.hold = 4000 := by
  decide +kernel
theorem test_pwrStatus : (after (.pwrStatus 9 3 []) openLink).nodes = openLink.nodes := by rfl
theorem test_livSet : ((after (.livSet 9 0 ([1] ++ List.replicate 11 0 ++ [1, 2, 0xFF])) (onN0 .idle)).nd .n0).live.monitor = .grace 10000 ∧
    ((after (.livSet 9 0 ([1] ++ List.replicate 11 0 ++ [0, 3, 0])) (onN0 .idle)).nd .n0).live.monitor = .disabled := by
  decide +kernel
theorem test_livKick : ((after (.livKick 9 0 []) (monN0 (.warned 7) (onN0 .idle))).nd .n0).live.monitor =
    .watching 120000 (some 3600000) := by decide +kernel
theorem test_livClear : ((after (.livClear 9 0 []) (monN0 (.exhausted .maxReached) (onN0 .idle))).nd .n0).live.monitor = .grace 600000 := by
  decide +kernel
theorem test_unknownKindFrame : lastReply (after (.unknownKindFrame 0x3B 9 0 []) openLink) = [8, 0] := by decide +kernel

theorem test_linkByteReceived : (after (.linkByteReceived 0xA5 true) openLink).link.assembling = some { bytes := [], gapEnds := 2 } := by
  decide +kernel
theorem test_linkFrameReceived_bad : (after (.linkFrameReceived 0) { openLink with link := { openLink.link with
    assembling := some { bytes := [3, 0, 1, 2, 3, 0], gapEnds := 5 } } }).link.discarded = true := by decide +kernel
theorem test_linkGapTimeout : (after .linkGapTimeout { openLink with link := { openLink.link with
    assembling := some { bytes := [3], gapEnds := 5 } } }).clock.ticks = 5 := by decide +kernel
theorem test_linkByteReceived_late : (after (.linkByteReceived 0xA5 true) { openLink with clock := ⟨99, 5, 0⟩, link := { openLink.link with
    assembling := some { bytes := [3], gapEnds := 5 } } }).link =
      { openLink.link with assembling := some { bytes := [], gapEnds := 7 }, discarded := true } := by decide +kernel
theorem test_lrts : (after .lrtsDeasserted openLink).link.lrts = false ∧ (after .lrtsAsserted (after .lrtsDeasserted openLink)).link.lrts =
    true := by decide +kernel
theorem test_arbiterGrant_ready : (after .arbiterGrant State.reset).link.sending = some { frame := ⟨0x40, 0, 0xFF, [1, 1, 0]⟩
                                                                                          isReply := false, sent := 0 } := by
  decide +kernel
/-- PART_READY pauses when LRTS is deasserted: whatever the number of bytes sent, LTX is high. -/
theorem test_pause : let s := after .lrtsDeasserted (after .arbiterGrant State.reset)
    s.link.ltx = .high ∧ s.link.sending.map Sending.frame = some ⟨0x40, 0, 0xFF, [1, 1, 0]⟩ ∧ s.pauses = 1 := ⟨rfl, rfl, rfl⟩

/-- A PART_READY that has paused after three bytes. -/
def paused (sent : Nat) : State :=
  { State.reset with link := { State.reset.link with lrts := false, sending := some ⟨⟨0x40, 0, 0xFF, [1, 1, 0]⟩, false, sent⟩ } }

/-- A paused frame with bytes left is not sent, and goes on with its next byte; one with every byte sent can end. -/
theorem test_resume : after .frameSent (paused 3) = paused 3 ∧
    (after .lrtsAsserted (paused 3)).link.ltx = .bytes ((⟨0x40, 0, 0xFF, [1, 1, 0]⟩ : Frame).wire.drop 3) ∧
    (after .frameSent (paused 11)).link.up = true := by decide +kernel
/-- LRTS falls again after three bytes: within the same byte as before three are sent still, and later on more; never fewer,
nor none (R172). -/
theorem test_pause_again : let x : Sending := ⟨⟨0x40, 0, 0xFF, [1, 1, 0]⟩, false, 3⟩
    ([0, 3, 4, 11, 12].map (fun k => (x.pause k).sent)) = [3, 3, 4, 11, 11] ∧ (({ x with sent := 0 } : Sending).pause 0).sent = 1 := by
  decide +kernel
theorem test_frameSent_opens : (after .frameSent (after .arbiterGrant State.reset)).link.up = true := by decide +kernel
theorem test_resetNAsserted : (after .resetNAsserted openLink).held = true ∧ (after .resetNAsserted openLink).resetCause = .pin := by
  decide +kernel
theorem test_powerOn : (after .powerOn openLink).link.up = false ∧ (after .powerOn openLink).free = List.range' 0 1024 := ⟨rfl, rfl⟩
theorem test_startUp : ((after (.startUp 1) (after .powerOn openLink)).nd .n3).hist.ring = List.range' 24 8 ∧
    (after (.startUp 1) (after .powerOn openLink)).linkRate = .baud3000000 := by decide +kernel

theorem test_characterReceived : ((after (.characterReceived .n0 0x41 false true) openLink).nd .n0).hist.next = 1 ∧
    (after (.characterReceived .n0 0x41 false true) openLink).mem = [(0, 0x41)] := by decide +kernel
theorem test_characterReceived_framing : ((after (.characterReceived .n0 0x41 false false) openLink).nd .n0).line.rx = .awaitHigh ∧
    ((after (.characterReceived .n0 0x41 false false) openLink).nd .n0).hist.index.map Event.kind = [.framing] := by decide +kernel
theorem test_breakRx : ((after (.breakRx .n0) openLink).nd .n0).hist.index.map Event.kind = [.breakRx] := by decide +kernel
theorem test_rxBreakEnd : ((after (.rxBreakEnd .n0) (lineN0 (fun l => { l with rx := .inBreak }))).nd .n0).line.rx = .idle := by
  decide +kernel
theorem test_idleGapSignal : ((after (.idleGapSignal .n0) ((lineN0 (fun l => { l with idleGap := some 8680 })).mapHist .n0 (fun h =>
    { h with pacer := .collecting none }))).nd .n0).hist.pacer = .due := by decide +kernel
theorem test_pacerDelayExpiry : (after (.pacerDelayExpiry .n0) (openLink.mapHist .n0 (fun h => { h with
    pacer := .collecting (some 20) }))).clock.ticks = 20 := by decide +kernel
theorem test_autobaudWindowComplete : ((after (.autobaudWindowComplete .n0 216) (autoN0 (fun l => { l with
    autobaud := .hunting (some ⟨31, 217⟩) }))).nd .n0).line.autobaud = .locked 115200 (some ⟨0, 0⟩) := by decide +kernel
theorem test_autobaudAcceptedEdge : ((after (.autobaudAcceptedEdge .n0 false 217) (autoN0 (fun l => { l with
    autobaud := .hunting (some ⟨3, 300⟩) }))).nd .n0).line.autobaud = .hunting (some ⟨4, 217⟩) := by decide +kernel
theorem test_lockIdleWaitEnd : let s := after (.lockIdleWaitEnd .n0) (lineN0 (fun l => { l with rx := .lockWait (some 99) }))
    (s.nd .n0).line.rx = .idle ∧ s.clock.cycles = 99 := by decide +kernel
theorem test_lockWait_edges : [true, false].map (fun f => ((after (.autobaudAcceptedEdge .n0 f 99) (lineN0 (fun l => { l with
    rx := .lockWait none }))).nd .n0).line.rx) = [.lockWait none, .lockWait (some 2170)] := by decide +kernel
theorem test_txCharacterSent : ((after (.txCharacterSent .n0) (lineN0 (fun l => { l with
    tx := .byte (frame 1 0), queue := [.byte 2] }))).nd .n0).line.tx = .byte (frame 2 2170) := by decide +kernel
theorem test_txBreakEnd : ((after (.txBreakEnd .n0) (lineN0 (fun l => { l with tx := .brk 1 }))).nd .n0).line.tx = .gap (some 27170) := by
  decide +kernel
theorem test_txIdleTimeEnd : ((after (.txIdleTimeEnd .n0) (lineN0 (fun l => { l with tx := .gap (some 5) }))).nd .n0).line.tx = .idle := by
  decide +kernel

theorem test_vbus : ((after (.vbusPresent .n0) openLink).nd .n0).media.vbus = true ∧
    ((after (.vbusAbsent .n0) (lab [] [] writing id)).nd .n0).media.current = none := by decide +kernel
theorem test_usbBusReset : ((after (.usbBusReset .n0) (lab [] [] writing id)).nd .n0).media.current = none := by decide +kernel
theorem test_invalidCommand : ((after (.invalidCommand .n0) (lab [] [] id id)).nd .n0).media.last = .invalidRequest := by decide +kernel
theorem test_ready : ((after (.ready .n0) (lab [] [] (fun m => { m with slot := some { disk with changed := true } }) id)).nd
    .n0).media.last = .mediumChanged := by decide +kernel
theorem test_capacity : ((after (.capacity .n0) (lab [] [] id id)).nd .n0).media.out.data = .capacity 300 512 := by decide +kernel
theorem test_eject : (after (.eject .n0) (lab [] [] id id)).slot .n0 = none := by decide +kernel
theorem test_sense : ((after (.sense .n0) (lab [] [] (fun m => { m with last := .lbaRange }) id)).nd .n0).media.out.data = .sense 3 := by
  decide +kernel
theorem test_read : (after (.read .n0 298 2) (lab [] [] id id)).entries = [⟨8, .n0, 298, .filling none⟩, ⟨9, .n0, 299, .filling none⟩] ∧
    ((after (.read .n0 298 3) (lab [] [] id id)).nd .n0).media.last = .lbaRange := by decide +kernel
theorem test_write_protected : ((after (.write .n0 9 2) (lab [] [] (fun m => { m with slot := some { disk with
    protect := [⟨10, 1⟩] } }) id)).nd .n0).media.last = .writeProtected := by decide +kernel
theorem test_newEntryRequest : ((after (.newEntryRequest .n0) (lab [] [] (reading [⟨5, .wanting⟩]) id)).nd .n0).cache.fetches = [8] := by
  decide +kernel
theorem test_blockDelivery : ((after (.blockDelivery .n0) (lab [⟨8, .n0, 5, .filling none⟩] [] (reading [⟨5, .ready⟩]) (fun c => { c with
    fetches := [8] }))).nd .n0).media.current.map Command.list = some [⟨5, .waiting⟩] := by decide +kernel
theorem test_writeBlockReceived : ((after (.writeBlockReceived .n0 (List.replicate 512 3)) (lab [] [] (fun m => { writing m with
    received := none }) id)).nd .n0).media.received = some (List.replicate 512 3) := by decide +kernel
theorem test_blockAccept : (after (.blockAccept .n0) (lab [] [] writing id)).entries = [⟨8, .n0, 5, .dirty⟩] ∧
    ((after (.blockAccept .n0) (lab [] [] writing id)).nd .n0).media.received = none := by decide +kernel
theorem test_fetchTimeout : (after (.fetchTimeout 8) (lab [⟨8, .n0, 5, .filling (some 30)⟩] [] id id)).entries = [] := by decide +kernel
theorem test_storeTimeout : ((after (.storeTimeout .n0) wrapped).slot .n0).map Medium.state = some .faulted := by decide +kernel

theorem test_pgSenseChange : ((after (.pgSenseChange .n0 true) (offN0 .idle)).nd .n0).power.debounce = some 20 := by decide +kernel
theorem test_pgAccepted : ((after (.pgAccepted .n0) ((offN0 .idle).mapPower .n0 (fun p => { p with
    sense := true, debounce := some 20 }))).nd .n0).power.boot = 1 := by decide +kernel
theorem test_settleExpiry : ((after (.settleExpiry .n0) (offN0 (.acting (act .on .settle true) none false))).nd .n0).power.btnPwr = true := by
  decide +kernel
theorem test_pressEnd : ((after (.pressEnd .n0) (offN0 (.acting (act .on .press true) none false))).nd .n0).power.ctrl =
    .acting { act .on .awaitUp true with ends := 15050 } none false := by decide +kernel
theorem test_awaitUpExpiry : ((after (.awaitUpExpiry .n0) (offN0 (.acting (act .on .awaitUp true) none false))).nd .n0).power.ctrl =
    .locked .startTimeout := by decide +kernel
theorem test_awaitDownExpiry : ((after (.awaitDownExpiry .n0) (onN0 (.acting (act .offSoft .awaitDown false) none false))).nd
    .n0).power.ctrl = .idle := by decide +kernel
theorem test_holdEnd : ((after (.holdEnd .n0) (onN0 (.acting (act .offHard .hold false) none false))).nd .n0).power.ctrl =
    .acting { act .offHard .awaitDown false with ends := 3050 } none false := by decide +kernel
theorem test_cutCheckExpiry : ((after (.cutCheckExpiry .n0) (onN0 (.acting (act .cut .cutCheck false) none false))).nd .n0).power.ctrl =
    .locked .cutIneffective := by decide +kernel
theorem test_dwellExpiry : ((after (.dwellExpiry .n0) (offN0 (.acting (act .cycle .dwell false) none false))).nd .n0).power.ctrl =
    .acting { act .cycle .press true with ends := 300 } none false := by decide +kernel
theorem test_pulseEnd : ((after (.pulseEnd .n0) (onN0 (.acting (act .reset .pulse false) none false))).nd .n0).power.boot = 1 ∧
    ((after (.pulseEnd .n0) (onN0 (.acting (act .reset .pulse false) none false))).nd .n0).hist.index.map Event.kind =
      [.boot, .actionEnd 2] := by decide +kernel
/-- The entry of an ended action names its source, and its layout carries kind and result alone (R58, R165). -/
theorem test_actionEnd : [Source.link 9, .liveness, .watch].map (fun x =>
      ((after (.pulseEnd .n0) (onN0 (.acting { act .diag .pulse false with source := x } none false))).nd .n0).hist.index.map
        (fun e => (e.kind, (e.layout.drop 6).take 3))) =
    [[(.actionEnd 0, [8, 7, 1])], [(.actionEnd 1, [8, 7, 1])], [(.actionEnd 2, [8, 7, 1])]] := by decide +kernel

theorem test_hbInputChange : ((after (.hbInputChange .n0 true) openLink).nd .n0).live.hbFilter = some 1 := by decide +kernel
theorem test_hbLevelAccepted : ((after (.hbLevelAccepted .n0) openLink).nd .n0).live.hb = .low := by decide +kernel
theorem test_graceExpiry : ((after (.graceExpiry .n0) (monN0 (.grace 9) (onN0 .idle))).nd .n0).live.monitor =
    .watching 120009 (some 3600009) := by decide +kernel
theorem test_timeoutExpiry : ((after (.timeoutExpiry .n0) (monN0 (.watching 9 none) (onN0 .idle))).nd .n0).live.monitor = .warned 30009 := by
  decide +kernel
theorem test_warnExpiry : ((after (.warnExpiry .n0) (monN0 (.warned 9) (onN0 .idle))).nd .n0).live.monitor = .recovering ∧
    ((after (.warnExpiry .n0) (monN0 (.warned 9) (onN0 .idle))).nd .n0).power.btnRst = true := by decide +kernel
theorem test_stableDeadlineExpiry : ((after (.stableDeadlineExpiry .n0) (monN0 (.watching 90 (some 30)) (onN0 .idle))).nd .n0).live.monitor =
    .watching 90 none := by decide +kernel

/-! ### Witnesses: states that meet the hypotheses of the statements -/

/-- A request is taken, at the greatest tag and with another link state. -/
def full : State := { openLink with link := { openLink.link with replies := [⟨0, 0, 0, []⟩, ⟨0, 0, 0, []⟩] } }

/-- The front of the link's buffers holds `f`. -/
def waiting (f : Frame) (s : State) : State := { s with link := { s.link with complete := [f], up := true } }

theorem witness_stepRuns : openLink.pending = [] ∧ openLink.held = false ∧ openLink.clock.tickCycles < openLink.cfg.fref ∧
    (after .powerOn openLink).held = true ∧ (after .powerOn openLink).pending = [] ∧
    { openLink.clock with tickCycles := 24999 }.tickCycles < openLink.cfg.fref := by decide +kernel

theorem witness_checks : isRequestKind 0x3B = false ∧ openLink.takes ⟨0x3B, 9, 0, []⟩ = true ∧
    requestOf (.medStatus 9 4 []) = some ⟨0x27, 9, 4, []⟩ ∧ openLink.takes ⟨0x27, 9, 4, []⟩ = true ∧
    Frame.nodeOk ⟨0x27, 9, 4, []⟩ = false ∧
    requestOf (.medStatus 9 3 [1]) = some ⟨0x27, 9, 3, [1]⟩ ∧ openLink.takes ⟨0x27, 9, 3, [1]⟩ = true ∧
    Frame.nodeOk ⟨0x27, 9, 3, [1]⟩ = true ∧ Frame.lengthOk ⟨0x27, 9, 3, [1]⟩ = false := by decide +kernel

theorem witness_requests : requestOf (.partStatus 9 0xFF []) = some (partFrame 0x01 9 []) ∧
    openLink.takes (partFrame 0x01 9 []) = true ∧ (partFrame 0x01 9 []).kind ≠ 0x02 ∧
    full.takes (partFrame 0x01 9 []) = false ∧
    (waiting (partFrame 0x02 9 []) { openLink with store := { openLink.store with save := some ⟨.default, 1, 0xFF⟩ } }).takes
      (partFrame 0x02 9 []) = true := by decide +kernel

/-! #### The laws -/

theorem openLink_history : openLink.HistoryLaw := by
  refine ⟨fun n => ?_, ?_⟩
  · cases n <;> (unfold History.Lawful; decide +kernel)
  · intro h; cases h

theorem openLink_cache : openLink.CacheLaw := State.cacheLaw_of_check (by decide +kernel)

theorem openLink_pacer : openLink.PacerLaw := fun n => by cases n <;> (intro _; rfl)

/-- N0's history replaced. -/
def histN0 (h : History) : State := openLink.mapHist .n0 (fun _ => h)

theorem histN0_law {h : History} (hl : h.Lawful) (hr : 2 ≤ h.ring.length) : (histN0 h).HistoryLaw := by
  refine ⟨fun n => ?_, fun h => by cases h⟩
  cases n
  · exact ⟨hl, fun _ => ⟨hr, (openLink_history.1 .n0).2 rfl |>.2⟩⟩
  · exact openLink_history.1 .n1
  · exact openLink_history.1 .n2
  · exact openLink_history.1 .n3

/-- The state with a command at the front of its queue. -/
def front (c : Instr) (s : State) : State := { s with pending := [c] }

theorem front_steps (c : Instr) (s : State) (h : ∃ t, exec c { s with pending := [] } = .next t) :
    ∃ t, step (front c s) = .next t := h

theorem witness_memoryLaw : State.MemoryLaw (front (.characterReceived .n0 0x41 false true) openLink) ∧
    ∃ t, step (front (.characterReceived .n0 0x41 false true) openLink) = .next t := ⟨by rfl, _, rfl⟩
theorem witness_pageLaw : State.PageLaw (front (.read .n0 5 2) (lab [] [] id id)) ∧
    ∃ t, step (front (.read .n0 5 2) (lab [] [] id id)) = .next t :=
  ⟨lab_pages [] [] id id rfl (by decide) (by decide) (by simp), _, rfl⟩
theorem witness_historyLaw : State.HistoryLaw (front (.conMark 9 0 (leBytes 6 0)) openLink) ∧
    ∃ t, step (front (.conMark 9 0 (leBytes 6 0)) openLink) = .next t := ⟨openLink_history, _, rfl⟩
theorem openLink_quota : openLink.QuotaLaw := fun n => by cases n <;> decide +kernel
theorem openLink_pages : openLink.PageLaw :=
  State.pageLaw_of_runs (k := 32) (by decide +kernel) rfl (by decide) List.nodup_nil (by intro p h; cases h)
theorem witness_quotaLaw : let s := front (.poolSet 9 0xFF [2, 2, 8, 64, 8, 64, 8, 64]) openLink
    s.PageLaw ∧ s.CacheLaw ∧ s.HistoryLaw ∧ s.QuotaLaw ∧ ∃ t, step s = .next t :=
  ⟨openLink_pages, openLink_cache, openLink_history, openLink_quota, _, rfl⟩
theorem witness_linesLaw : State.LinesLaw (front (.pwrAction 9 0 [6]) (onN0 .idle)) ∧
    ∃ t, step (front (.pwrAction 9 0 [6]) (onN0 .idle)) = .next t := ⟨fun n => by cases n <;> rfl, _, rfl⟩
theorem witness_recoveryLaw : State.RecoveryLaw (front (.warnExpiry .n0) (monN0 (.warned 9) (onN0 .idle))) ∧
    ∃ t, step (front (.warnExpiry .n0) (monN0 (.warned 9) (onN0 .idle))) = .next t :=
  ⟨fun n => by cases n <;> decide +kernel, _, rfl⟩
theorem witness_linkLaw : Link.Lawful (front (.linkByteReceived 0xA5 true) full).link ∧
    ∃ t, step (front (.linkByteReceived 0xA5 true) full) = .next t := ⟨by unfold Link.Lawful; decide +kernel, _, rfl⟩
theorem witness_cacheLaw : State.PageLaw (front (.read .n0 5 2) (lab [] [] id id)) ∧
    State.CacheLaw (front (.read .n0 5 2) (lab [] [] id id)) :=
  ⟨witness_pageLaw.1, State.cacheLaw_of_check (by decide +kernel)⟩
theorem witness_pacerLaw : State.HistoryLaw (front (.conMark 9 0 (leBytes 6 0)) openLink) ∧
    State.PacerLaw (front (.conMark 9 0 (leBytes 6 0)) openLink) := ⟨openLink_history, openLink_pacer⟩

/-! #### Resets and part-wide requests -/

theorem witness_partReset : openLink.store.image = .bad ∧ openLink.link.lrts = true ∧
    ∀ n : NodeId, (openLink.nd n).media.vbus = false ∧ (openLink.nd n).power.sense = false ∧
      (openLink.nd n).live.hbPin = false := ⟨rfl, rfl, fun n => by cases n <;> exact ⟨rfl, rfl, rfl⟩⟩

theorem powerOn_inReset (s : State) : State.InReset (after .powerOn s) :=
  ⟨rfl, rfl, rfl, rfl, fun n => by cases n <;> rfl⟩

/-- A power-on that finds the defaults stored. -/
def stored : State :=
  after .powerOn { openLink with store := { openLink.store with image := .written .default (imageCrc .default) } }

theorem witness_startUp : State.InReset (after .powerOn openLink) ∧ (after .powerOn openLink).restartDefaults = false ∧
    (after .powerOn openLink).store.image.good = none ∧ State.InReset stored ∧ stored.restartDefaults = false ∧
    stored.store.image.good = some .default ∧ State.InReset { stored with restartDefaults := true } :=
  ⟨powerOn_inReset _, rfl, rfl, powerOn_inReset _, rfl,
    if_pos ⟨rfl, by decide +kernel⟩, rfl, rfl, rfl, rfl, fun n => by cases n <;> rfl⟩

/-- A save whose write ends, with the reply queue as given. -/
def saving (replies : List Frame) : State :=
  { openLink with
    store := { openLink.store with save := some ⟨.default, 1, 0xFF⟩ }
    link := { openLink.link with replies := replies } }

theorem witness_saveEnds : (saving []).held = false ∧ (saving []).store.save = some ⟨.default, 1, 0xFF⟩ ∧
    (saving []).link.replies.length < 2 ∧ ¬(saving [⟨0, 0, 0, []⟩, ⟨0, 0, 0, []⟩]).link.replies.length < 2 ∧
    openLink.store.save = none := by decide +kernel

theorem witness_save : openLink.takes (partFrame 0x02 9 []) = true ∧ openLink.store.save = none ∧
    openLink.cfg.inRange = true ∧
    (let s : State := { openLink with store := { openLink.store with save := some ⟨.default, 1, 0xFF⟩ } }
     s.takes (partFrame 0x02 9 []) = true ∧ s.store.save ≠ none) := by decide +kernel

/-- The link sending a frame, with restart taken or not. -/
def sends (f : Frame) (isReply : Bool) (restart : Option Bool) : State :=
  { openLink with link := { openLink.link with
    sending := some ⟨f, isReply, 0⟩, restart := restart, replies := if isReply then [f] else [] } }

theorem witness_restart : openLink.takes (partFrame 0x03 9 [1]) = true ∧ openLink.takes (partFrame 0x03 9 [2]) = true ∧
    ((sends ⟨0x83, 9, 0xFF, [0, 0]⟩ true (some true)).held = false ∧
      Frame.restartReply ⟨0x83, 9, 0xFF, [0, 0]⟩ = true) ∧
    ((sends ⟨0x81, 9, 0xFF, [0, 0]⟩ true (some false)).held = false ∧
      Frame.restartReply ⟨0x81, 9, 0xFF, [0, 0]⟩ = false) ∧
    ((sends ⟨0x81, 9, 0xFF, [0, 0]⟩ true none).held = false ∧ (sends ⟨0x81, 9, 0xFF, [0, 0]⟩ true none).link.restart = none) ∧
    (sends ⟨0x40, 0, 0xFF, [1, 1, 0]⟩ false none).held = false := by decide +kernel

/-- LRTS is asserted; it is deasserted with bytes left, and with every byte sent; and LTX is idle. -/
theorem witness_frameSent : (sends ⟨0x81, 9, 0xFF, [0, 0]⟩ true none).link.lrts = true ∧
    ((paused 3).link.lrts = false ∧ (⟨0x40, 0, 0xFF, [1, 1, 0]⟩ : Frame).wire.length ≠ 3) ∧
    ((paused 11).link.lrts = false ∧ (⟨0x40, 0, 0xFF, [1, 1, 0]⟩ : Frame).wire.length = 11) ∧
    (paused 3).held = false ∧ openLink.link.sending = none := by decide +kernel

/-- N3's ring is two pages above its max, one of them spare; N0's holds two pages; no page is free; and the other pages hold
VALID entries. -/
def crowded : State :=
  let nd := fun (p k used : Nat) =>
    ({ Node.initial 0 with hist := { History.fresh (List.range' p k) with next := 512 * used } } : Node)
  { openLink with
    nodes := ⟨{ nd 0 2 1 with media := { Media.fresh true with slot := some { disk with capacity := 1000 } } }, nd 2 160 0,
      nd 162 160 7, nd 322 162 161⟩
    entries := (List.range 540).map (fun i => ⟨484 + i, .n0, i, .valid⟩), lru := List.range' 484 540, free := [] }

theorem crowded_entry {e : Entry} : e ∈ crowded.entries ↔ ∃ i, i < 540 ∧ e = ⟨484 + i, .n0, i, .valid⟩ := by
  simp [crowded, eq_comm]

theorem crowded_lists (n : NodeId) {f : EntryState → Bool} (h : f .valid = false) : crowded.Lists n f [] := by
  refine ⟨List.nodup_nil, fun p => ⟨fun h => absurd h List.not_mem_nil, ?_⟩⟩
  rintro ⟨e, he, -, -, hf⟩
  obtain ⟨i, -, rfl⟩ := crowded_entry.1 he
  simp [h] at hf

theorem crowded_count (n : NodeId) {f : EntryState → Bool} (h : f .valid = false) : crowded.countEntries n f = 0 := by
  rw [State.countEntries, List.countP_eq_zero]
  intro e he
  obtain ⟨i, -, rfl⟩ := crowded_entry.1 he
  simp [h]

theorem crowded_cache : crowded.CacheLaw := by
  refine ⟨?_, ?_, List.nodup_range', fun p => ?_, fun n => ⟨?_, ?_, ?_, ?_, ?_, ?_, ?_, ?_⟩⟩
  · rw [State.entryPages, crowded, List.map_map]
    exact List.Nodup.map (fun a b h => by simpa using h) List.nodup_range
  · rw [crowded, List.map_map]
    exact List.Nodup.map (fun a b h => by simpa using h) List.nodup_range
  · show p ∈ List.range' 484 540 ↔ _
    rw [List.mem_range'_1]
    constructor
    · exact fun h => ⟨_, crowded_entry.2 ⟨p - 484, by omega, rfl⟩, by show 484 + (p - 484) = p; omega, rfl⟩
    · rintro ⟨e, he, rfl, -⟩
      obtain ⟨i, hi, rfl⟩ := crowded_entry.1 he
      exact ⟨by show 484 ≤ 484 + i; omega, by show 484 + i < 484 + 540; omega⟩
  · cases n <;> exact crowded_lists _ rfl
  · cases n <;> exact crowded_lists _ rfl
  · cases n <;> exact crowded_lists _ rfl
  · intro i p h; cases n <;> simp [crowded, State.nd, PerNode.get, Node.initial, NodeCache.fresh] at h
  · rw [State.fillingCount, crowded_count _ rfl]; exact Nat.zero_le _
  · rw [State.unstoredCount, crowded_count _ rfl]; exact Nat.zero_le _
  · intro e he hn
    obtain ⟨i, hi, rfl⟩ := crowded_entry.1 he
    cases hn
    exact ⟨_, rfl, by show i < 1000; omega, rfl⟩
  · intro c h; cases n <;> cases h

theorem crowded_pages : crowded.PageLaw :=
  State.pageLaw_of_runs (k := 1024) (by decide +kernel) rfl (by decide) List.nodup_range' (fun p h => by
    obtain ⟨e, he, rfl, -⟩ := (crowded_cache.2.2.2.1 p).1 h
    exact List.mem_map_of_mem he)

theorem crowded_history : crowded.HistoryLaw := by
  refine ⟨fun n => ?_, fun h => by cases h⟩
  cases n <;> exact ⟨by unfold History.Lawful; decide +kernel, fun _ => by decide +kernel⟩

/-- N3 gives up its spare page and its oldest, and N0 takes both and the pages of the six least recently used entries. -/
theorem test_poolSet_evicts : let t := after (.poolSet 9 0xFF [10, 160, 2, 160, 2, 160, 2, 160]) crowded
    (t.nd .n0).hist.ring = [0, 1, 322, 483, 484, 485, 486, 487, 488, 489] ∧ t.free = [] ∧ t.lru.head? = some 490 ∧
      (t.nd .n3).hist.oldest = 512 := by decide +kernel

theorem witness_poolSet_evicts : crowded.PageLaw ∧ crowded.CacheLaw ∧ crowded.HistoryLaw ∧
    crowded.takes (partFrame 0x04 9 [10, 160, 2, 160, 2, 160, 2, 160]) = true ∧ (∀ n : NodeId,
      let q := (quotasOf [10, 160, 2, 160, 2, 160, 2, 160]).get n
      2 ≤ q.min ∧ q.min ≤ q.max ∧ q.max ≤ 160) ∧
    ((quotasOf [10, 160, 2, 160, 2, 160, 2, 160]).get .n3).max < (crowded.nd .n3).hist.ring.length ∧
    (crowded.nd .n0).hist.ring.length < ((quotasOf [10, 160, 2, 160, 2, 160, 2, 160]).get .n0).min :=
  ⟨crowded_pages, crowded_cache, crowded_history, by decide +kernel, fun n => by cases n <;> decide +kernel,
    by decide +kernel, by decide +kernel⟩

/-- A node with nine pages in its ring, and one with a single page below its min. -/
theorem witness_poolSet :
    (let p : List Byte := [1, 8, 8, 8, 8, 8, 8, 8]
     openLink.takes (partFrame 0x04 9 p) = true ∧ p.length = 8 ∧ ((quotasOf p).get .n0).min < 2) ∧
    (let p : List Byte := [2, 161, 8, 8, 8, 8, 8, 8]
     openLink.takes (partFrame 0x04 9 p) = true ∧ 160 < ((quotasOf p).get .n0).max) ∧
    (let p : List Byte := [8, 7, 8, 8, 8, 8, 8, 8]
     ((quotasOf p).get .n0).max < ((quotasOf p).get .n0).min) ∧
    (let p : List Byte := [2, 7, 8, 8, 9, 160, 160, 160]
     openLink.takes (partFrame 0x04 9 p) = true ∧
     (∀ n : NodeId, 2 ≤ ((quotasOf p).get n).min ∧ ((quotasOf p).get n).min ≤ ((quotasOf p).get n).max ∧
       ((quotasOf p).get n).max ≤ 160) ∧
     ((quotasOf p).get .n0).max < (openLink.nd .n0).hist.ring.length ∧
     ((quotasOf p).get .n1).min ≤ (openLink.nd .n1).hist.ring.length ∧
     (openLink.nd .n1).hist.ring.length ≤ ((quotasOf p).get .n1).max ∧
     (openLink.nd .n2).hist.ring.length < ((quotasOf p).get .n2).min ∧ 640 ≤ openLink.free.length) := by
  refine ⟨by decide +kernel, by decide +kernel, by decide +kernel, by decide +kernel, fun n => ?_, by decide +kernel⟩
  cases n <;> decide +kernel

theorem witness_clockSet : openLink.takes (partFrame 0x05 9 (leBytes 4 11999)) = true ∧ (leBytes 4 11999).length = 4 ∧
    12000 ≤ { openLink.clock with tickCycles := 12000 }.tickCycles ∧ openLink.clock.tickCycles < 12000 ∧
    ((autoN0 (fun l => { l with autobaud := .hunting none })).nd .n0).line.autobaud = .hunting none ∧
    (openLink.nd .n0).line.autobaud = .fixed ∧ (openLink.set .n0).line.rate = .baud 115200 ∧
    ((autoN0 (fun l => { l with autobaud := .locked 9600 none })).nd .n0).line.autobaud = .locked 9600 none ∧
    0 < 1 ∧ 50000 ≤ 50000 ∧ 300 ≤ 300 := by decide +kernel

/-! #### The link -/

theorem witness_frameOnTheWire : openLink.listening = true ∧ openLink.link.assembling = none ∧
    openLink.link.complete.length < 2 ∧ (nodeFrame 0x11 9 .n0 (List.replicate 541 0)).payload.length ≤ 541 := by decide +kernel

/-- A frame being assembled. -/
def assembles (bytes : List Byte) : State :=
  { openLink with link := { openLink.link with assembling := some { bytes := bytes, gapEnds := 2 } } }

theorem witness_linkReceiver : State.reset.listening = false ∧ openLink.listening = true ∧ openLink.link.assembling = none ∧
    (0xA4 : Byte) ≠ 0xA5 ∧ (assembles []).listening = true ∧ (assembles []).link.assembling = some ⟨[], 2⟩ ∧
    (assembles [2]).link.assembling = some ⟨[2], 2⟩ ∧ (2 : Byte).toNat + 256 * (0 : Byte).toNat < 3 ∧
    544 < (0x21 : Byte).toNat + 256 * (2 : Byte).toNat ∧
    (3 ≤ (0x20 : Byte).toNat + 256 * (2 : Byte).toNat ∧ (0x20 : Byte).toNat + 256 * (2 : Byte).toNat ≤ 544) ∧
    ([0x27, 9, 0] : List Byte).length < (3 : Byte).toNat + 256 * (0 : Byte).toNat + 1 ∧
    (let f := nodeFrame 0x27 9 .n0 []
     (assembles (f.body ++ [1])).link.assembling = some ⟨f.body ++ [1], 2⟩ ∧ f.payload.length ≤ 541) ∧
    (assembles [3]).held = false := by decide +kernel

/-- The limit of two ticks has not passed at tick 1, and has at tick 2, whichever byte of the frame is next. -/
theorem witness_linkReceiver_limit (bytes : List Byte) : (assembles bytes).clock.ticks < 2 ∧ (assembles bytes).listening = true ∧
    (let s := { assembles bytes with clock := ⟨0, 2, 0⟩ }
     s.listening = true ∧ s.link.assembling = some ⟨bytes, 2⟩ ∧ 2 ≤ s.clock.ticks) ∧
    (let f := nodeFrame 0x27 9 .n0 []
     f.body ++ [1] = f.body ++ [1] ∧ f.payload.length ≤ 541) := ⟨by show 0 < 2; decide, rfl, ⟨rfl, rfl, Nat.le_refl _⟩, rfl, by decide⟩

theorem witness_lrts : 0 ≤ (⟨0x81, 9, 0xFF, [0, 0]⟩ : Frame).wire.length ∧ (after .lrtsDeasserted openLink).link.lrts = false ∧ openLink.link.lrts = true ∧
    openLink.link.sending = none ∧ (sends ⟨0x81, 9, 0xFF, [0, 0]⟩ true none).link.lrts = true ∧
    (sends ⟨0x81, 9, 0xFF, [0, 0]⟩ true none).link.sending = some ⟨⟨0x81, 9, 0xFF, [0, 0]⟩, true, 0⟩ ∧
    (∀ k ∈ [3, 11], (after .lrtsAsserted (paused k)).link.lrts = true ∧
      (after .lrtsAsserted (paused k)).link.sending = some ⟨⟨0x40, 0, 0xFF, [1, 1, 0]⟩, false, k⟩ ∧
      k ≤ (⟨0x40, 0, 0xFF, [1, 1, 0]⟩ : Frame).wire.length) :=
  ⟨Nat.zero_le _, rfl, rfl, rfl, rfl, rfl, by decide +kernel⟩

theorem witness_grantsReplies : (after .powerOn openLink).held = true ∧ (after .lrtsDeasserted openLink).link.lrts = false ∧
    (sends ⟨0x81, 9, 0xFF, []⟩ true none).link.sending ≠ none ∧
    (full.mayGrant = true ∧ full.link.replies = [⟨0, 0, 0, []⟩, ⟨0, 0, 0, []⟩]) ∧
    (let s : State := { openLink with link := { openLink.link with restart := some true } }
     s.mayGrant = true ∧ s.link.replies = [] ∧ s.link.restart = some true) ∧
    (State.reset.mayGrant = true ∧ State.reset.link.replies = [] ∧ State.reset.link.restart = none ∧
      State.reset.link.readyPending = true) := by decide +kernel

/-- N2 has every notice of class 2 pending, N3 was served last and PWR_STATE last for N2; nine entries are unsent. -/
def noticesN2 : State :=
  let e : Event := ⟨0, .boot, 0, 0, true⟩
  { ((((openLink.mapPower .n2 (fun p => { p with statePending := true })).mapLive .n2 (fun l => { l with
      statePending := true })).mapMedia .n2 (fun m => { m with statePending := true })).mapLine .n2 (fun l => { l with
      roomPending := true })).mapHist .n2 (fun h => { h with eventPending := true, index := List.replicate 9 e }) with
    link := openLink.link }

theorem witness_stateNotices (k : StateNotice) :
    let s : State := { noticesN2 with link := { noticesN2.link with
      lastKind := noticesN2.link.lastKind.set .n2 (match k with
        | .pwr => .room | .liv => .pwr | .med => .liv | .evt => .med | .room => .evt) } }
    s.mayGrant = true ∧ s.link.replies = [] ∧ s.link.restart = none ∧ s.link.readyPending = false ∧
      (∃ before rest, s.link.lastState.after = before ++ NodeId.n2 :: rest ∧
        ∀ m ∈ before, ∀ j, s.stateNoticePending m j = false) ∧
      (∃ before rest, (s.link.lastKind.get .n2).after = before ++ k :: rest ∧
        ∀ j ∈ before, s.stateNoticePending .n2 j = false) ∧
      s.stateNoticePending .n2 k = true ∧ (k = .evt → ∃ e ∈ (s.nd .n2).hist.index, e.unsent = true) := by
  cases k <;> refine ⟨rfl, rfl, rfl, rfl, ⟨[.n0, .n1], [.n3], rfl, fun m hm j => ?_⟩, ⟨[], _, rfl, by simp⟩, rfl, ?_⟩
  all_goals first
    | (intro h; cases h; done)
    | (intro _; exact ⟨_, List.mem_cons_self, rfl⟩)
    | (simp only [List.mem_cons, List.not_mem_nil, or_false] at hm; rcases hm with rfl | rfl <;> cases j <;> rfl)

/-- The turn of CON_EVENT finds its entries all sent. -/
theorem witness_emptyEventTurn :
    let s : State := { noticesN2.mapHist .n2 (fun h => { h with index := [⟨0, .boot, 0, 0, false⟩] }) with
      link := { noticesN2.link with lastKind := noticesN2.link.lastKind.set .n2 .med } }
    s.mayGrant = true ∧ s.link.replies = [] ∧ s.link.restart = none ∧ s.link.readyPending = false ∧
      s.link.lastState.after = [NodeId.n0, .n1] ++ .n2 :: [.n3] ∧
      (∀ m ∈ [NodeId.n0, .n1], ∀ j, s.stateNoticePending m j = false) ∧
      (s.link.lastKind.get .n2).after = [] ++ StateNotice.evt :: [.room, .pwr, .liv, .med] ∧
      s.stateNoticePending .n2 .evt = true ∧ ∀ e ∈ (s.nd .n2).hist.index, e.unsent = false := by
  refine ⟨rfl, rfl, rfl, rfl, rfl, fun m hm j => ?_, rfl, rfl, by decide +kernel⟩
  simp only [List.mem_cons, List.not_mem_nil, or_false] at hm
  rcases hm with rfl | rfl <;> cases j <;> rfl

/-- N0 has a fetch of two blocks and a write-out pending, and data due. -/
def bulkN0 : State :=
  { (lab [⟨8, .n0, 5, .filling none⟩, ⟨9, .n0, 6, .filling none⟩, ⟨10, .n0, 9, .dirty⟩] [] id (fun c => { c with
      fetches := [8, 9], queue := [10] })).mapHist .n0 (fun h => { h with pacer := .due, next := 3 }) with link := openLink.link }

theorem witness_bulkNotices (b : Bulk) :
    let s : State := { bulkN0 with link := { bulkN0.link with rotation := b } }
    s.CacheLaw ∧ s.mayGrant = true ∧ s.link.replies = [] ∧ s.link.restart = none ∧ s.link.readyPending = false ∧
      (∀ m j, s.stateNoticePending m j = false) ∧
      (∃ before rest, [s.link.rotation, s.link.rotation.succ, s.link.rotation.succ.succ] = before ++ b :: rest ∧
        ∀ x ∈ before, ∀ m, s.bulkPending m x = false) ∧
      (∃ before rest, (s.link.lastBulk b).after = before ++ NodeId.n0 :: rest ∧ ∀ m ∈ before, s.bulkPending m b = false) ∧
      s.bulkPending .n0 b = true :=
  ⟨State.cacheLaw_of_check (by cases b <;> decide +kernel), rfl, rfl, rfl, rfl, fun m j => by cases m <;> cases j <;> rfl,
    ⟨[], _, rfl, by simp⟩, ⟨[], [.n1, .n2, .n3], by cases b <;> rfl, by simp⟩, by cases b <;> rfl⟩

/-! #### Console lines -/

theorem witness_lineSet :
    (let p := leBytes 4 300 ++ [5, 4, 1, 0, 0, 0]
     openLink.takes (nodeFrame 0x10 9 .n0 p) = true ∧ p.length = 10 ∧ (LineSettings.ofPayload p).isSome = true) ∧
    (LineSettings.ofPayload (leBytes 4 3000000 ++ [8, 0, 0, 0, 128, 0])).isSome = true ∧
    (LineSettings.ofPayload (leBytes 4 0 ++ [8, 0, 0, 0, 129, 0])).map LineSettings.rate = some .auto ∧
    LineSettings.ofPayload (leBytes 4 299 ++ [8, 0, 0, 0, 1, 0]) = none ∧
    LineSettings.ofPayload (leBytes 4 3000001 ++ [8, 0, 0, 0, 1, 0]) = none ∧
    LineSettings.ofPayload (leBytes 4 300 ++ [8, 5, 0, 0, 1, 0]) = none ∧
    LineSettings.ofPayload (leBytes 4 300 ++ [8, 0, 2, 0, 1, 0]) = none ∧
    ((openLink.nd .n0).line.tx = .idle) ∧ ((lineN0 (fun l => { l with tx := .gap none })).nd .n0).line.tx = .gap none ∧
    ((lineN0 (fun l => { l with tx := .brk 9 })).nd .n0).line.tx ≠ .idle := by decide +kernel

theorem witness_takesTheHead (i : TxItem) :
    let s := lineN0 (fun l => { l with queue := [i] })
    (s.nd .n0).line.tx = .idle ∧ s.condition .n0 ≠ .cut ∧ s.bitPeriod .n0 = some 217 ∧ (s.nd .n0).line.queue = i :: [] ∧
      (openLink.nd .n0).line.queue = [] := by
  cases i <;> exact ⟨rfl, show openLink.condition .n0 ≠ .cut by decide, show openLink.bitPeriod .n0 = some 217 by decide +kernel, rfl, rfl⟩

theorem witness_conWrite :
    (let p : List Byte := [7]
     openLink.takes (nodeFrame 0x11 9 .n0 p) = true ∧ 1 ≤ p.length ∧ p.length ≤ 512 ∧ (openLink.nd .n0).line.tx = .idle ∧
       openLink.condition .n0 ≠ .cut ∧ openLink.bitPeriod .n0 ≠ none ∧
       (openLink.nd .n0).line.queue ++ (p.take (min p.length (256 - (openLink.nd .n0).line.queue.length))).map TxItem.byte ≠ []) ∧
    (let p : List Byte := List.replicate 512 7
     let s := lineN0 (fun l => { l with tx := .brk 9 })
     s.takes (nodeFrame 0x11 9 .n0 p) = true ∧ p.length ≤ 512 ∧ (s.nd .n0).line.tx ≠ .idle) := by decide +kernel

/-- N0's queue with `k` items, while its transmitter is as given. -/
def queued (k : Nat) (tx : Transmitter) : State := lineN0 (fun l => { l with tx := tx, queue := List.replicate k (.byte 7) })

/-- An idle transmitter with an item that waited in HUNTING, the new rate a number, and AUTO. -/
theorem witness_lineSet_idle :
    let s := autoN0 (fun l => { l with autobaud := .hunting none, queue := [.byte 7] })
    let p := leBytes 4 9600 ++ [8, 0, 0, 0, 1, 0]
    s.takes (nodeFrame 0x10 9 .n0 p) = true ∧ (LineSettings.ofPayload p).map LineSettings.rate = some (.baud 9600) ∧
      (s.nd .n0).line.tx = .idle ∧ s.condition .n0 ≠ .cut ∧ (s.nd .n0).line.queue ≠ [] ∧
      s.takes (nodeFrame 0x10 9 .n0 (leBytes 4 0 ++ [8, 0, 0, 0, 1, 0])) = true := by decide +kernel

theorem witness_conBreak : (queued 256 .idle).takes (nodeFrame 0x12 9 .n0 [0, 0]) = true ∧ ([0, 0] : List Byte).length = 2 ∧
    256 ≤ ((queued 256 .idle).nd .n0).line.queue.length ∧
    ((queued 256 .idle).nd .n0).line.queue.length > ((queued 256 .idle).set .n0).line.roomLow ∧
    (queued 255 .idle).takes (nodeFrame 0x12 9 .n0 (leBytes 2 5001)) = true ∧ ((queued 255 .idle).nd .n0).line.queue.length < 256 ∧
    ((queued 255 .idle).nd .n0).line.tx = .idle ∧ (queued 255 .idle).condition .n0 ≠ .cut ∧
    (queued 255 .idle).bitPeriod .n0 ≠ none ∧ ((queued 255 (.brk 9)).nd .n0).line.tx ≠ .idle ∧
    (queued 255 (.brk 9)).takes (nodeFrame 0x12 9 .n0 (leBytes 2 5000)) = true ∧
    (queued 256 (.brk 9)).takes (nodeFrame 0x18 9 .n0 []) = true := by decide +kernel

theorem witness_transmitterEnds : openLink.held = false ∧ ((queued 1 (.byte (frame 3 9))).nd .n0).line.tx = .byte (frame 3 9) ∧
    ((queued 1 (.gap (some 9))).nd .n0).line.tx = .gap (some 9) ∧ ((queued 1 (.brk 9)).nd .n0).line.tx = .brk 9 ∧
    (queued 1 (.brk 9)).condition .n0 ≠ .cut ∧ (queued 1 (.brk 9)).bitPeriod .n0 ≠ none ∧
    ((queued 1 (.brk 9)).nd .n0).line.queue ≠ [] ∧ ((queued 0 (.byte (frame 3 9))).nd .n0).line.queue = [] ∧
    (openLink.nd .n0).line.tx = .idle := by decide +kernel

theorem witness_receiver : (lineN0 (fun l => { l with rx := .inBreak })).decodes .n0 = false ∧
    openLink.decodes .n0 = true ∧ 5 ≤ (openLink.set .n0).line.wordLen ∧ (openLink.set .n0).line.wordLen ≤ 8 ∧
    (List.range 8).countP (fun i => (0 : Byte).getLsbD i) = 0 ∧ (openLink.set .n0).line.parity = .none ∧
    (List.range 8).countP (fun i => (0x80 : Byte).getLsbD i) ≠ 0 := by decide +kernel

/-- R9's zero byte with the parity bit 1 and the stop bit 0 is a FRAMING byte, no break. -/
theorem test_zero_byte_framing : let s := openLink.mapSet .n0 (fun x => { x with line := { x.line with parity := .even } })
    s.decodes .n0 = true ∧ (s.set .n0).line.parity ≠ .none ∧ lowBits (s.set .n0).line.wordLen 0 = 0 ∧
      ((after (.characterReceived .n0 0 true false) s).nd .n0).hist.index.map Event.kind = [.framing, .parity] := by decide +kernel

/-- A byte handed on kicks the monitor where bit 1 of the mask is set, in each state that counts and in one that does not. -/
theorem test_handOn_kicks : [Monitor.grace 7, .warned 7, .watching 7 (some 9), .dormant].map (fun m =>
      ((after (.characterReceived .n0 0x41 false true) (monN0 m (onN0 .idle))).nd .n0).live.monitor) =
    [.watching 120000 (some 3600000), .watching 120000 (some 3600000), .watching 120000 (some 9), .dormant] := by decide +kernel

theorem witness_pacerTimers : (lineN0 (fun l => { l with idleGap := some 9 })).held = false ∧
    ((lineN0 (fun l => { l with idleGap := some 9 })).nd .n0).line.idleGap = some 9 ∧
    ((histN0 { History.fresh [0, 1] with pacer := .collecting (some 20) }).nd .n0).hist.pacer = .collecting (some 20) ∧
    (openLink.nd .n0).line.idleGap = none ∧ (openLink.nd .n0).hist.pacer = .idle := by decide +kernel

theorem witness_hunting : (autoN0 id).held = false ∧ (autoN0 id).condition .n0 ≠ .cut ∧
    ((autoN0 (fun l => { l with autobaud := .hunting none })).nd .n0).line.autobaud = .hunting none ∧
    ((autoN0 (fun l => { l with autobaud := .hunting (some ⟨30, 99⟩) })).nd .n0).line.autobaud = .hunting (some ⟨30, 99⟩) ∧
    ((autoN0 (fun l => { l with autobaud := .hunting (some ⟨31, 217⟩) })).nd .n0).line.autobaud = .hunting (some ⟨31, 217⟩) ∧
    judgeWindow (autoN0 id).cfg.fref (min 217 216) = some 115200 ∧ judgeWindow (autoN0 id).cfg.fref (min 217 190) = none ∧
    (autoN0 id).cfg.fref ≤ 50000 ∧ ((autoN0 (fun l => { l with tx := .gap none })).nd .n0).line.tx = .gap none ∧
    ((autoN0 (fun l => { l with autobaud := .locked 9600 (some ⟨15, 3⟩) })).nd .n0).line.autobaud = .locked 9600 (some ⟨15, 3⟩) ∧
    ((autoN0 (fun l => { l with autobaud := .locked 9600 (some ⟨15, 2⟩) })).nd .n0).line.autobaud = .locked 9600 (some ⟨15, 2⟩) ∧
    15 < 16 ∧ 3 < 4 := by decide +kernel

/-- The last run of a window that is accepted, and of one that is discarded. -/
theorem witness_windowEnds : openLink.cfg.fref = 25000 ∧ 216 = min (⟨31, 217⟩ : Window).shortest 216 ∧
    judgeWindow 25000 216 = some 115200 ∧ 190 = min (⟨31, 217⟩ : Window).shortest 190 ∧ judgeWindow 25000 190 = none := by
  decide +kernel

/-- A lock that finds the transmitter idle with an item waiting, and idle with none. -/
theorem witness_locks : let s := autoN0 (fun l => { l with autobaud := .hunting (some ⟨31, 217⟩), queue := [.byte 7] })
    s.held = false ∧ s.condition .n0 ≠ .cut ∧ judgeWindow s.cfg.fref (min 217 300) = some 115200 ∧
      (s.nd .n0).line.tx = .idle ∧ (s.nd .n0).line.queue ≠ [] ∧
      ((autoN0 (fun l => { l with autobaud := .hunting (some ⟨31, 217⟩) })).nd .n0).line.queue = [] := by decide +kernel

/-- A locked line whose wait has not begun, runs, or is over; and one that makes no loss-of-lock check. -/
theorem witness_lockWait (e : Option Nat) :
    let s := autoN0 (fun l => { l with autobaud := .locked 9600 (some ⟨0, 0⟩), rx := .lockWait e })
    s.held = false ∧ (∀ w, (s.nd .n0).line.autobaud ≠ .hunting w) ∧ (s.nd .n0).line.rx = .lockWait e ∧
      s.bitPeriod .n0 = some 2604 ∧ (openLink.nd .n0).line.rx = .idle ∧ (openLink.nd .n0).line.autobaud = .fixed  :=
  ⟨rfl, fun w h => (by cases h), rfl, show (openLink.mapLine .n0 (fun l => { l with
    autobaud := .locked 9600 none })).bitPeriod .n0 = some 2604 by decide +kernel, rfl, rfl⟩

/-! #### Console history, delivery and watch -/

/-- A ring of `ring` that is full, its mark as given, delivery not begun. -/
def fullRing (ring : List Nat) (mark : Option Nat) (deliver : Nat) : History :=
  { History.fresh ring with next := 512 * ring.length, mark := mark, deliver := deliver }

theorem fullRing_law (ring : List Nat) (mark : Option Nat) (deliver : Nat) (hm : ∀ m, mark = some m → m ≤ 512 * ring.length)
    (hd : deliver ≤ 512 * ring.length) : (fullRing ring mark deliver).Lawful :=
  ⟨rfl, Nat.zero_le _, hd, fun m h => ⟨Nat.zero_le _, hm m h⟩, by simp [fullRing, History.fresh, Config.pageBytes],
    Nat.zero_le _, List.Pairwise.nil, fun _ h => by cases h⟩

theorem witness_receivedByte :
    (openLink.HistoryLaw ∧ openLink.decodes .n0 = true ∧ lowBits (openLink.set .n0).line.wordLen 1 ≠ 0 ∧
      (openLink.nd .n0).hist.next < (openLink.nd .n0).hist.oldest + 512 * (openLink.nd .n0).hist.ring.length) ∧
    (let s := histN0 (fullRing [0, 1] none 0)
     s.HistoryLaw ∧ s.decodes .n0 = true ∧
       (s.nd .n0).hist.next = (s.nd .n0).hist.oldest + 512 * (s.nd .n0).hist.ring.length ∧
       (s.nd .n0).hist.ring.length < (s.set .n0).quota.max ∧ (s.free ++ s.lru).head? = some 32) ∧
    (let s := histN0 (fullRing (List.range 64) none 0)
     s.HistoryLaw ∧ s.decodes .n0 = true ∧
       (s.nd .n0).hist.next = (s.nd .n0).hist.oldest + 512 * (s.nd .n0).hist.ring.length ∧
       ¬(s.nd .n0).hist.ring.length < (s.set .n0).quota.max) := by
  refine ⟨⟨openLink_history, by decide +kernel, by decide +kernel, by decide +kernel⟩,
    ⟨histN0_law (fullRing_law _ _ _ (by simp) (by decide)) (by decide), by decide +kernel, by decide +kernel, by decide +kernel,
      by decide +kernel⟩,
    ⟨histN0_law (fullRing_law _ _ _ (by simp) (by decide)) (by decide), by decide +kernel, by decide +kernel, by decide +kernel⟩⟩

theorem witness_recycle :
    ((fullRing [0, 1] (some 511) 511).Lawful ∧ (fullRing [0, 1] (some 511) 511).ring ≠ [] ∧
      (fullRing [0, 1] (some 511) 511).oldest + 512 * (fullRing [0, 1] (some 511) 511).ring.length =
        (fullRing [0, 1] (some 511) 511).next ∧ (fullRing [0, 1] (some 511) 511).mark = some 511 ∧ 511 < 0 + 512) ∧
    ((fullRing [0, 1] (some 512) 512).Lawful ∧ (fullRing [0, 1] (some 512) 512).mark = some 512 ∧ 0 + 512 ≤ 512 ∧
      (fullRing [0, 1] (some 512) 512).oldest + 512 ≤ (fullRing [0, 1] (some 512) 512).deliver) :=
  ⟨⟨fullRing_law _ _ _ (by intro m h; cases h; decide) (by decide), by decide, by decide, by decide, by decide⟩,
    ⟨fullRing_law _ _ _ (by intro m h; cases h; decide) (by decide), by decide, by decide, by decide⟩⟩

/-- A history with `k` entries in its index, each the start of a boot. -/
def indexed (k : Nat) (more : List Event) : History :=
  { History.fresh [0, 1] with index := List.replicate k ⟨0, .boot, 0, 0, true⟩ ++ more }

theorem witness_record : (indexed 63 []).index.length < 64 ∧
    ((indexed 64 []).index = ⟨0, .boot, 0, 0, true⟩ :: List.replicate 63 ⟨0, .boot, 0, 0, true⟩ ∧
      64 ≤ (indexed 64 []).index.length) ∧
    ((indexed 1 [⟨0, .framing, 0xFFFF, 0, false⟩, ⟨0, .parity, 1, 0, false⟩]).index =
      [⟨0, .boot, 0, 0, true⟩] ++ ⟨0, .framing, 0xFFFF, 0, false⟩ :: [⟨0, .parity, 1, 0, false⟩]) ∧
    ((indexed 1 [⟨0, .parity, 1, 0, false⟩]).index = [⟨0, .boot, 0, 0, true⟩] ++ [⟨0, .parity, 1, 0, false⟩] ∧
      (∀ x ∈ [(⟨0, .parity, 1, 0, false⟩ : Event)], x.kind ≠ .framing ∧ (x.kind = .framing ∨ x.kind = .parity)) ∧
      ∀ x, ([⟨0, .boot, 0, 0, true⟩] : List Event).getLast? = some x → x.kind ≠ .framing ∧ x.kind ≠ .parity) :=
  ⟨by decide, ⟨by decide +kernel, by decide⟩, rfl, rfl, by decide, fun x h => by cases h; decide⟩

theorem witness_conRead (len : Nat) (h : len ∈ [0, 1, 512, 513]) :
    let p := leBytes 6 0 ++ leBytes 2 len
    let s := histN0 { fullRing [0, 1] none 1024 with oldest := 512, ring := [1, 0, 2] }
    s.HistoryLaw ∧ s.takes (nodeFrame 0x13 9 .n0 p) = true ∧ p.length = 8 := by
  refine ⟨histN0_law ⟨rfl, by decide, by decide, fun m h => (by cases h), by decide, by decide, List.Pairwise.nil, fun _ h => (by cases h)⟩
    (by decide), ?_, rfl⟩
  simp only [List.mem_cons, List.not_mem_nil, or_false] at h
  rcases h with rfl | rfl | rfl | rfl <;> decide +kernel

theorem witness_conEvents (skip : Byte) (h : skip ∈ [63, 64]) :
    openLink.HistoryLaw ∧ openLink.takes (nodeFrame 0x15 9 .n0 (leBytes 6 0 ++ [skip])) = true ∧
      (leBytes 6 0 ++ [skip]).length = 7 := by
  refine ⟨openLink_history, ?_, rfl⟩
  simp only [List.mem_cons, List.not_mem_nil, or_false] at h
  rcases h with rfl | rfl <;> decide +kernel

theorem witness_conMark : openLink.HistoryLaw ∧ openLink.takes (nodeFrame 0x14 9 .n0 (leBytes 6 0xFFFFFFFFFFFE)) = true ∧
    openLink.takes (nodeFrame 0x14 9 .n0 (leBytes 6 0xFFFFFFFFFFFF)) = true ∧ (leBytes 6 0xFFFFFFFFFFFF).length = 6 ∧
    leNat (leBytes 6 0xFFFFFFFFFFFF) = 0xFFFFFFFFFFFF ∧ leNat (leBytes 6 0xFFFFFFFFFFFE) ≠ 0xFFFFFFFFFFFF :=
  ⟨openLink_history, by decide +kernel, by decide +kernel, rfl, by decide +kernel, by decide +kernel⟩

/-- Follow 2 and start 3 are the first unlisted codes, follow 0 and 1 and start 2 the last listed ones. -/
theorem witness_conDelivery : openLink.HistoryLaw ∧ ∀ x ∈ ([(0, 0), (1, 2), (2, 0), (0, 3)] : List (Byte × Byte)),
    let p := x.1 :: leBytes 2 0 ++ leBytes 2 1001 ++ [4] ++ leBytes 2 0xFFFF ++ x.2 :: leBytes 6 1
    openLink.takes (nodeFrame 0x16 9 .n0 p) = true ∧ p.length = 15 ∧ byteAt p 0 = x.1 ∧ byteAt p 8 = x.2 := by
  refine ⟨openLink_history, fun x h => ?_⟩
  simp only [List.mem_cons, List.not_mem_nil, or_false] at h
  rcases h with rfl | rfl | rfl | rfl <;> decide +kernel

theorem witness_conWatch :
    openLink.takes (nodeFrame 0x17 9 .n0 [7, 0]) = true ∧ (7 : Byte) ≤ 7 ∧
    openLink.takes (nodeFrame 0x17 9 .n0 [8, 0]) = true ∧ ¬(8 : Byte) ≤ 7 ∧
    (let bytes : List Byte := List.replicate 32 0x41
     openLink.takes (nodeFrame 0x17 9 .n0 (7 :: 1 :: 0 :: 3 :: 7 :: 32 :: bytes)) = true ∧ bytes.length = (32 : Byte).toNat ∧
       1 ≤ bytes.length ∧ bytes.length ≤ 32) ∧
    (let bytes : List Byte := List.replicate 33 0x41
     openLink.takes (nodeFrame 0x17 9 .n0 (0 :: 1 :: 0 :: 0 :: 0 :: 33 :: bytes)) = true ∧ bytes.length = (33 : Byte).toNat) ∧
    openLink.takes (nodeFrame 0x17 9 .n0 [0, 1, 0, 5, 0, 0]) = true := by decide +kernel

theorem witness_watchMatch : abab.bytes ≠ [] ∧ okGt.bytes ≠ [] := by decide

/-- N0's place 7 holds a pattern of action `a`, its hit-since-boot flag as given. -/
def watches (a : WatchAction) (once hit : Bool) (s : State) : State :=
  (s.mapSet .n0 (fun x => { x with watch := List.replicate 7 none ++ [some { abab with action := a, once := once }] })).setNd .n0
    { s.nd .n0 with watch := List.replicate 7 ⟨0, false⟩ ++ [⟨3, hit⟩] }

theorem witness_watchHits : ((watches .mark true true openLink).set .n0).watch.length = 8 ∧
    ((watches .mark true true openLink).nd .n0).watch.length = 8 ∧
    (watches .mark true true openLink).pattern .n0 7 = some { abab with action := .mark, once := true } ∧
    ((watches .mark true true openLink).place .n0 7).hit = true ∧ 7 < 8 ∧
    ((watches .mark true false openLink).place .n0 7).hit = false ∧
    (watches (.power .reset) false false (onN0 .idle)).pattern .n0 7 = some { abab with action := .power .reset } ∧
    (watches (.power .reset) false false (onN0 .idle)).condition .n0 = .on ∧
    ((watches (.power .reset) false false (onN0 .idle)).nd .n0).power.ctrl = .idle ∧
    (watches (.power .reset) false false openLink).condition .n0 ≠ .on := by decide +kernel

theorem witness_watchMark : let s := watches .mark true false openLink
    s.HistoryLaw ∧ s.pattern .n0 7 = some { abab with action := .mark, once := true } ∧ 7 < (s.nd .n0).watch.length ∧
      (s.place .n0 7).hit = false := by
  refine ⟨⟨fun n => ?_, fun h => (by cases h)⟩, by decide +kernel⟩
  cases n
  · exact openLink_history.1 .n0
  · exact openLink_history.1 .n1
  · exact openLink_history.1 .n2
  · exact openLink_history.1 .n3

/-! #### Media presentation and cache -/

theorem lab_cache (es : List Entry) (lru : List Nat) (m : Media → Media) (c : NodeCache → NodeCache)
    (h : (lab es lru m c).cacheCheck = true) : (lab es lru m c).CacheLaw := State.cacheLaw_of_check h

theorem witness_medAttach :
    (let p := leBytes 4 5 ++ leBytes 4 1 ++ [2, 1, 0]
     openLink.takes (nodeFrame 0x20 9 .n0 p) = true ∧ p.length = 11 ∧ openLink.slot .n0 = none ∧
       ¬(fieldAt p 4 4 = 0 ∨ 2 < byteAt p 8 ∨ 1 < byteAt p 9) ∧ (lab [] [] id id).takes (nodeFrame 0x20 9 .n0 p) = true ∧
       (lab [] [] id id).slot .n0 ≠ none) ∧
    fieldAt (leBytes 4 5 ++ leBytes 4 0 ++ [2, 1, 0]) 4 4 = 0 ∧ 2 < byteAt (leBytes 4 5 ++ leBytes 4 1 ++ [3, 1, 0]) 8 ∧
    1 < byteAt (leBytes 4 5 ++ leBytes 4 1 ++ [2, 2, 0]) 9 := by decide +kernel

/-- N0 holds an entry in each state. -/
def entries4 : List Entry :=
  [⟨8, .n0, 5, .filling none⟩, ⟨9, .n0, 6, .valid⟩, ⟨10, .n0, 7, .dirty⟩, ⟨11, .n0, 8, .flushing 65535 true 9⟩]

/-- N0 with those entries and its slot in state `st`. -/
def busy (st : SlotState) : State :=
  lab entries4 [9] (slotIs st) (fun c => { c with fetches := [8], queue := [10], outstanding := [11] })

theorem busy_laws (st : SlotState) : (busy st).PageLaw ∧ (busy st).CacheLaw :=
  ⟨lab_pages _ _ _ _ rfl (by decide) (by decide) (by decide), lab_cache _ _ _ _ (by cases st <;> decide +kernel)⟩

/-- A refused MED_DETACH reports the slot and the two entries that remain to be stored (R81, R195). -/
theorem test_medDetach_refused : lastReply (after (.medDetach 9 0 [2]) (busy .ready)) = [4, 0, 1, 2, 0] := by decide +kernel

theorem witness_medDetach (mode : Byte) (h : mode ∈ [(0 : Byte), 1, 2]) (st : SlotState) :
    (busy st).PageLaw ∧ (busy st).CacheLaw ∧ (busy st).takes (nodeFrame 0x21 9 .n0 [mode]) = true ∧
      (busy st).slot .n0 = some { disk with state := st } ∧ (busy st).unstoredCount .n0 ≠ 0 := by
  refine ⟨(busy_laws st).1, (busy_laws st).2, ?_, rfl, ?_⟩
  · simp only [List.mem_cons, List.not_mem_nil, or_false] at h
    rcases h with rfl | rfl | rfl <;> cases st <;> decide +kernel
  · cases st <;> decide +kernel

theorem witness_medDetach_empty :
    (lab [] [] id id).PageLaw ∧ (lab [] [] id id).CacheLaw ∧ (lab [] [] id id).takes (nodeFrame 0x21 9 .n0 [0]) = true ∧
      (lab [] [] id id).slot .n0 = some disk ∧ (lab [] [] id id).unstoredCount .n0 = 0 ∧
      (lab [] [] id id).takes (nodeFrame 0x21 9 .n1 [0]) = true ∧ (lab [] [] id id).slot .n1 = none :=
  ⟨lab_pages _ _ _ _ rfl (by decide) (by decide) (by simp), lab_cache _ _ _ _ (by decide +kernel), by decide +kernel, rfl,
    by decide +kernel, by decide +kernel, rfl⟩

theorem witness_medFill :
    (let p := leBytes 2 8 ++ leBytes 4 5 ++ List.replicate 512 7
     (busy .ready).CacheLaw ∧ (busy .ready).takes (nodeFrame 0x22 9 .n0 p) = true ∧ p.length = 518 ∧
       ∃ e ∈ (busy .ready).entries, e.page = leNat (p.take 2) ∧ e.node = .n0 ∧ e.lba = leNat ((p.drop 2).take 4) ∧
         e.state.isFilling = true) ∧
    (let p := leBytes 2 1023 ++ leBytes 4 5 ++ List.replicate 512 7
     (busy .ready).takes (nodeFrame 0x22 9 .n0 p) = true ∧ leNat (p.take 2) ≤ 1023 ∧
       ∀ e ∈ (busy .ready).entries, e.page ≠ leNat (p.take 2)) ∧
    (let p := leBytes 2 1024 ++ leBytes 4 5 ++ List.replicate 512 7
     (busy .ready).takes (nodeFrame 0x22 9 .n0 p) = true ∧ 1023 < leNat (p.take 2)) := by
  refine ⟨⟨(busy_laws _).2, by decide +kernel, by decide +kernel, _, List.mem_cons_self, by decide +kernel, rfl, by decide +kernel, rfl⟩,
    by decide +kernel, by decide +kernel⟩

theorem witness_failedFetch :
    (let p := leBytes 2 8 ++ leBytes 4 5
     (busy .ready).CacheLaw ∧ (busy .ready).takes (nodeFrame 0x23 9 .n0 p) = true ∧ p.length = 6 ∧
       ∃ e ∈ (busy .ready).entries, e.page = leNat (p.take 2) ∧ e.node = .n0 ∧ e.lba = leNat (p.drop 2) ∧
         e.state.isFilling = true) ∧
    (let s := lab [⟨8, .n0, 5, .filling (some 30)⟩] [] id id
     s.held = false ∧ s.CacheLaw ∧ (⟨8, .n0, 5, .filling (some 30)⟩ : Entry) ∈ s.entries) ∧
    (∀ e ∈ (busy .ready).entries, e.page = 8 → ∀ d, e.state ≠ .filling (some d)) := by
  refine ⟨⟨(busy_laws _).2, by decide +kernel, rfl, _, List.mem_cons_self, by decide, rfl, by decide, rfl⟩,
    ⟨rfl, lab_cache _ _ _ _ (by decide +kernel), List.mem_cons_self⟩, fun e he _ d h => ?_⟩
  simp only [busy, lab, entries4, List.mem_cons, List.not_mem_nil, or_false] at he
  rcases he with rfl | rfl | rfl | rfl <;> cases h

/-- Numbers 65534 to 0 outstanding: through 0 resolves all, 1 is beyond, 32765 the last refused and 32766 long resolved. -/
theorem witness_medStored (through : Nat) (h : through ∈ [65534, 65535, 0, 1, 32765, 32766]) :
    wrapped.PageLaw ∧ wrapped.CacheLaw ∧ wrapped.takes (nodeFrame 0x24 9 .n0 (leBytes 2 through)) = true ∧
      (leBytes 2 through).length = 2 ∧ wrapped.slot .n0 = some disk ∧ disk.state ≠ .withdrawing := by
  have taken : ∀ x ∈ [65534, 65535, 0, 1, 32765, 32766], wrapped.takes (nodeFrame 0x24 9 .n0 (leBytes 2 x)) = true := by
    decide +kernel
  exact ⟨lab_pages _ _ _ _ rfl (by decide) (by decide) (by simp), lab_cache _ _ _ _ (by decide +kernel), taken _ h, rfl, rfl, by decide⟩

/-- One write-out of a slot in state `st` is outstanding with number 65535, its deadline at tick 0, and another behind it. -/
theorem witness_medStored_slots (st : SlotState) :
    let s := lab [⟨8, .n0, 10, .flushing 65534 false 0⟩, ⟨9, .n0, 11, .flushing 65535 false 0⟩] [] (slotIs st) (fun c => { c with
      outstanding := [8, 9] })
    s.PageLaw ∧ s.CacheLaw ∧ s.takes (nodeFrame 0x24 9 .n0 (leBytes 2 65534)) = true ∧
      s.takes (nodeFrame 0x24 9 .n0 (leBytes 2 65535)) = true ∧ s.slot .n0 = some { disk with state := st } ∧
      (∃ q r e d b w, (s.nd .n0).cache.outstanding.drop 1 = q :: r ∧ e ∈ s.entries ∧ e.page = q ∧
        e.state = .flushing b w d ∧ d ≤ s.clock.ticks) ∧ (s.nd .n0).cache.queue = [] ∧
      (s.nd .n0).cache.outstanding.drop 2 = [] :=
  ⟨lab_pages _ _ _ _ rfl (by decide) (by decide) (by simp), lab_cache _ _ _ _ (by cases st <;> decide +kernel), by
    cases st <;> decide +kernel, by cases st <;> decide +kernel, rfl,
    ⟨9, [], ⟨9, .n0, 11, .flushing 65535 false 0⟩, 0, 65535, false, rfl, by simp [lab], rfl, rfl, Nat.le_refl _⟩, rfl, rfl⟩

/-- An ACKED WRITE of two blocks whose blocks are received and not yet all stored. -/
theorem witness_medStored_acked :
    let m : Media → Media := fun m => { m with
      slot := some { disk with policy := .acked }
      current := some { write := true, lba := 10, count := 2, finished := 2, list := [], unstored := 2 } }
    let s := lab [⟨8, .n0, 10, .flushing 65534 false 9⟩, ⟨9, .n0, 11, .flushing 65535 false 9⟩] [] m (fun c => { c with
      outstanding := [8, 9] })
    s.PageLaw ∧ s.CacheLaw ∧ s.takes (nodeFrame 0x24 9 .n0 (leBytes 2 65534)) = true ∧
      s.takes (nodeFrame 0x24 9 .n0 (leBytes 2 65535)) = true :=
  ⟨lab_pages _ _ _ _ rfl (by decide) (by decide) (by simp), lab_cache _ _ _ _ (by decide +kernel), by decide +kernel, by decide +kernel⟩

/-- A command of three blocks at LBA 10 is current while the write-outs of two blocks are outstanding: two of its blocks are
finished, and the third is to come. -/
def storing (write : Bool) (pol : WritePolicy) : State :=
  lab [⟨8, .n0, 10, .flushing 65534 false 9⟩, ⟨9, .n0, 11, .flushing 65535 false 9⟩] [] (fun m => { m with
      slot := some { disk with policy := pol }
      current := some { write := write, lba := 10, count := 3, finished := 2, list := [⟨12, .ready⟩]
                        unstored := if write ∧ pol = .acked then 2 else 0 } }) (fun c => { c with outstanding := [8, 9] })

theorem witness_medStored_goesOn (write : Bool) (pol : WritePolicy) :
    (storing write pol).PageLaw ∧ (storing write pol).CacheLaw ∧
      (storing write pol).takes (nodeFrame 0x24 9 .n0 (leBytes 2 65534)) = true ∧ (storing write pol).clock.ticks < 9 :=
  ⟨lab_pages _ _ _ _ rfl (by decide) (by decide) (by simp), lab_cache _ _ _ _ (by cases write <;> cases pol <;> decide +kernel), by
    cases write <;> cases pol <;> decide +kernel, show (0 : Nat) < 9 by decide⟩

/-- The unstored count of an ACKED WRITE with a block to come falls by the block that is stored, and a READ and a CACHED WRITE go
on as they are (R120). -/
theorem test_medStored_goesOn : [(true, WritePolicy.acked), (true, .cached), (false, .acked)].map (fun x =>
      ((after (.medStored 9 0 (leBytes 2 65534)) (storing x.1 x.2)).nd .n0).media.current.map (fun c => (c.finished, c.unstored))) =
    [some (2, 1), some (2, 0), some (2, 0)] := by decide +kernel

/-- A WITHDRAWING slot with two write-outs whose drain goes on: the front that is left is overdue at deadline 0 and not at 9, and
the one resolved is rewritten or not. -/
theorem witness_medStored_drains (d : Nat) (h : d ∈ [0, 9]) (w : Bool) :
    let s := lab [⟨8, .n0, 10, .flushing 65534 w 0⟩, ⟨9, .n0, 11, .flushing 65535 false d⟩] [] (slotIs .withdrawing) (fun c => { c with
      outstanding := [8, 9] })
    s.PageLaw ∧ s.CacheLaw ∧ s.takes (nodeFrame 0x24 9 .n0 (leBytes 2 65534)) = true ∧
      s.slot .n0 = some { disk with state := .withdrawing } ∧ s.clock.ticks = 0 ∧
      (s.nd .n0).cache.outstanding.drop 1 ≠ [] := by
  simp only [List.mem_cons, List.not_mem_nil, or_false] at h
  rcases h with rfl | rfl <;> cases w <;>
    exact ⟨lab_pages _ _ _ _ rfl (by decide) (by decide) (by simp), lab_cache _ _ _ _ (by decide +kernel), by decide +kernel, rfl, rfl,
      by decide⟩

theorem witness_rangeTables :
    (let l := fourteen ++ [⟨1000, 100⟩, ⟨2000, 5⟩]
     l.Pairwise (fun x y => x.first + x.count < y.first) ∧ (∀ x ∈ l, 0 < x.count) ∧ l.length = 16 ∧ 1000 < 1030 ∧
       1030 + 1 < 1000 + 100 ∧ l = fourteen ++ ⟨1000, 100⟩ :: [⟨2000, 5⟩]) ∧
    (let l : List Range := [⟨5, 1⟩]
     l.Pairwise (fun x y => x.first + x.count < y.first) ∧ (∀ x ∈ l, 0 < x.count) ∧ l.length < 16 ∧
       inRanges l 6 = false) := by decide +kernel

/-- `k` ranges of one block, no two touching. -/
def ranges (k : Nat) : List Byte := (List.range k).flatMap (fun i => leBytes 4 (2 * i) ++ leBytes 4 1)

/-- The numbers of ranges on both sides of each limit, with their kind; kind 2 is unlisted. -/
def extentSizes : List (Byte × Nat) := [(0, 3), (0, 16), (0, 17), (1, 8), (1, 9), (1, 32), (1, 33), (2, 0)]

theorem witness_medExtents : (busy .ready).CacheLaw ∧ (busy .ready).PageLaw ∧ (busy .ready).slot .n0 = some disk ∧
    ∀ x ∈ extentSizes, (busy .ready).takes (nodeFrame 0x25 9 .n0 (x.1 :: BitVec.ofNat 8 x.2 :: ranges x.2)) = true ∧
      (ranges x.2).length = 8 * (BitVec.ofNat 8 x.2).toNat ∧
      (normalRanges disk.capacity ((List.range x.2).map (fun i => ⟨2 * i, 1⟩))).length = x.2 :=
  ⟨(busy_laws _).2, (busy_laws _).1, rfl, by decide +kernel⟩

/-- A READ whose blocks, one of them ready as zeros, lose their zero table: one is valid, one is FILLING, and two have no
entry. -/
def zeroReads : State :=
  lab [⟨8, .n0, 5, .filling none⟩, ⟨9, .n0, 6, .valid⟩] [9]
    (fun m => { m with
      slot := some { disk with zero := [⟨7, 2⟩] }
      current := some { write := false, lba := 5, count := 4, finished := 0, unstored := 0,
                        list := [⟨5, .waiting⟩, ⟨6, .ready⟩, ⟨7, .ready⟩, ⟨8, .ready⟩] } })
    (fun c => { c with fetches := [8] })

/-- R89, R93: what left the zero table is looked at again and asks for its entry; what joined it is ready. -/
theorem test_zero_table_looked_at_again :
    let t := after (.medExtentsSet 9 0 (0 :: 1 :: leBytes 4 5 ++ leBytes 4 3)) zeroReads
    (t.nd .n0).media.current.map Command.list = some [⟨5, .ready⟩, ⟨6, .ready⟩, ⟨7, .ready⟩, ⟨8, .waiting⟩] ∧
      (t.nd .n0).cache.fetches = [8] ∧ t.entries = [⟨8, .n0, 8, .filling none⟩] := by decide +kernel

theorem witness_medExtents_reading : zeroReads.CacheLaw ∧ zeroReads.PageLaw ∧
    zeroReads.takes (nodeFrame 0x25 9 .n0 (0 :: 1 :: leBytes 4 5 ++ leBytes 4 3)) = true ∧
    zeroReads.takes (nodeFrame 0x25 9 .n0 [0, 0]) = true ∧
    (∀ e ∈ zeroReads.entries.filter (fun e => e.node == .n0 && inRanges [⟨5, 3⟩] e.lba), e.state.isUnstored = false) ∧
    (zeroReads.nd .n0).media.current.map Command.write = some false ∧
    inRanges [⟨7, 2⟩] 8 = true ∧ inRanges [⟨5, 3⟩] 8 = false :=
  ⟨lab_cache _ _ _ _ (by decide +kernel), lab_pages _ _ _ _ rfl (by decide) (by decide) (by decide), by decide +kernel,
    by decide +kernel, by decide +kernel, rfl, by decide, by decide⟩

/-- A ZERO list over FILLING and VALID entries alone, one over a DIRTY entry, and an ABSENT slot. -/
theorem witness_medExtents_zero :
    (∀ e ∈ (busy .ready).entries.filter (fun e => e.node == .n0 && inRanges [⟨5, 2⟩] e.lba), e.state.isUnstored = false) ∧
    (∃ e ∈ (busy .ready).entries.filter (fun e => e.node == .n0 && inRanges [⟨5, 3⟩] e.lba), e.state.isUnstored = true) ∧
    (busy .ready).takes (nodeFrame 0x25 9 .n0 (0 :: 1 :: leBytes 4 5 ++ leBytes 4 2)) = true ∧
    (busy .ready).takes (nodeFrame 0x25 9 .n0 (0 :: 1 :: leBytes 4 5 ++ leBytes 4 3)) = true ∧
    (busy .ready).slot .n1 = none := by decide +kernel

theorem witness_storeTimeouts (st : SlotState) :
    (busy st).CacheLaw ∧ (busy st).takes (nodeFrame 0x26 9 .n0 []) = true ∧ (busy st).held = false ∧
      (busy st).slot .n0 = some { disk with state := st } ∧ ((busy st).nd .n0).cache.outstanding = 11 :: [] ∧
      (⟨11, .n0, 8, .flushing 65535 true 9⟩ : Entry) ∈ (busy st).entries ∧ openLink.slot .n0 = none :=
  ⟨(busy_laws st).2, by cases st <;> decide +kernel, rfl, rfl, rfl, by simp [busy, lab, entries4], rfl⟩

/-- The least and the greatest values, with the last listed choice codes and the first unlisted one. -/
theorem witness_tuningAndTimings : openLink.takes (nodeFrame 0x28 9 .n0 (List.replicate 7 0)) = true ∧
    openLink.takes (nodeFrame 0x28 9 .n0 (List.replicate 7 0xFF)) = true ∧ (List.replicate 7 (0 : Byte)).length = 7 ∧
    (let p : List Byte := List.replicate 44 0xFF ++ [1, 2, 1]
     openLink.takes (nodeFrame 0x33 9 .n0 p) = true ∧ p.length = 47 ∧ byteAt p 44 ≤ 1 ∧ byteAt p 45 ≤ 2 ∧ byteAt p 46 ≤ 1) ∧
    (let p : List Byte := List.replicate 44 0 ++ [0, 3, 0]
     openLink.takes (nodeFrame 0x33 9 .n0 p) = true ∧ p.length = 47 ∧ 2 < byteAt p 45) := by decide +kernel

theorem witness_port : (lab [] [] id id).connected .n0 = true ∧ ((lab [] [] id id).nd .n0).media.current = none ∧
    (openLink.connected .n0 = false) ∧ ((lab [] [] writing id).nd .n0).media.current ≠ none ∧
    (lab [] [] writing id).connected .n0 = true ∧
    (lab [] [] id id).slot .n0 = some disk ∧ disk.state = .ready ∧ disk.changed = false ∧ disk.removable = true ∧
    (lab [] [] (slotIs .withdrawing) id).slot .n0 = some { disk with state := .withdrawing } ∧
    (lab [] [] (fun m => { m with slot := none }) id).slot .n0 = none ∧
    (298 : Word).toNat + (2 : Half).toNat ≤ disk.capacity ∧ ¬(298 : Word).toNat + (3 : Half).toNat ≤ disk.capacity ∧
    (let x := { disk with protect := [⟨10, 1⟩] }
     ∃ r ∈ x.protect, r.covers 10 = true ∧ (9 : Word).toNat ≤ 10 ∧ 10 < (9 : Word).toNat + (2 : Half).toNat) ∧
    (lab [] [] id id).free.length ≥ 32 := by decide +kernel

theorem witness_read : (lab [⟨8, .n0, 5, .valid⟩, ⟨9, .n0, 6, .filling none⟩] [8] id (fun c => { c with fetches := [9] })).PageLaw ∧
    (lab [⟨8, .n0, 5, .valid⟩, ⟨9, .n0, 6, .filling none⟩] [8] id (fun c => { c with fetches := [9] })).CacheLaw ∧
    (lab [⟨8, .n0, 5, .valid⟩, ⟨9, .n0, 6, .filling none⟩] [8] id (fun c => { c with fetches := [9] })).connected .n0 = true ∧
    (3 : Half) ≠ 0 ∧ disk.changed = false ∧ (5 : Word).toNat + (3 : Half).toNat ≤ disk.capacity :=
  ⟨lab_pages _ _ _ _ rfl (by decide) (by decide) (by decide), lab_cache _ _ _ _ (by decide +kernel), rfl, by decide, rfl,
    by decide⟩

/-- A READ of three blocks at LBA 5 of which `k` are finished, the next one ready. -/
def readsFrom (k : Nat) (m : Media) : Media :=
  { m with
    current := some { write := false, lba := 5, count := 3, finished := k, list := [⟨5 + k, .ready⟩], unstored := 0 }
    continuation := some 5 }

theorem witness_delivery (k : Nat) (h : k ∈ [1, 2]) :
    let s := lab [⟨8, .n0, 5 + k, .valid⟩] [8] (readsFrom k) id
    s.held = false ∧ s.PageLaw ∧ s.CacheLaw ∧ (s.nd .n0).media.current = some { write := false, lba := 5, count := 3,
                                                                                finished := k, list := [⟨5 + k, .ready⟩], unstored := 0 } ∧
      s.slot .n0 = some disk ∧ (⟨8, .n0, 5 + k, .valid⟩ : Entry) ∈ s.entries ∧ inRanges disk.zero (5 + k) = false ∧
      (s.nd .n0).media.continuation = some 5 := by
  simp only [List.mem_cons, List.not_mem_nil, or_false] at h
  rcases h with rfl | rfl <;>
    exact ⟨rfl, lab_pages _ _ _ _ rfl (by decide) (by decide) (by decide), lab_cache _ _ _ _ (by decide +kernel), rfl, rfl,
      List.mem_cons_self, rfl, rfl⟩

theorem witness_delivery_zero :
    let m : Media → Media := fun m => readsFrom 1 { m with slot := some { disk with zero := [⟨6, 1⟩] } }
    (lab [] [] m id).PageLaw ∧ (lab [] [] m id).CacheLaw ∧ (lab [] [] m id).slot .n0 = some { disk with zero := [⟨6, 1⟩] } ∧
      inRanges [⟨6, 1⟩] 6 = true :=
  ⟨lab_pages _ _ _ _ rfl (by decide) (by decide) (by simp), lab_cache _ _ _ _ (by decide +kernel), rfl, rfl⟩

/-- A READ of 70 blocks with 64 of them in its list: the first is ready, the second waits, the others want entries, and two
blocks stand beyond the list. -/
def longRead : State :=
  lab [⟨8, .n0, 5, .valid⟩, ⟨9, .n0, 6, .filling none⟩, ⟨10, .n0, 69, .valid⟩] [8, 10]
    (fun m => { m with current := some { write := false, lba := 5, count := 70, finished := 0, unstored := 0,
                                         list := ⟨5, .ready⟩ :: ⟨6, .waiting⟩ :: (List.range' 7 62).map (⟨·, .wanting⟩) } })
    (fun c => { c with fetches := [9] })

theorem witness_delivery_list : longRead.held = false ∧ longRead.PageLaw ∧ longRead.CacheLaw ∧
    (longRead.nd .n0).media.current = some { write := false, lba := 5, count := 70, finished := 0, unstored := 0,
                                             list := ⟨5, .ready⟩ :: ⟨6, .waiting⟩ :: (List.range' 7 62).map (⟨·, .wanting⟩) } ∧
    longRead.slot .n0 = some disk ∧ 0 + 1 < 70 :=
  ⟨rfl, lab_pages _ _ _ _ rfl (by decide) (by decide) (by decide), lab_cache _ _ _ _ (by decide +kernel), rfl, rfl, by decide⟩

/-- The delivered block's entry goes to the back of the LRU list, and its place goes to a block that finds an entry with
data; of the blocks that want an entry as many are served as the cap lets through. -/
theorem test_delivery_list : let t := after (.blockDelivery .n0) longRead
    t.lru = [10, 8] ∧ t.fillingCount .n0 = 32 ∧
      (t.nd .n0).media.current.map (fun c => (c.list.length, c.list.getLast?, c.list.countP (fun b => b.status = .wanting))) =
        some (64, some ⟨69, .ready⟩, 31) := by decide +kernel

theorem witness_delivery_again :
    (lab [⟨8, .n0, 6, .filling none⟩] [] (readsFrom 1) (fun c => { c with fetches := [8] })).PageLaw ∧
    (lab [⟨8, .n0, 6, .filling none⟩] [] (readsFrom 1) (fun c => { c with fetches := [8] })).CacheLaw ∧
    (lab [] [] (readsFrom 1) id).PageLaw ∧ (lab [] [] (readsFrom 1) id).CacheLaw ∧ (∀ e ∈ (lab [] [] (readsFrom 1) id).entries, ¬(e.node = .n0 ∧ e.lba = 6)) ∧
    (openLink.nd .n0).media.current = none :=
  ⟨lab_pages _ _ _ _ rfl (by decide) (by decide) (by simp), lab_cache _ _ _ _ (by decide +kernel),
    lab_pages _ _ _ _ rfl (by decide) (by decide) (by simp), lab_cache _ _ _ _ (by decide +kernel), by simp [lab], rfl⟩

/-- `k` FILLING entries of N0 beyond the block that waits for one. -/
def fillingEntries (k : Nat) : State :=
  lab ((List.range k).map (fun i => ⟨8 + i, .n0, 100 + i, .filling none⟩)) [] (reading [⟨5, .waiting⟩, ⟨6, .wanting⟩]) (fun c => { c with
    fetches := List.range' 8 k })

theorem witness_newEntry (k : Nat) (h : k ∈ [31, 32]) :
    (fillingEntries k).held = false ∧ (fillingEntries k).PageLaw ∧ (fillingEntries k).CacheLaw ∧
      ((fillingEntries k).nd .n0).media.current = some { write := false, lba := 5, count := 3, finished := 0,
                                                         list := [⟨5, .waiting⟩] ++ ⟨6, .wanting⟩ :: [], unstored := 0 } ∧
      ((fillingEntries k).nd .n0).media.received = none ∧ (fillingEntries k).fillingCount .n0 = k ∧
      ((fillingEntries k).free ++ (fillingEntries k).lru).head? = some (8 + k) := by
  simp only [List.mem_cons, List.not_mem_nil, or_false] at h
  rcases h with rfl | rfl <;>
    exact ⟨rfl, lab_pages _ _ _ _ (by decide +kernel) (by decide) (by decide) (by simp), lab_cache _ _ _ _ (by decide +kernel), rfl, rfl,
      by decide +kernel, by decide +kernel⟩

/-- `k` DIRTY entries of N0, and a received block whose LBA has none. -/
def dirtyEntries (k : Nat) : State :=
  lab ((List.range k).map (fun i => ⟨8 + i, .n0, 100 + i, .dirty⟩)) [] writing (fun c => { c with queue := List.range' 8 k })

theorem witness_blockAccept (k : Nat) (h : k ∈ [63, 64]) :
    (dirtyEntries k).held = false ∧ (dirtyEntries k).PageLaw ∧ (dirtyEntries k).CacheLaw ∧
      ((dirtyEntries k).nd .n0).media.current = some { write := true, lba := 5, count := 2, finished := 0,
                                                       list := ⟨5, .ready⟩ :: [⟨6, .ready⟩], unstored := 0 } ∧
      ((dirtyEntries k).nd .n0).media.received = some (List.replicate 512 7) ∧ (dirtyEntries k).slot .n0 = some disk ∧
      (dirtyEntries k).entries.filter (fun e => e.node == .n0 && e.lba == 5) = [] ∧ (dirtyEntries k).unstoredCount .n0 = k := by
  simp only [List.mem_cons, List.not_mem_nil, or_false] at h
  rcases h with rfl | rfl <;>
    exact ⟨rfl, lab_pages _ _ _ _ (by decide +kernel) (by decide) (by decide) (by simp), lab_cache _ _ _ _ (by decide +kernel), rfl, rfl,
      rfl, by decide +kernel, by decide +kernel⟩

/-- The received block finds an entry in each of its states. -/
theorem witness_blockAccept_found (x : EntryState × List Nat × (NodeCache → NodeCache))
    (h : x ∈ [(EntryState.filling none, [], fun c => { c with fetches := [8] }), (.valid, [8], id),
      (.dirty, [], fun c => { c with queue := [8] }), (.flushing 65535 false 9, [], fun c => { c with outstanding := [8] })]) :
    let s := lab [⟨8, .n0, 5, x.1⟩] x.2.1 writing x.2.2
    s.PageLaw ∧ s.CacheLaw ∧ s.entries.filter (fun e => e.node == .n0 && e.lba == 5) ≠ [] := by
  simp only [List.mem_cons, List.not_mem_nil, or_false] at h
  rcases h with rfl | rfl | rfl | rfl <;>
    exact ⟨lab_pages _ _ _ _ rfl (by decide) (by decide) (by decide), lab_cache _ _ _ _ (by decide +kernel), by simp [lab]⟩

theorem witness_writeBlock : (List.replicate 512 (3 : Byte)).length = 512 ∧
    (let s := lab [] [] (fun m => { writing m with received := none }) id
     s.connected .n0 = true ∧ (s.nd .n0).media.received = none ∧ (s.nd .n0).media.current.map Command.write = some true ∧
       (s.nd .n0).media.current.map Command.list ≠ some []) ∧
    ((lab [] [] writing id).nd .n0).media.received ≠ none ∧ (openLink.nd .n0).media.current = none := by decide +kernel

/-! #### Power and liveness -/

theorem witness_pwrAction (k : Byte) (h : k ∈ [(0 : Byte), 1, 7, 8]) :
    (onN0 .idle).takes (nodeFrame 0x30 9 .n0 [k]) = true ∧ ((onN0 .idle).nd .n0).power.ctrl = .idle ∧
      (onN0 .idle).condition .n0 = .on ∧ ((onN0 .idle).nd .n0).power.pg ≠ .settling ∧
      (onN0 (.locked .cutIneffective)).takes (nodeFrame 0x30 9 .n0 [k]) = true ∧
      ((onN0 (.locked .cutIneffective)).nd .n0).power.ctrl = .locked .cutIneffective ∧
      (onN0 (.acting (act .reset .pulse false) none false)).takes (nodeFrame 0x30 9 .n0 [k]) = true ∧
      (onN0 (.acting (act .reset .pulse false) (some ⟨.diag, .watch⟩) false)).takes (nodeFrame 0x30 9 .n0 [k]) = true ∧
      ((openLink.nd .n0).power.pg = .settling ∧ openLink.takes (nodeFrame 0x30 9 .n0 [k]) = true) ∧
      ActionKind.code .on = 1 ∧ ActionKind.code .diag = 7 := by
  simp only [List.mem_cons, List.not_mem_nil, or_false] at h
  rcases h with rfl | rfl | rfl | rfl <;> decide +kernel

/-- N0 CUT, with its controller in state `c` and CTX0 floating over a break with `r` ticks left, or over none. -/
def cutN0 (c : Controller) (r : Option Nat) : State :=
  ((offN0 c).mapPower .n0 (fun p => { p with feedCut := true })).mapLine .n0 (fun l => { l with tx := .floating r })

/-- A byte is abandoned and a break suspended as N0 becomes CUT; a break resumes, and an idle character time is held where there
was none, as it leaves CUT (R24). -/
theorem test_cut : [Transmitter.byte (frame 3 0), .brk 9, .gap none].map (fun x =>
      ((after (.pwrAction 9 0 [4]) ((onN0 .idle).mapLine .n0 (fun l => { l with tx := x }))).nd .n0).line.tx) =
      [.floating none, .floating (some 9), .floating none] ∧
    [some 9, none].map (fun r => ((after (.pwrAction 9 0 [1]) (cutN0 .idle r)).nd .n0).line.tx) = [.brk 9, .gap (some 2170)] := by
  decide +kernel

/-- ON and CYCLE start from CUT and from ON, where the condition changes; a CYCLE by the CUT method cuts the feed. -/
theorem witness_cut :
    (onN0 .idle).condition .n0 = .on ∧ (after (.pwrAction 9 0 [4]) (onN0 .idle)).condition .n0 = .cut ∧
    (cutN0 .idle (some 9)).takes (nodeFrame 0x30 9 .n0 [1]) = true ∧ (cutN0 .idle (some 9)).condition .n0 = .cut ∧
    ((cutN0 .idle (some 9)).nd .n0).power.ctrl = .idle ∧ ((cutN0 .idle (some 9)).nd .n0).power.pg ≠ .settling ∧
    (after (.pwrAction 9 0 [1]) (cutN0 .idle (some 9))).condition .n0 = .off ∧
    (let s := (onN0 .idle).mapSet .n0 (fun x => { x with choices := { x.choices with method := .cut } })
     s.takes (nodeFrame 0x30 9 .n0 [5]) = true ∧ s.condition .n0 = .on ∧ (s.set .n0).choices.method = .cut) := by decide +kernel

/-- DWELL ends on a node that is CUT; a rise ends it there too; and a queued CUT comes up as a pulse ends. -/
theorem witness_cut_phases :
    (let s := cutN0 (.acting (act .cycle .dwell false) (some ⟨.cut, .watch⟩) false) none
     s.condition .n0 = .cut ∧ (s.nd .n0).power.pg = .low ∧ (after (.dwellExpiry .n0) s).condition .n0 = .off) ∧
    (let s := (cutN0 (.acting (act .cycle .dwell false) none false) none).mapPower .n0 (fun p => { p with
       sense := true, debounce := some 20 })
     s.condition .n0 = .cut ∧ (after (.pgAccepted .n0) s).condition .n0 = .on) ∧
    (let s := onN0 (.acting (act .diag .pulse false) (some ⟨.cut, .watch⟩) false)
     s.condition .n0 = .on ∧ (after (.pulseEnd .n0) s).condition .n0 = .cut) := by decide +kernel

theorem witness_pwrAbort : (onN0 .idle).takes (nodeFrame 0x31 9 .n0 []) = true ∧ ((onN0 .idle).nd .n0).power.ctrl = .idle ∧
    (let s := onN0 (.acting (act .reset .pulse false) (some ⟨.diag, .watch⟩) true)
     s.takes (nodeFrame 0x31 9 .n0 []) = true ∧ (s.nd .n0).power.ctrl = .acting (act .reset .pulse false) (some ⟨.diag, .watch⟩) true) ∧
    (let s := onN0 (.acting (act .offSoft .awaitDown false) none false)
     s.takes (nodeFrame 0x31 9 .n0 []) = true ∧ (s.set .n0).choices.abort = .immediate) ∧
    (let s := onN0 (.locked .startTimeout)
     s.takes (nodeFrame 0x32 9 .n0 []) = true ∧ (s.nd .n0).power.ctrl = .locked .startTimeout) ∧
    (onN0 .idle).takes (nodeFrame 0x32 9 .n0 []) = true := by decide +kernel

/-- Every phase can be the current one, with the aborting flag and a queued action or without. -/
theorem witness_phases (ph : Phase) (q : Option Queued) (ab : Bool) :
    (onN0 (.acting (act .cycle ph false) q ab)).held = false ∧
      ((onN0 (.acting (act .cycle ph false) q ab)).nd .n0).power.ctrl = .acting (act .cycle ph false) q ab ∧
      (act .cycle ph false).phase = ph := ⟨rfl, rfl, rfl⟩

/-- After a hold and not after one; a dwell that finds CUT and one that finds OFF. -/
theorem witness_phases_branches : (act .offHard .awaitDown false).kind = .offHard ∧
    ¬((act .offSoft .awaitDown false).escalated = true ∨ (act .offSoft .awaitDown false).kind = .offHard ∨
      ((act .offSoft .awaitDown false).kind = .cycle ∧ (act .offSoft .awaitDown false).method = .hard)) ∧
    ((onN0 .idle).set .n0).choices.escalation = .none ∧
    (offN0 (.acting (act .cycle .dwell false) none false)).condition .n0 = .off ∧
    ((offN0 (.acting (act .cycle .dwell false) none false)).nd .n0).power.pg = .low ∧
    (let s := (offN0 (.acting (act .cycle .dwell false) none false)).mapPower .n0 (fun p => { p with feedCut := true })
     s.condition .n0 = .cut ∧ (s.nd .n0).power.pg = .low) := by decide +kernel

/-- The end of a RESET pulse that brings N0 to boot number 1, with a ONCE medium attached at boot number `a` and one block yet to
be stored. -/
def onceN0 (a : Half) (st : SlotState) : State :=
  (lab [⟨8, .n0, 5, .dirty⟩] [] (fun m => { m with slot := some { disk with present := .once a, state := st } })
    (fun c => { c with queue := [8] })).mapPower .n0 (fun p => { p with
      sense := true, pg := .high, debounce := none, ctrl := .acting (act .reset .pulse false) none false })

/-- The medium is withdrawn at the second boot event after its attach, and not at the first (R85). -/
theorem test_onceRule : [((0xFFFF : Half), SlotState.ready), (0xFFFF, .faulted), (0, .ready)].map (fun x =>
      ((after (.pulseEnd .n0) (onceN0 x.1 x.2)).slot .n0).map Medium.state) =
    [some .withdrawing, some .withdrawing, some .ready] := by decide +kernel

theorem witness_onceRule :
    (onceN0 0xFFFF .ready).slot .n0 = some { disk with present := .once 0xFFFF } ∧
    2 ≤ (((onceN0 0xFFFF .ready).nd .n0).power.boot + 1 - 0xFFFF).toNat ∧
    ¬2 ≤ (((onceN0 0 .ready).nd .n0).power.boot + 1 - 0).toNat ∧ (onceN0 0xFFFF .ready).CacheLaw ∧
    (onceN0 0xFFFF .ready).unstoredCount .n0 = 1 ∧
    (let s := (onceN0 0xFFFF .faulted).mapPower .n0 (fun p => { p with pg := .low, debounce := some 20, ctrl := .idle })
     s.held = false ∧ (s.nd .n0).power.sense = true ∧ (s.nd .n0).power.pg = .low) :=
  ⟨rfl, by decide, by decide, State.cacheLaw_of_check (by decide +kernel), by decide +kernel, rfl, rfl, rfl⟩

/-- N0's sense reads `sense`, its accepted level is `pg`, and the debounce interval ends at tick 20. -/
def debouncing (sense : Bool) (pg : Accepted) (c : Controller) : State :=
  openLink.mapPower .n0 (fun p => { p with sense := sense, pg := pg, debounce := some 20, ctrl := c })

theorem witness_powerGood (sense : Bool) (pg : Accepted) (c : Controller) :
    (debouncing sense pg c).held = false ∧ ((debouncing sense pg c).nd .n0).power.debounce = some 20 ∧
      ((debouncing sense pg c).nd .n0).power.sense = sense ∧ ((debouncing sense pg c).nd .n0).power.pg = pg ∧
      ((debouncing sense pg c).nd .n0).power.ctrl = c ∧ ((debouncing sense pg c).set .n0).timings.debounce ≠ 0 :=
  ⟨rfl, rfl, rfl, rfl, rfl, show (openLink.set .n0).timings.debounce ≠ 0 by decide⟩

/-- A rise and a fall that find the monitor in a state that counts, with an action that goes on and with none. -/
theorem witness_powerGood_monitor (m : Monitor) (h : m ∈ [Monitor.dormant, .grace 9, .watching 9 none, .warned 9]) (sense : Bool)
    (c : Controller) (hc : c ∈ [Controller.idle, .acting (act .diag .pulse false) none false]) :
    let s := monN0 m (debouncing sense (if sense then .low else .high) c)
    s.held = false ∧ (s.nd .n0).power.debounce = some 20 ∧ (s.nd .n0).power.feedCut = false ∧ (s.nd .n0).live.monitor = m ∧
      (s.nd .n0).live.outstanding = false ∧ (m = .dormant ∨ m.active = true) ∧
      (∀ a q ab, (s.nd .n0).power.ctrl = .acting a q ab → q = none ∧ a.endsOnRise = false ∧ a.endsOnFall = false) := by
  simp only [List.mem_cons, List.not_mem_nil, or_false] at h hc
  refine ⟨rfl, rfl, rfl, rfl, rfl, by rcases h with rfl | rfl | rfl | rfl <;> simp [Monitor.active], fun a q ab he => ?_⟩
  have hp : (Controller.acting a q ab : Controller) = c := he.symm
  rcases hc with rfl | rfl <;> cases hp
  exact ⟨rfl, rfl, rfl⟩

/-- `s` with N0's monitor in state `m`, its recovery outstanding flag as `out` says. -/
def reported (m : Monitor) (out : Bool) (s : State) : State := (monN0 m s).mapLive .n0 (fun l => { l with outstanding := out })

/-- A recovery of N0 in a phase. -/
def recovery (k : ActionKind) (ph : Phase) (q : Option Queued) : Controller :=
  .acting { act k ph false with source := .liveness } q false

/-- The table of R161, in its order, at the end of a RESET pulse and at its abort, at a lock as the pulse drops power, at a
recovery that is discarded, and at the end of a pulse while the flag is clear and in DISABLED. -/
theorem test_recoveryReport : [
      after (.pulseEnd .n0) (reported .recovering true (onN0 (recovery .reset .pulse none))),
      after (.pwrAbort 9 0 []) (reported .recovering true (onN0 (recovery .cycle .awaitDown none))),
      after (.pgAccepted .n0) (reported .recovering true (debouncing false .high (recovery .reset .pulse none))),
      after (.pwrAbort 9 0 []) (reported .recovering true (onN0 (.acting (act .offSoft .awaitDown false) (some ⟨.cycle, .liveness⟩) false))),
      after (.awaitDownExpiry .n0) (reported .recovering false (onN0 (recovery .cycle .awaitDown none))),
      after (.pwrAbort 9 0 []) (reported .disabled true (onN0 (recovery .cycle .awaitDown none)))].map
        (fun s => ((s.nd .n0).live.monitor.code, (s.nd .n0).live.monitor.causeCode, (s.nd .n0).live.outstanding)) =
    [(2, 0, false), (2, 0, false), (6, 4, false), (6, 4, false), (5, 0, false), (0, 0, false)] := by decide +kernel

/-- The states of that table meet the premises of the statements on the ends of actions: the flag is set, the current action or
the queued one is a recovery, a RESET pulse ends or drops power, and a lock finds it current. -/
theorem witness_recoveryReport :
    (let s := reported .recovering true (onN0 (recovery .reset .pulse none))
     s.held = false ∧ (s.nd .n0).power.ctrl = recovery .reset .pulse none ∧ (s.nd .n0).live.outstanding = true ∧
       s.takes (nodeFrame 0x31 9 .n0 []) = true) ∧
    (let s := reported .recovering true (debouncing false .high (recovery .reset .pulse none))
     s.held = false ∧ (s.nd .n0).power.debounce = some 20 ∧ (s.nd .n0).power.ctrl = recovery .reset .pulse none ∧
       (s.nd .n0).live.outstanding = true) ∧
    (let s := reported .recovering true (debouncing true .low (recovery .cycle .dwell none))
     s.held = false ∧ (s.nd .n0).power.ctrl = recovery .cycle .dwell none ∧ (s.nd .n0).live.outstanding = true) ∧
    (let s := reported .recovering true (onN0 (.acting (act .offSoft .awaitDown false) (some ⟨.cycle, .liveness⟩) false))
     s.takes (nodeFrame 0x31 9 .n0 []) = true ∧ (s.nd .n0).live.outstanding = true) ∧
    (let s := reported .recovering true (onN0 (recovery .cycle .dwell none))
     s.held = false ∧ (s.nd .n0).power.pg = .high ∧ s.condition .n0 = .on ∧ (s.nd .n0).live.outstanding = true) := by decide +kernel

/-- The first acceptance of a high level starts the grace period of a dormant monitor (R154, R166). -/
theorem test_firstAcceptance : [(true, Monitor.dormant), (false, .dormant), (true, .disabled)].map (fun x =>
      ((after (.pgAccepted .n0) (monN0 x.2 (debouncing x.1 .settling .idle))).nd .n0).live.monitor) =
    [.grace 600020, .dormant, .disabled] := by decide +kernel

theorem witness_firstAcceptance : let s := monN0 .dormant (debouncing true .settling .idle)
    s.held = false ∧ (s.nd .n0).power.debounce = some 20 ∧ (s.nd .n0).power.pg = .settling ∧ (s.nd .n0).power.sense = true ∧
      (s.nd .n0).power.feedCut = false ∧ (s.nd .n0).live.monitor = .dormant := by decide +kernel

theorem witness_pgSense : (openLink.nd .n0).power.sense = false ∧ (openLink.nd .n0).power.sense ≠ true ∧
    (after .powerOn openLink).held = true ∧ ((after .powerOn openLink).nd .n0).power.sense ≠ true ∧
    ((onN0 .idle).nd .n0).power.sense ≠ false ∧ ((onN0 .idle).nd .n0).power.debounce = none ∧
    (let s := openLink.mapSet .n0 (fun x => { x with timings := { x.timings with debounce := 0 } })
     s.held = false ∧ (s.nd .n0).power.sense ≠ true ∧ (s.nd .n0).power.pg = .settling ∧ (s.set .n0).timings.debounce = 0) ∧
    (let s := openLink.mapPower .n0 (fun p => { p with pg := .high })
     (s.nd .n0).power.sense ≠ true ∧ (s.nd .n0).power.pg ≠ .settling ∧ (s.nd .n0).power.pg ≠ .low) := by decide +kernel

theorem witness_livSet (warning recovery : Byte) (h : (warning, recovery) ∈ [((1 : Byte), (2 : Byte)), (2, 0), (0, 3)]) :
    let p := [1] ++ leBytes 2 0 ++ leBytes 2 601 ++ leBytes 2 9 ++ leBytes 4 86401 ++ [9, warning, recovery, 0xFF]
    (onN0 .idle).takes (nodeFrame 0x38 9 .n0 p) = true ∧ p.length = 15 ∧ byteAt p 12 = warning ∧ byteAt p 13 = recovery := by
  simp only [List.mem_cons, Prod.mk.injEq, List.not_mem_nil, or_false] at h
  rcases h with ⟨rfl, rfl⟩ | ⟨rfl, rfl⟩ | ⟨rfl, rfl⟩ <;> decide +kernel

theorem witness_livClear : (monN0 (.exhausted .maxReached) (onN0 .idle)).takes (nodeFrame 0x3A 9 .n0 []) = true ∧
    ((monN0 (.exhausted .maxReached) (onN0 .idle)).nd .n0).live.monitor = .exhausted .maxReached ∧
    openLink.takes (nodeFrame 0x3A 9 .n0 []) = true ∧ (openLink.nd .n0).live.monitor = .disabled ∧
    (openLink.set .n0).live.enable = false ∧ (monN0 .dormant openLink).takes (nodeFrame 0x3A 9 .n0 []) = true := by decide +kernel

theorem witness_kicks (m : Monitor) (h : m ∈ [Monitor.grace 9, .watching 9 (some 30), .warned 9, .dormant]) :
    let s := monN0 m (onN0 .idle)
    s.takes (nodeFrame 0x39 9 .n0 []) = true ∧ (s.set .n0).live.kicks.getLsbD 3 = true ∧ (s.set .n0).live.kicks.getLsbD 0 = true ∧
      (s.nd .n0).live.monitor = m ∧ s.held = false ∧ (s.nd .n0).live.hbFilter = some 1 ∧ (s.nd .n0).live.hb = .settling := by
  simp only [List.mem_cons, List.not_mem_nil, or_false] at h
  rcases h with rfl | rfl | rfl | rfl <;> decide +kernel

theorem witness_hb : (openLink.nd .n0).live.hbPin = false ∧ (openLink.nd .n0).live.hbPin ≠ true ∧
    (let s := (monN0 (.warned 9) (onN0 .idle)).mapLive .n0 (fun l => { l with hb := .low, hbPin := true })
     s.held = false ∧ (s.nd .n0).live.hbFilter = some 1 ∧ (s.nd .n0).live.hb ≠ .settling ∧ (s.nd .n0).live.monitor = .warned 9) ∧
    ((openLink.mapLive .n0 (fun l => { l with hbFilter := none })).nd .n0).live.hbFilter = none := by decide +kernel

/-- An accepted level that differs from the last one, in GRACE and in WATCHING. -/
theorem witness_hb_kicks (m : Monitor) (h : m ∈ [Monitor.grace 9, .watching 9 (some 30), .watching 9 none]) :
    let s := (monN0 m (onN0 .idle)).mapLive .n0 (fun l => { l with hb := .low, hbPin := true })
    s.held = false ∧ (s.nd .n0).live.hbFilter = some 1 ∧ (s.nd .n0).live.hb ≠ .settling ∧
      (s.set .n0).live.kicks.getLsbD 0 = true ∧ (s.set .n0).live.kicks.getLsbD 2 = true ∧ (s.nd .n0).live.monitor = m := by
  simp only [List.mem_cons, List.not_mem_nil, or_false] at h
  rcases h with rfl | rfl | rfl <;> decide +kernel

/-- A warn period that finds the controller IDLE below the maximum, at the maximum, LOCKED, and with an action current. -/
theorem witness_warnExpiry (c : Controller) (k : Nat) :
    let s := (monN0 (.warned 9) (onN0 c)).mapLive .n0 (fun l => { l with recoveries := k })
    s.held = false ∧ (s.nd .n0).live.monitor = .warned 9 ∧ (s.nd .n0).live.recoveries = k ∧
      (s.set .n0).live.maxRecoveries = 3 ∧ (s.set .n0).live.recovery ≠ .none ∧ (s.nd .n0).power.ctrl = c :=
  ⟨rfl, rfl, rfl, rfl, by show RecoveryAction.reset ≠ .none; decide, rfl⟩

theorem witness_noRecovery :
    (((monN0 (.warned 9) (onN0 .idle)).mapSet .n0 (fun x => { x with live := { x.live with recovery := .none } })).set .n0).live.recovery =
      .none ∧
    (((monN0 (.warned 9) (onN0 .idle)).mapSet .n0 (fun x => { x with live := { x.live with warning := .noticeDiag } })).set .n0).live.warning =
      .noticeDiag := by decide +kernel

end Sys2Proof.Machine
end

section
/-! PROOFS. The console lines: what the transmitter's operations write, the rate a hunting window picks (R15), the break
and the flush (R20 to R24). -/

namespace Sys2Proof.Machine

/-! ### Changes of the line, and what its figures depend on -/

theorem State.bitPeriod_mapLine {f : Line → Line} (hf : ∀ l, (f l).autobaud = l.autobaud) (s : State) (n : NodeId) :
    (s.mapLine n f).bitPeriod n = s.bitPeriod n := by
  simp [State.bitPeriod, State.lineRate, hf]

theorem State.charCycles_mapLine {f : Line → Line} (hf : ∀ l, (f l).autobaud = l.autobaud) (s : State) (n : NodeId)
    (k : Nat) : (s.mapLine n f).charCycles n k = s.charCycles n k := by
  simp [State.charCycles, State.bitPeriod_mapLine hf]

theorem State.condition_mapLine (f : Line → Line) (s : State) (n : NodeId) :
    (s.mapLine n f).condition n = s.condition n := by
  simp [State.condition]

@[simp] theorem State.mapLine_mapLine (f g : Line → Line) (s : State) (n : NodeId) :
    (s.mapLine n f).mapLine n g = s.mapLine n (fun l => g (f l)) := by
  simp [State.mapLine]

theorem State.mapLine_congr {s : State} {n : NodeId} {f g : Line → Line} (h : f (s.nd n).line = g (s.nd n).line) :
    s.mapLine n f = s.mapLine n g := by
  simp only [State.mapLine, h]

theorem State.mapLine_eq_self {s : State} {n : NodeId} {f : Line → Line} (h : f (s.nd n).line = (s.nd n).line) :
    s.mapLine n f = s :=
  (State.mapLine_congr (g := id) h).trans (s.setNd_nd n)

/-! ### What taking an item can write (R21, R23) -/

/-- `t` is `s` but for the transmitter, the queue and the room flags of node `n`, and its history. -/
def State.OnlyTransmitter (s t : State) (n : NodeId) : Prop :=
  ∃ tx queue wanted pending hist, t = s.setNd n { s.nd n with
    line := { (s.nd n).line with tx := tx, queue := queue, roomWanted := wanted, roomPending := pending }
    hist := hist }

theorem State.OnlyTransmitter.refl (s : State) (n : NodeId) : s.OnlyTransmitter s n :=
  ⟨_, _, _, _, _, (s.setNd_nd n).symm⟩

theorem State.OnlyTransmitter.onlyNode {s t : State} {n : NodeId} (h : s.OnlyTransmitter t n) : s.OnlyNode t n := by
  obtain ⟨tx, queue, wanted, pending, hist, rfl⟩ := h
  simp [State.OnlyNode]

theorem State.OnlyTransmitter.autobaud {s t : State} {n : NodeId} (h : s.OnlyTransmitter t n) :
    (t.nd n).line.autobaud = (s.nd n).line.autobaud := by
  obtain ⟨tx, queue, wanted, pending, hist, rfl⟩ := h
  simp

theorem State.OnlyTransmitter.trans {s t u : State} {n : NodeId} (h : s.OnlyTransmitter t n)
    (h' : t.OnlyTransmitter u n) : s.OnlyTransmitter u n := by
  obtain ⟨tx, queue, wanted, pending, hist, rfl⟩ := h
  obtain ⟨tx', queue', wanted', pending', hist', rfl⟩ := h'
  exact ⟨tx', queue', wanted', pending', hist', by simp⟩

theorem State.beginGap_onlyTransmitter (s : State) (n : NodeId) : s.OnlyTransmitter (s.beginGap n) n :=
  ⟨_, _, _, _, _, rfl⟩

theorem State.roomCheck_onlyTransmitter (s : State) (n : NodeId) : s.OnlyTransmitter (s.roomCheck n) n := by
  simp only [State.roomCheck, State.mapLine, Line.roomCheck_eq]
  exact ⟨_, _, _, _, _, rfl⟩

theorem State.startWaitingGap_onlyTransmitter (s : State) (n : NodeId) : s.OnlyTransmitter (s.startWaitingGap n) n := by
  unfold State.startWaitingGap
  split
  · exact s.beginGap_onlyTransmitter n
  · exact .refl s n

theorem State.takeItem_onlyTransmitter (s : State) (n : NodeId) : s.OnlyTransmitter (s.takeItem n) n := by
  unfold State.takeItem
  split
  · split
    · exact .trans ⟨_, _, _, _, _, rfl⟩ (State.roomCheck_onlyTransmitter _ n)
    · exact .trans ⟨_, _, _, _, _, by simp [State.record_eq, State.mapLine]; rfl⟩ (State.roomCheck_onlyTransmitter _ n)
    · exact .refl s n
  · exact .refl s n

/-- The node is framed but for its line and history, and the line but for its transmitter, queue and room flags. -/
theorem State.OnlyTransmitter.frame {s t : State} {n : NodeId} (h : s.OnlyTransmitter t n) :
    t.nd n = { s.nd n with line := (t.nd n).line, hist := (t.nd n).hist } ∧
      (t.nd n).line = { (s.nd n).line with
        tx := (t.nd n).line.tx
        queue := (t.nd n).line.queue
        roomWanted := (t.nd n).line.roomWanted
        roomPending := (t.nd n).line.roomPending } := by
  obtain ⟨tx, queue, wanted, pending, hist, rfl⟩ := h
  simp

/-! ### The rate a window picks (R15) -/

/-- `r` is preferred to `q`: it lies nearer, or as near and no higher (R15). -/
def Preferred (fref tmin r q : Nat) : Prop :=
  rateDistance fref tmin r < rateDistance fref tmin q ∨ (rateDistance fref tmin r = rateDistance fref tmin q ∧ r ≤ q)

/-- `r` is the one of `rates` that R15 picks. -/
def IsNearest (fref tmin : Nat) (rates : List Nat) (r : Nat) : Prop :=
  r ∈ rates ∧ ∀ q ∈ rates, Preferred fref tmin r q

section
variable {fref tmin : Nat}

theorem Preferred.refl (r : Nat) : Preferred fref tmin r r := .inr ⟨rfl, le_rfl⟩

theorem Preferred.trans {a b c : Nat} (hab : Preferred fref tmin a b) (hbc : Preferred fref tmin b c) :
    Preferred fref tmin a c := by
  unfold Preferred at *; omega

theorem Preferred.antisymm {a b : Nat} (hab : Preferred fref tmin a b) (hba : Preferred fref tmin b a) : a = b := by
  unfold Preferred at *; omega

theorem IsNearest.unique {rates : List Nat} {a b : Nat} (ha : IsNearest fref tmin rates a)
    (hb : IsNearest fref tmin rates b) : a = b :=
  (ha.2 b hb.1).antisymm (hb.2 a ha.1)

/-- Of a candidate and a higher one the fold keeps the one that is preferred to both. -/
theorem nearerRate_preferred {b c : Nat} (h : b < c) : ∃ k, nearerRate fref tmin (some b) c = some k ∧
    (k = b ∨ k = c) ∧ Preferred fref tmin k b ∧ Preferred fref tmin k c := by
  by_cases hd : rateDistance fref tmin c < rateDistance fref tmin b
  · exact ⟨c, if_pos hd, .inr rfl, .inl hd, .refl c⟩
  · exact ⟨b, if_neg hd, .inl rfl, .refl b, by unfold Preferred; omega⟩

/-- Over ascending candidates the fold ends at the nearest, the lowest on a tie. -/
theorem foldl_nearerRate (rates : List Nat) (b : Nat) (h : (b :: rates).Pairwise (· < ·)) :
    ∃ r, rates.foldl (nearerRate fref tmin) (some b) = some r ∧ IsNearest fref tmin (b :: rates) r := by
  induction rates generalizing b with
  | nil => exact ⟨b, rfl, by simp [IsNearest, Preferred.refl]⟩
  | cons c rates ih =>
    obtain ⟨hb, hc⟩ := List.pairwise_cons.mp h
    obtain ⟨k, hk, hkbc, hkb, hkc⟩ := nearerRate_preferred (fref := fref) (tmin := tmin) (hb c List.mem_cons_self)
    have hasc : (k :: rates).Pairwise (· < ·) := by
      rcases hkbc with rfl | rfl
      · exact h.sublist (by simp)
      · exact hc
    obtain ⟨r, hr, hmem, hpref⟩ := ih k hasc
    have hrk : Preferred fref tmin r k := hpref k List.mem_cons_self
    refine ⟨r, by rw [List.foldl_cons, hk, hr], ?_, ?_⟩
    · rcases List.mem_cons.mp hmem with rfl | hmem
      · rcases hkbc with rfl | rfl <;> simp
      · simp [hmem]
    · intro q hq
      rcases List.mem_cons.mp hq with rfl | hq
      · exact hrk.trans hkb
      rcases List.mem_cons.mp hq with rfl | hq
      · exact hrk.trans hkc
      · exact hpref q (List.mem_cons_of_mem _ hq)

theorem candidateRates_ascending : candidateRates.Pairwise (· < ·) := by decide

/-- The candidates that a reference clock reaches (R15). -/
def reachableRates (fref : Nat) : List Nat := candidateRates.filter (fun r => 16 * r ≤ fref * 1000)

theorem mem_reachableRates (r : Nat) : r ∈ reachableRates fref ↔ r ∈ candidateRates ∧ 16 * r ≤ fref * 1000 := by
  simp [reachableRates]

theorem pickRate_eq_some_iff (r : Nat) : pickRate fref tmin = some r ↔ IsNearest fref tmin (reachableRates fref) r := by
  have hasc : (reachableRates fref).Pairwise (· < ·) := candidateRates_ascending.filter _
  have hpick : pickRate fref tmin = (reachableRates fref).foldl (nearerRate fref tmin) none := rfl
  cases hrates : reachableRates fref with
  | nil => simp [hpick, hrates, IsNearest]
  | cons b rates =>
    obtain ⟨k, hk, hnear⟩ := foldl_nearerRate (fref := fref) (tmin := tmin) rates b (hrates ▸ hasc)
    have hsome : pickRate fref tmin = some k := by rw [hpick, hrates]; exact hk
    rw [hsome, Option.some_inj]
    exact ⟨fun e => e ▸ hnear, hnear.unique⟩

theorem judgeWindow_eq_some_iff (r : Nat) : judgeWindow fref tmin = some r ↔
    IsNearest fref tmin (reachableRates fref) r ∧ rateDistance fref tmin r * 25 ≤ r * tmin := by
  rw [← pickRate_eq_some_iff]
  cases hp : pickRate fref tmin with
  | none => simp [judgeWindow, hp]
  | some k =>
    simp only [judgeWindow, hp, Option.some_inj]
    split
    · next hclose => rw [Option.some_inj]; exact ⟨fun e => ⟨e, e ▸ hclose⟩, And.left⟩
    · next hfar => exact ⟨nofun, fun ⟨e, hclose⟩ => absurd (e ▸ hclose) hfar⟩

/-- The distance of R15 in whole numbers. -/
theorem rateDistance_cast (r : Nat) : (rateDistance fref tmin r : Int) = |(fref : Int) * 1000 - r * tmin| := by
  have hcast : (fref : Int) * 1000 - r * tmin = (fref * 1000 : Nat) - (r * tmin : Nat) := by push_cast; rfl
  rw [hcast, rateDistance, Int.abs_eq_natAbs]
  generalize fref * 1000 = a
  generalize r * tmin = b
  omega

end

/-! ### A window completes (R14 to R16) -/

/-- A lock leaves the line LOCKED with the loss-of-lock check at zero (R16, R17). -/
theorem State.lockLine_autobaud (s : State) (n : NodeId) (r : Nat) :
    ((s.lockLine n r).nd n).line.autobaud = .locked r (some { bytes := 0, framing := 0 }) := by
  unfold State.lockLine
  rw [(State.takeItem_onlyTransmitter _ n).autobaud, (State.startWaitingGap_onlyTransmitter _ n).autobaud,
    State.record_eq]
  simp

theorem State.completeWindow_none {s : State} {n : NodeId} {w : Window} {run : Nat}
    (h : judgeWindow s.cfg.fref (min w.shortest run) = none) : s.completeWindow n w run =
      s.setNd n { s.nd n with line := { (s.nd n).line with autobaud := .hunting none } } := by
  simp only [State.completeWindow, h, State.mapLine]

theorem State.completeWindow_some {s : State} {n : NodeId} {w : Window} {run r : Nat}
    (h : judgeWindow s.cfg.fref (min w.shortest run) = some r) : s.completeWindow n w run = s.lockLine n r := by
  simp only [State.completeWindow, h]

/-- Settles O32: the fold of the judgement ends at the rate that is preferred to every other. -/
theorem autobaudPicksTheNearestRate : Obligations.AutobaudPicksTheNearestRate := by
  intro fref tmin far near
  have hnear : ∀ r, near r ↔ IsNearest fref tmin (reachableRates fref) r := by
    intro r
    simp only [near, far, IsNearest, Preferred, mem_reachableRates, ← rateDistance_cast, Nat.cast_lt, Nat.cast_inj,
      and_assoc, and_imp]
  refine ⟨fun r => ?_, rfl, ?_⟩
  · rw [judgeWindow_eq_some_iff, hnear]
    simp only [far, ← rateDistance_cast]
    norm_cast
  · rintro s n w run rfl rfl
    exact ⟨State.completeWindow_none, fun r h => ⟨State.completeWindow_some h, s.lockLine_autobaud n r⟩⟩

/-! ### The line's operations do not read the link -/

theorem State.takeItem_takeFrame (s : State) (n : NodeId) : s.takeFrame.takeItem n = (s.takeItem n).takeFrame := by
  have hbit : s.takeFrame.bitPeriod n = s.bitPeriod n := rfl
  have hcond : s.takeFrame.condition n = s.condition n := rfl
  simp only [State.takeItem, State.takeFrame_nd, hbit, hcond]
  split
  · split <;> rfl
  · rfl

/-- A request that changes node `n` alone and is answered changes that node and the link, and makes its one reply
(R173, R175). -/
theorem State.OnlyNode.replied {s u : State} {n : NodeId} (h : s.OnlyNode u n) (f : Frame) (a : Answer) :
    s.OnlyNodeAndLink (u.takeFrame.reply f a) n ∧ s.Replied (u.takeFrame.reply f a) f a := by
  have hlink : u.link = s.link := by rw [h]; rfl
  refine ⟨?_, by simp [State.Replied, State.reply_takeFrame, hlink]⟩
  unfold State.OnlyNodeAndLink
  rw [State.reply_nd, State.takeFrame_nd, State.reply_takeFrame, ← (h : u = s.setNd n (u.nd n))]

/-! ### Taking the head (R21) -/

theorem State.roomCheck_queue_tx (s : State) (n : NodeId) :
    ((s.roomCheck n).nd n).line.queue = (s.nd n).line.queue ∧ ((s.roomCheck n).nd n).line.tx = (s.nd n).line.tx := by
  simp [State.roomCheck, Line.roomCheck_eq]

/-- An idle transmitter with a bit period, outside CUT, takes the head of a queue that holds an item (R21). -/
theorem State.takeItem_takes {s : State} {n : NodeId} (ht : (s.nd n).line.tx = .idle) (hc : s.condition n ≠ .cut)
    (hd : s.bitPeriod n ≠ none) (hq : (s.nd n).line.queue ≠ []) :
    ((s.takeItem n).nd n).line.queue = (s.nd n).line.queue.tail ∧ ((s.takeItem n).nd n).line.tx ≠ .idle := by
  obtain ⟨d, hd⟩ := Option.ne_none_iff_exists'.mp hd
  obtain ⟨item, q, hq⟩ := List.exists_cons_of_ne_nil hq
  cases item with
  | byte b =>
    rw [State.takeItem_byte ht hc hd hq, hq, (State.roomCheck_queue_tx _ n).1, (State.roomCheck_queue_tx _ n).2]
    simp
  | brk ms =>
    rw [State.takeItem_break ht hc hd hq, hq, (State.roomCheck_queue_tx _ n).1, (State.roomCheck_queue_tx _ n).2]
    simp [State.record]

/-! ### Judging the room (R23) -/

/-- A line after an append: `refused` items or an occupancy within `high` of the queue's end set the flag, which is
judged as it is set (R23). -/
def Line.wantRoom (high low : Nat) (refused : Bool) (l : Line) : Line :=
  if refused ∨ Config.txItems ≤ l.queue.length + high then { l with roomWanted := true }.roomCheck low else l

theorem State.wantRoom_eq (s : State) (n : NodeId) (refused : Bool) : s.wantRoom n refused =
    s.mapLine n (Line.wantRoom (s.set n).line.roomHigh (s.set n).line.roomLow refused) := by
  unfold State.wantRoom
  split
  · next h => rw [State.roomCheck, State.mapLine_mapLine]; exact State.mapLine_congr (if_pos h).symm
  · next h => exact (State.mapLine_eq_self (if_neg h)).symm

/-- The judgement writes the two room flags alone: a flag that is set at an occupancy at or below `low` becomes pending
at once. -/
theorem Line.wantRoom_fields (high low : Nat) (refused : Bool) (l : Line) : l.wantRoom high low refused =
    let sets := refused ∨ 256 ≤ l.queue.length + high
    { l with
      roomWanted := if sets then !decide (l.queue.length ≤ low) else l.roomWanted
      roomPending := l.roomPending || decide (sets ∧ l.queue.length ≤ low) } := by
  unfold Line.wantRoom Config.txItems
  split
  · next h => simp [Line.roomCheck_eq, h]
  · next h => simp [h]

/-! ### CON_BREAK (R20) -/

/-- The state in which a break of `ms` has joined the queue and the room has been judged; the transmitter has not taken
anything yet. -/
def State.breakQueued (s : State) (n : NodeId) (ms : Nat) : State :=
  s.mapLine n (fun l => Line.wantRoom (s.set n).line.roomHigh (s.set n).line.roomLow false
    { l with queue := l.queue ++ [.brk ms] })

theorem State.wantRoom_appendItems_brk (s : State) (n : NodeId) (ms : Nat) :
    (s.appendItems n [.brk ms]).wantRoom n false = s.breakQueued n ms := by
  simp [State.wantRoom_eq, State.appendItems, State.breakQueued]

theorem State.breakQueued_eq (s : State) (n : NodeId) (ms : Nat) :
    let l := (s.nd n).line
    let sets := 256 ≤ l.queue.length + 1 + (s.set n).line.roomHigh
    let low := l.queue.length + 1 ≤ (s.set n).line.roomLow
    s.breakQueued n ms = s.setNd n { s.nd n with line := { l with
      queue := l.queue ++ [.brk ms]
      roomWanted := if sets then !decide low else l.roomWanted
      roomPending := l.roomPending || decide (sets ∧ low) } } := by
  simp [State.breakQueued, State.mapLine, Line.wantRoom_fields]

theorem State.breakQueued_onlyTransmitter (s : State) (n : NodeId) (ms : Nat) :
    s.OnlyTransmitter (s.breakQueued n ms) n := by
  rw [State.breakQueued_eq]
  exact ⟨_, _, _, _, _, rfl⟩

/-- A queued break changes nothing that taking an item asks for but the queue. -/
theorem State.breakQueued_asks (s : State) (n : NodeId) (ms : Nat) :
    ((s.breakQueued n ms).nd n).line.queue = (s.nd n).line.queue ++ [.brk ms] ∧
      ((s.breakQueued n ms).nd n).line.tx = (s.nd n).line.tx ∧ ((s.breakQueued n ms).nd n).hist = (s.nd n).hist ∧
      (s.breakQueued n ms).condition n = s.condition n ∧ (s.breakQueued n ms).bitPeriod n = s.bitPeriod n := by
  refine ⟨?_, ?_, ?_, State.condition_mapLine _ s n, State.bitPeriod_mapLine (fun l => ?_) s n⟩ <;>
    simp [State.breakQueued, Line.wantRoom_fields]

/-- A refused break wants room and leaves the queue, the transmitter and the history (R20, R23). -/
theorem State.wantRoom_refused (s : State) (n : NodeId) :
    let l := (s.nd n).line
    let u := s.wantRoom n true
    s.OnlyTransmitter u n ∧ (u.nd n).line.queue = l.queue ∧ (u.nd n).line.tx = l.tx ∧ (u.nd n).hist = (s.nd n).hist ∧
      (l.queue.length > (s.set n).line.roomLow →
        (u.nd n).line.roomWanted = true ∧ (u.nd n).line.roomPending = l.roomPending) := by
  simp only [State.wantRoom_eq, State.line_mapLine_same, State.hist_mapLine, Line.wantRoom_fields]
  refine ⟨?_, trivial, trivial, trivial, fun h => by simp [h]⟩
  simp only [State.mapLine, Line.wantRoom_fields]
  exact ⟨_, _, _, _, _, rfl⟩

/-- A transmitter that cannot take leaves the break at the tail, and an idle one takes the head (R20, R21). -/
theorem State.takeItem_breakQueued (s : State) (n : NodeId) (ms : Nat) :
    let l := (s.nd n).line
    let u := (s.breakQueued n ms).takeItem n
    ((l.tx ≠ .idle ∨ s.condition n = .cut ∨ s.bitPeriod n = none) →
      (u.nd n).line.queue = l.queue ++ [.brk ms] ∧ (u.nd n).line.tx = l.tx ∧ (u.nd n).hist = (s.nd n).hist) ∧
    (l.tx = .idle → s.condition n ≠ .cut → s.bitPeriod n ≠ none →
      (u.nd n).line.queue = (l.queue ++ [TxItem.brk ms]).tail ∧ (u.nd n).line.tx ≠ .idle) := by
  obtain ⟨hqueue, htx, hhist, hcond, hbit⟩ := s.breakQueued_asks n ms
  constructor
  · intro hstays
    have hnone : (s.breakQueued n ms).takeItem n = s.breakQueued n ms := by
      apply State.takeItem_none
      rw [htx, hcond, hbit]
      tauto
    simp only [hnone, hqueue, htx, hhist, and_self]
  · intro hidle hcut hperiod
    rw [← hqueue]
    exact State.takeItem_takes (htx.trans hidle) (hcond ▸ hcut) (hbit ▸ hperiod) (by simp [hqueue])

section
variable {s : State} {n : NodeId} {tag : Byte} {p : List Byte}

/-- A full queue refuses the break and wants room (R20, R23). -/
theorem exec_conBreak_full (h : s.takes (nodeFrame 0x12 tag n p) = true) (hp : p.length = 2)
    (hq : 256 ≤ (s.nd n).line.queue.length) : exec (.conBreak tag n.toByte p) s =
      .next ((s.wantRoom n true).takeFrame.reply (nodeFrame 0x12 tag n p)
        { result := .noRoom, fields := leBytes 2 0 }) := by
  have hroom : s.takeFrame.txRoom n = 0 := by simp [State.txRoom, Config.txItems]; omega
  have hwant : s.takeFrame.wantRoom n true = (s.wantRoom n true).takeFrame := by simp only [State.wantRoom_eq]; rfl
  show Host.Outcome.next (nodeRequest 0x12 tag n.toByte p (p.length == 2) _ s) = _
  rw [nodeRequest_ok h (by simp [hp]), State.queueBreak, if_pos hroom, Carried.settle_answers, hwant]
  rfl

/-- A queue with a free item is given the break, and an idle transmitter takes its head (R20, R21, R23). -/
theorem exec_conBreak_room (h : s.takes (nodeFrame 0x12 tag n p) = true) (hp : p.length = 2)
    (hq : (s.nd n).line.queue.length < 256) :
    let ms := min 5000 (max 1 (leNat p))
    exec (.conBreak tag n.toByte p) s =
      .next (((s.breakQueued n ms).takeItem n).takeFrame.reply (nodeFrame 0x12 tag n p)
        { result := if ms = leNat p then .ok else .adjusted, fields := leBytes 2 ms }) := by
  have hroom : s.takeFrame.txRoom n ≠ 0 := by simp [State.txRoom, Config.txItems]; omega
  have hfield : fieldAt p 0 2 = leNat p := by rw [fieldAt, List.drop_zero, List.take_of_length_le hp.le]
  have hms : clamp 1 5000 (leNat p) = min 5000 (max 1 (leNat p)) := clamp_eq (by decide) _
  have hqueued (ms : Nat) : s.takeFrame.breakQueued n ms = (s.breakQueued n ms).takeFrame := rfl
  have hresult (ms v : Nat) : Result.adjustedIf (ms != v) = if ms = v then .ok else .adjusted := by
    by_cases h : ms = v <;> simp [Result.adjustedIf, h]
  show Host.Outcome.next (nodeRequest 0x12 tag n.toByte p (p.length == 2) _ s) = _
  rw [nodeRequest_ok h (by simp [hp]), State.queueBreak, if_neg hroom, hfield, hms, State.wantRoom_appendItems_brk,
    hqueued, State.takeItem_takeFrame, Carried.settle_answers, hresult]
  rfl

end

/-! ### CON_TX_FLUSH (R22) -/

/-- What a flush makes of the transmitter: a break being held ends, and the idle character time that ends at `gap`
follows; a suspended break has ended; anything else goes on (R22, R24). -/
def Transmitter.flushed (gap : Option Nat) : Transmitter → Transmitter
  | .brk _ => .gap gap
  | .floating _ => .floating none
  | x => x

theorem State.endBreak_eq (s : State) (n : NodeId) : s.endBreak n = s.mapLine n (fun l =>
    { l with tx := l.tx.flushed ((s.charCycles n 1).map (s.clock.cycles + ·)) }) := by
  unfold State.endBreak
  split
  · next htx => exact State.mapLine_congr (by simp [htx, Transmitter.flushed])
  · next htx => exact State.mapLine_congr (by simp [htx, Transmitter.flushed])
  · next hbrk hfloating =>
    have hgoes : (s.nd n).line.tx.flushed ((s.charCycles n 1).map (s.clock.cycles + ·)) = (s.nd n).line.tx := by
      cases htx : (s.nd n).line.tx with
      | brk e => exact absurd htx (hbrk e)
      | floating r => exact absurd htx (hfloating r)
      | _ => rfl
    exact (State.mapLine_eq_self (by rw [hgoes])).symm

/-- The state a flush leaves (R22). -/
def State.flushed (s : State) (n : NodeId) : State :=
  ((s.mapLine n (fun l => { l with queue := [] })).endBreak n).roomCheck n

/-- An empty queue is never above the room limit, so a wanted room becomes pending (R22, R23). -/
theorem State.flushed_eq (s : State) (n : NodeId) :
    s.flushed n = s.mapLine n (fun l => { l with
      queue := []
      roomWanted := false
      roomPending := l.roomPending || l.roomWanted
      tx := l.tx.flushed ((s.charCycles n 1).map (s.clock.cycles + ·)) }) := by
  have hperiod : (s.mapLine n (fun l => { l with queue := [] })).charCycles n 1 = s.charCycles n 1 := by
    refine State.charCycles_mapLine (fun l => ?_) s n 1; rfl
  simp [State.flushed, State.endBreak_eq, hperiod, State.roomCheck, Line.roomCheck_eq]

theorem exec_conTxFlush {s : State} {n : NodeId} {tag : Byte} (h : s.takes (nodeFrame 0x18 tag n []) = true) :
    exec (.conTxFlush tag n.toByte []) s = .next ((s.flushed n).takeFrame.reply (nodeFrame 0x18 tag n [])
      { result := .ok, fields := leBytes 2 (s.nd n).line.queue.length }) := by
  have hflush : s.takeFrame.flushed n = (s.flushed n).takeFrame := by simp only [State.flushed_eq]; rfl
  show Host.Outcome.next (nodeRequest 0x18 tag n.toByte [] _ _ s) = _
  rw [nodeRequest_ok h (by rfl), State.flushConsole, ← State.flushed, Carried.settle_answers, hflush]
  rfl

/-- Settles O28: the break by the room of the queue, the flush by what the transmitter was doing. -/
theorem conBreakAndFlushChangeTheQueue : Obligations.ConBreakAndFlushChangeTheQueue := by
  refine ⟨fun s tag n p h hp => ?_, fun s tag n h => ?_⟩
  · rcases Nat.lt_or_ge (s.nd n).line.queue.length 256 with hq | hq
    · let ms := min 5000 (max 1 (leNat p))
      have honly : s.OnlyTransmitter ((s.breakQueued n ms).takeItem n) n :=
        (s.breakQueued_onlyTransmitter n ms).trans (State.takeItem_onlyTransmitter _ n)
      obtain ⟨hframe, hreplied⟩ := honly.onlyNode.replied (nodeFrame 0x12 tag n p)
        { result := if ms = leNat p then .ok else .adjusted, fields := leBytes 2 ms }
      obtain ⟨hnode, hline⟩ := honly.frame
      obtain ⟨hstays, htakes⟩ := s.takeItem_breakQueued n ms
      have htaken := congrArg (fun u => (u.takeItem n).nd n) (s.breakQueued_eq n ms)
      refine ⟨_, exec_conBreak_room h hp hq, hframe, ?_⟩
      simp only [State.reply_nd, State.takeFrame_nd]
      exact ⟨hnode, fun hfull => by omega, fun _ => ⟨hreplied, hstays, htaken, htakes⟩, hline⟩
    · obtain ⟨honly, hqueue, htx, hhist, hroom⟩ := s.wantRoom_refused n
      obtain ⟨hframe, hreplied⟩ := honly.onlyNode.replied (nodeFrame 0x12 tag n p)
        { result := .noRoom, fields := leBytes 2 0 }
      obtain ⟨hnode, hline⟩ := honly.frame
      refine ⟨_, exec_conBreak_full h hp hq, hframe, ?_⟩
      simp only [State.reply_nd, State.takeFrame_nd]
      exact ⟨hnode, fun _ => ⟨hreplied, hqueue, htx, hhist, hroom⟩, fun hlt => by omega, hline⟩
  · have honly : s.OnlyNode (s.flushed n) n := by simp [State.flushed_eq, State.OnlyNode, State.mapLine]
    obtain ⟨hframe, hreplied⟩ := honly.replied (nodeFrame 0x18 tag n [])
      { result := .ok, fields := leBytes 2 (s.nd n).line.queue.length }
    refine ⟨_, exec_conTxFlush h, hframe, hreplied, ?_⟩
    rw [State.reply_nd, State.takeFrame_nd, State.flushed_eq, State.mapLine, State.nd_setNd_same]
    cases (s.nd n).line.tx <;> rfl

end Sys2Proof.Machine
end

section
/-! PROOFS. The mark of the history: setting it, clearing it, and the MARK action of a watch pattern (R30). -/

namespace Sys2Proof.Machine

/-! ### Where the mark is set -/

theorem Result.adjustedIf_bne (a b : Nat) : Result.adjustedIf (a != b) = if a = b then .ok else .adjusted := by
  by_cases h : a = b <;> simp [Result.adjustedIf, h]

/-- A payload that is one field spells the number of the field. -/
theorem fieldAt_zero_length (p : List Byte) : fieldAt p 0 p.length = leNat p := by
  rw [fieldAt, List.drop_zero, List.take_length]

/-- In a lawful history oldest_offset is at most next_offset (R26), so the clamp into them is the one of R30. -/
theorem History.Lawful.clampOffset_eq {h : History} (hl : h.Lawful) (o : Nat) :
    h.clampOffset o = min h.next (max h.oldest o) := by
  obtain ⟨-, hdeliver, hnext, -⟩ := hl
  exact clamp_eq (hdeliver.trans hnext) o

/-- Recording an event moves neither bound, so an offset is clamped as before it. -/
@[simp] theorem History.clampOffset_record (h : History) (mask boot detail : Half) (k : EventKind) (o : Nat) :
    (h.record mask boot k detail).clampOffset o = h.clampOffset o := by
  simp [History.clampOffset]

/-- The fields of the reply after the mark has been set: the clamped mark and the bounds, which stay. -/
theorem History.markFields_setMark (h : History) (mask boot : Half) (o : Nat) :
    (h.setMark mask boot o).markFields = leBytes 6 (h.clampOffset o) ++ leBytes 6 h.oldest ++ leBytes 6 h.next := by
  simp [History.markFields, History.setMark, offsetField]

/-- The history without its mark. -/
def History.clearMark (h : History) : History := { h with mark := none }

theorem State.mapHist_onlyNode (s : State) (n : NodeId) (f : History → History) : s.OnlyNode (s.mapHist n f) n := by
  simp [State.OnlyNode, State.mapHist]

theorem State.setMark_onlyNode (s : State) (n : NodeId) (o : Nat) : s.OnlyNode (s.setMark n o) n :=
  s.mapHist_onlyNode n _

/-! ### CON_MARK -/

section
variable {s : State} {n : NodeId} {tag : Byte} {p : List Byte}

/-- The dispatcher takes a CON_MARK whose payload is one offset, and it is carried out. -/
theorem exec_conMark (h : s.takes (nodeFrame 0x14 tag n p) = true) (hp : p.length = 6) :
    exec (.conMark tag n.toByte p) s = .next ((s.takeFrame.markConsole n p).settle (nodeFrame 0x14 tag n p)) := by
  show Host.Outcome.next (nodeRequest 0x14 tag n.toByte p (p.length == 6) _ s) = _
  rw [nodeRequest_ok h (by simp [hp])]
  rfl

/-- The offset FFFFFFFFFFFFh clears the mark. -/
theorem exec_conMark_clear (h : s.takes (nodeFrame 0x14 tag n p) = true) (hp : p.length = 6)
    (ho : leNat p = 0xFFFFFFFFFFFF) : exec (.conMark tag n.toByte p) s =
      .next ((s.mapHist n History.clearMark).takeFrame.reply (nodeFrame 0x14 tag n p)
        { result := .ok
          fields := leBytes 6 0xFFFFFFFFFFFF ++ leBytes 6 (s.nd n).hist.oldest ++ leBytes 6 (s.nd n).hist.next }) := by
  have hfield : fieldAt p 0 6 = absentOffset := (hp ▸ fieldAt_zero_length p).trans ho
  rw [exec_conMark h hp, State.markConsole, if_pos hfield, Carried.settle_answers, State.hist_mapHist_same]
  rfl

/-- Any other offset sets the mark where the clamp puts it. -/
theorem exec_conMark_set (h : s.takes (nodeFrame 0x14 tag n p) = true) (hp : p.length = 6)
    (ho : leNat p ≠ 0xFFFFFFFFFFFF) : exec (.conMark tag n.toByte p) s =
      .next ((s.setMark n (leNat p)).takeFrame.reply (nodeFrame 0x14 tag n p)
        { result := if (s.nd n).hist.clampOffset (leNat p) = leNat p then .ok else .adjusted
          fields := leBytes 6 ((s.nd n).hist.clampOffset (leNat p)) ++ leBytes 6 (s.nd n).hist.oldest ++
            leBytes 6 (s.nd n).hist.next }) := by
  have hfield : fieldAt p 0 6 = leNat p := hp ▸ fieldAt_zero_length p
  have habsent : fieldAt p 0 6 ≠ absentOffset := hfield ▸ ho
  rw [exec_conMark h hp, State.markConsole, if_neg habsent, hfield, Carried.settle_answers, State.setMark,
    State.hist_mapHist_same, Result.adjustedIf_bne, History.markFields_setMark]
  rfl

end

/-! ### The MARK action -/

/-- A hit that runs MARK records WATCH_HIT and then sets the mark at the pattern's length before next_offset; the
hit-since-boot flag that the once-per-boot option sets is no part of the history (R54, R55). -/
theorem State.takeHit_mark {s : State} {n : NodeId} {i : Nat} {p : Pattern} (hp : s.pattern n i = some p)
    (hmark : p.action = .mark) (hruns : ¬(p.once = true ∧ (s.place n i).hit = true)) :
    let h := (s.nd n).hist
    let mask := (s.set n).delivery.mask
    let boot := (s.nd n).power.boot
    ((s.takeHit n i).nd n).hist =
      (h.record mask boot .watchHit (BitVec.ofNat 16 i)).setMark mask boot (h.next - p.bytes.length) := by
  simp only [State.takeHit, hp, if_neg hruns, hmark, State.watchAction]
  split <;> simp [State.setMark, State.mapPlace, State.record]

/-- Settles O38: the clamp of a lawful history is that of R30, for the watch action and for CON_MARK, where the offset
FFFFFFFFFFFFh is told from the others. -/
theorem conMarkSetsTheMark : Obligations.ConMarkSetsTheMark := by
  refine ⟨fun s n i p hlaw hpat _ hmark hruns => ?_, fun s tag n p hlaw htakes hlen => ?_⟩
  · obtain ⟨hl, -⟩ := hlaw.1 n
    simp only [State.takeHit_mark hpat hmark hruns, History.setMark, History.clampOffset_record, hl.clampOffset_eq]
  · obtain ⟨hl, -⟩ := hlaw.1 n
    by_cases ho : leNat p = 0xFFFFFFFFFFFF
    · obtain ⟨hframe, hreplied⟩ := (s.mapHist_onlyNode n History.clearMark).replied (nodeFrame 0x14 tag n p) _
      refine ⟨_, exec_conMark_clear htakes hlen ho, hframe, fun _ => ⟨?_, hreplied⟩, fun hne => absurd ho hne⟩
      rw [State.reply_nd, State.takeFrame_nd, State.mapHist, State.nd_setNd_same, History.clearMark]
    · obtain ⟨hframe, hreplied⟩ := (s.setMark_onlyNode n (leNat p)).replied (nodeFrame 0x14 tag n p) _
      have hexec := exec_conMark_set htakes hlen ho
      rw [hl.clampOffset_eq] at hexec
      refine ⟨_, hexec, hframe, fun heq => absurd heq ho, fun _ => ⟨?_, hreplied⟩⟩
      rw [State.reply_nd, State.takeFrame_nd, State.setMark_eq, State.nd_setNd_same, History.setMark, hl.clampOffset_eq]

end Sys2Proof.Machine
end

section
/-! PROOFS. MED_FILL: the entry that a tag names, the READ block that waits on it, and what completing it writes
(R93, R102, R103, R105, R106). -/

namespace Sys2Proof.Machine

/-! ### The entry that a tag names (R99, R105) -/

section
variable {s : State} {n : NodeId} {e : Entry}

/-- An entry is the only one in its page (R99). -/
theorem State.entry_eq_of_page (hpages : s.entryPages.Nodup) {f : Entry} (he : e ∈ s.entries) (hf : f ∈ s.entries)
    (hpage : e.page = f.page) : e = f :=
  List.inj_on_of_nodup_map hpages he hf hpage

theorem State.tagged_eq_some_iff (hpages : s.entryPages.Nodup) (p : Nat) :
    s.tagged p = some e ↔ e ∈ s.entries ∧ e.page = p := by
  constructor
  · intro h
    exact ⟨List.mem_of_find?_eq_some h, by simpa using List.find?_some h⟩
  · rintro ⟨he, rfl⟩
    obtain ⟨f, hf⟩ : ∃ f, s.tagged e.page = some f :=
      Option.isSome_iff_exists.mp (List.find?_isSome.mpr ⟨e, he, by simp⟩)
    have hpage : f.page = e.page := by simpa using List.find?_some hf
    rw [hf, State.entry_eq_of_page hpages (List.mem_of_find?_eq_some hf) he hpage]

/-- The test of R105 in its four parts. -/
theorem State.fillable_eq_some_iff (hpages : s.entryPages.Nodup) (tag lba : Nat) :
    s.fillable n tag lba = some e ↔
      e ∈ s.entries ∧ e.page = tag ∧ e.node = n ∧ e.lba = lba ∧ e.state.isFilling = true := by
  rw [← and_assoc, ← State.tagged_eq_some_iff hpages, State.fillable]
  cases s.tagged tag with
  | none => simp
  | some f =>
    rw [Option.ite_none_right_eq_some, Option.some_inj]
    exact ⟨fun ⟨htest, heq⟩ => ⟨heq, heq ▸ htest⟩, fun ⟨heq, htest⟩ => ⟨heq ▸ htest, heq⟩⟩

theorem State.fillable_eq_none_iff (hpages : s.entryPages.Nodup) (tag lba : Nat) : s.fillable n tag lba = none ↔
    ∀ e ∈ s.entries, ¬(e.page = tag ∧ e.node = n ∧ e.lba = lba ∧ e.state.isFilling = true) := by
  simp only [Option.eq_none_iff_forall_ne_some, ne_eq, State.fillable_eq_some_iff hpages, not_and]

/-- A list of the cache does not hold the page of an entry whose state it is not for (R103, R110, R113). -/
theorem State.Lists.page_not_mem {f : EntryState → Bool} {l : List Nat} (hl : s.Lists n f l)
    (hpages : s.entryPages.Nodup) (he : e ∈ s.entries) (hstate : f e.state = false) : e.page ∉ l := by
  intro hmem
  obtain ⟨g, hg, hpage, -, hlisted⟩ := (hl.2 e.page).mp hmem
  rw [State.entry_eq_of_page hpages hg he hpage, hstate] at hlisted
  exact absurd hlisted (by decide)

/-- The page of a FILLING entry is in no list but that of the pending fetches (R102, R103). -/
theorem State.CacheLaw.filling_unlisted (hlaw : s.CacheLaw) (he : e ∈ s.entries) (hfilling : e.state.isFilling = true)
    (n : NodeId) :
    e.page ∉ s.lru ∧ e.page ∉ (s.nd n).cache.queue ∧ e.page ∉ (s.nd n).cache.outstanding := by
  obtain ⟨hpages, -, -, hlru, hnodes⟩ := hlaw
  obtain ⟨-, hqueue, houtstanding, -⟩ := hnodes n
  cases hst : e.state with
  | filling d =>
    refine ⟨fun hmem => ?_, hqueue.page_not_mem hpages he (by rw [hst]; rfl),
      houtstanding.page_not_mem hpages he (by rw [hst]; rfl)⟩
    obtain ⟨f, hf, hpage, hvalid⟩ := (hlru e.page).mp hmem
    rw [State.entry_eq_of_page hpages hf he hpage, hst] at hvalid
    cases hvalid
  | valid | dirty | flushing => simp [hst, EntryState.isFilling] at hfilling

end

/-! ### The block that waits (R92, R93) -/

/-- The command with its blocks that wait on the entry of this LBA ready. -/
def Command.wake (lba : Nat) (c : Command) : Command :=
  { c with list := c.list.map (fun b => if b.lba = lba ∧ b.status = .waiting then { b with status := .ready } else b) }

/-- A block list is in LBA order, so an LBA has one place in it (R92). -/
theorem State.CommandLaw.block_eq_of_lba {s : State} {n : NodeId} {c : Command} (hlaw : s.CommandLaw n)
    (hc : (s.nd n).media.current = some c) {a b : BlockPlace} (ha : a ∈ c.list) (hb : b ∈ c.list) (hlba : a.lba = b.lba) :
    a = b := by
  obtain ⟨-, -, -, -, horder, -⟩ := hlaw c hc
  obtain ⟨i, hi⟩ := List.mem_iff_getElem?.mp ha
  obtain ⟨j, hj⟩ := List.mem_iff_getElem?.mp hb
  have hij : i = j := by have := horder i a hi; have := horder j b hj; omega
  rw [hij] at hi
  exact Option.some_inj.mp (hi.symm.trans hj)

/-- Where the block of this LBA waits, marking it ready is waking it. -/
theorem Command.mark_ready_eq_wake {c : Command} {lba : Nat} (h : ∀ b ∈ c.list, b.lba = lba → b.status = .waiting) :
    c.mark lba .ready = c.wake lba := by
  unfold Command.mark Command.wake
  congr 1
  refine List.map_congr_left fun b hb => ?_
  by_cases hlba : b.lba = lba
  · simp [hlba, h b hb hlba]
  · simp [hlba]

/-- Where no block of this LBA waits, there is nothing to wake. -/
theorem Command.wake_eq_self {c : Command} {lba : Nat} (h : ∀ b ∈ c.list, ¬(b.lba = lba ∧ b.status = .waiting)) :
    c.wake lba = c := by
  have hlist : (c.wake lba).list = c.list :=
    (List.map_congr_left fun b hb => if_neg (h b hb)).trans (List.map_id _)
  exact congrArg (fun l => { c with list := l }) hlist

theorem State.waitsOn_some {s : State} {n : NodeId} {c : Command} (hc : (s.nd n).media.current = some c) (lba : Nat) :
    s.waitsOn n lba = true ↔ ∃ b ∈ c.list, b.lba = lba ∧ b.status = .waiting := by
  simp [State.waitsOn, hc]

/-- Whether or not a block waits, the current command comes out of a fill with its waiting block ready (R93, R105). -/
theorem State.CommandLaw.current_marked {s : State} {n : NodeId} (hlaw : s.CommandLaw n) (lba : Nat) :
    (if s.waitsOn n lba then (s.nd n).media.current.map (fun c => c.mark lba .ready) else (s.nd n).media.current) =
      (s.nd n).media.current.map (Command.wake lba) := by
  cases hc : (s.nd n).media.current with
  | none => simp
  | some c =>
    by_cases hwaits : s.waitsOn n lba = true
    · obtain ⟨b, hb, hlba, hwaiting⟩ := (State.waitsOn_some hc lba).mp hwaits
      have honly : ∀ a ∈ c.list, a.lba = lba → a.status = .waiting := fun a ha hal =>
        hlaw.block_eq_of_lba hc ha hb (hal.trans hlba.symm) ▸ hwaiting
      simp only [hwaits, if_true, Option.map_some, Command.mark_ready_eq_wake honly]
    · have hnone : ∀ b ∈ c.list, ¬(b.lba = lba ∧ b.status = .waiting) := fun b hb hw =>
        hwaits ((State.waitsOn_some hc lba).mpr ⟨b, hb, hw⟩)
      rw [if_neg hwaits, Option.map_some, Command.wake_eq_self hnone]

/-! ### What a fill writes (R102, R103, R105) -/

/-- Node `x` after a fill of its entry of this page and LBA: the entry is no pending fetch, and its waiting block is
ready. -/
def Node.filled (page lba : Nat) (x : Node) : Node :=
  { x with
    media := { x.media with current := x.media.current.map (Command.wake lba) }
    cache := { x.cache with fetches := without page x.cache.fetches } }

/-- The part after a fill of entry `e` of node `n`. -/
def State.filled (s : State) (n : NodeId) (e : Entry) (data : List Byte) : State :=
  { s.setNd n ((s.nd n).filled e.page e.lba) with
    entries := (s.setEntry e.page .valid).entries
    lru := s.lru ++ [e.page]
    mem := s.mem.writePage e.page data }

@[simp] theorem State.nd_filled (s : State) (n : NodeId) (e : Entry) (data : List Byte) :
    (s.filled n e data).nd n = (s.nd n).filled e.page e.lba :=
  s.nd_setNd_same n _

/-- The entry's page is in no list but that of the pending fetches, so the other lists stay; and one block at most waits
on the entry. -/
theorem State.fill_eq_filled {s : State} {n : NodeId} {e : Entry} (hlaw : s.CacheLaw) (he : e ∈ s.entries)
    (hfilling : e.state.isFilling = true) (data : List Byte) : s.fill n e data = s.filled n e data := by
  obtain ⟨hlru, hqueue, houtstanding⟩ := hlaw.filling_unlisted he hfilling n
  obtain ⟨-, -, -, -, hnodes⟩ := hlaw
  obtain ⟨-, -, -, -, -, -, -, hcommand⟩ := hnodes n
  have hmem : ({ s with mem := s.mem.writePage e.page data } : State).makeValid n e.page =
      { s.makeValid n e.page with mem := s.mem.writePage e.page data } := rfl
  rw [State.fill, hmem, State.makeValid_eq, without_of_not_mem hlru, without_of_not_mem hqueue,
    without_of_not_mem houtstanding, State.filled, Node.filled, ← hcommand.current_marked e.lba]
  split <;> simp [State.mapCommand, State.mapMedia, State.setNd, State.nd]

theorem State.filled_onlyMedia (s : State) (n : NodeId) (e : Entry) (data : List Byte) :
    s.OnlyMedia (s.filled n e data) n := by
  rw [State.OnlyMedia, State.nd_filled]
  rfl

theorem State.filled_wrotePage (s : State) (n : NodeId) (e : Entry) {data : List Byte}
    (hdata : data.length = Config.pageBytes) : s.WrotePage (s.filled n e data) e.page data :=
  ⟨Memory.page_writePage _ _ _ hdata, fun a ha => Memory.read_write_other _ _ _ a (by rwa [hdata])⟩

/-- A request on the media side of node `n` that is answered changes that side and the link, and makes its one reply
(R173, R175). -/
theorem State.OnlyMedia.replied {s u : State} {n : NodeId} (h : s.OnlyMedia u n) (hlink : u.link = s.link) (f : Frame)
    (a : Answer) : s.OnlyMedia (u.takeFrame.reply f a) n ∧ s.Replied (u.takeFrame.reply f a) f a := by
  refine ⟨?_, by simp [State.Replied, State.reply_takeFrame, hlink]⟩
  have hreply : u.takeFrame.reply f a = { u with link := (u.takeFrame.reply f a).link } := rfl
  exact hreply.trans (congrArg (fun v : State => { v with link := (u.takeFrame.reply f a).link }) h)

/-- A refusal that changes nothing but the link (R173, R175). -/
theorem State.refused_onlyLink (s : State) (f : Frame) (a : Answer) :
    s.OnlyLink (s.takeFrame.reply f a) ∧ s.Replied (s.takeFrame.reply f a) f a :=
  ⟨rfl, rfl⟩

/-! ### MED_FILL -/

section
variable {s : State} {n : NodeId} {tag : Byte} {p : List Byte}

theorem State.fill_takeFrame (s : State) (n : NodeId) (e : Entry) (data : List Byte) :
    s.takeFrame.fill n e data = (s.fill n e data).takeFrame := by
  have hwaits : s.takeFrame.waitsOn n e.lba = s.waitsOn n e.lba := rfl
  simp only [State.fill, hwaits]
  split <;> rfl

/-- The dispatcher takes a MED_FILL of the right length, and it is carried out. -/
theorem exec_medFill (h : s.takes (nodeFrame 0x22 tag n p) = true) (hp : p.length = 518) :
    exec (.medFill tag n.toByte p) s = .next ((s.takeFrame.takeFill n p).settle (nodeFrame 0x22 tag n p)) := by
  show Host.Outcome.next (nodeRequest 0x22 tag n.toByte p (p.length == 518) _ s) = _
  rw [nodeRequest_ok h (by simp [hp])]
  rfl

/-- No page has a tag above 1023. -/
theorem exec_medFill_badParam (h : s.takes (nodeFrame 0x22 tag n p) = true) (hp : p.length = 518)
    (htag : 1023 < fieldAt p 0 2) : exec (.medFill tag n.toByte p) s =
      .next (s.takeFrame.reply (nodeFrame 0x22 tag n p) { result := .badParam, fields := [] }) := by
  rw [exec_medFill h hp, State.takeFill, if_pos htag, Carried.settle_answers]

/-- A fill that no entry takes is STALE (R106). -/
theorem exec_medFill_stale (h : s.takes (nodeFrame 0x22 tag n p) = true) (hp : p.length = 518)
    (htag : fieldAt p 0 2 ≤ 1023) (hnone : s.fillable n (fieldAt p 0 2) (fieldAt p 2 4) = none) :
    exec (.medFill tag n.toByte p) s =
      .next (s.takeFrame.reply (nodeFrame 0x22 tag n p) { result := .stale, fields := [] }) := by
  have hnone' : s.takeFrame.fillable n (fieldAt p 0 2) (fieldAt p 2 4) = none := hnone
  simp only [exec_medFill h hp, State.takeFill, if_neg htag.not_gt, hnone', Carried.settle_answers]

/-- A fill that an entry takes completes it (R105). -/
theorem exec_medFill_ok {e : Entry} (h : s.takes (nodeFrame 0x22 tag n p) = true) (hp : p.length = 518)
    (htag : fieldAt p 0 2 ≤ 1023) (hsome : s.fillable n (fieldAt p 0 2) (fieldAt p 2 4) = some e) :
    exec (.medFill tag n.toByte p) s = .next ((s.fill n e (p.drop 6)).takeFrame.reply (nodeFrame 0x22 tag n p)
      { result := .ok, fields := [] }) := by
  have hsome' : s.takeFrame.fillable n (fieldAt p 0 2) (fieldAt p 2 4) = some e := hsome
  simp only [exec_medFill h hp, State.takeFill, if_neg htag.not_gt, hsome', Carried.settle_answers, State.fill_takeFrame]

end

/-- Settles O45: the four-part test finds the one entry that the fill names; its page is in no list but that of the
pending fetches, and one block at most waits on it. -/
theorem medFillCompletesItsEntry : Obligations.MedFillCompletesItsEntry := by
  intro s tag n p hlaw htakes hlen page lba
  have hpages : s.entryPages.Nodup := hlaw.1
  by_cases hbad : 1023 < page
  · exact ⟨_, exec_medFill_badParam htakes hlen hbad, fun _ => s.refused_onlyLink _ _, fun hle => absurd hbad hle.not_gt,
      fun _ _ hle => absurd hbad hle.not_gt⟩
  have htag : page ≤ 1023 := Nat.not_lt.mp hbad
  cases hfound : s.fillable n page lba with
  | none =>
    have hnone := (State.fillable_eq_none_iff hpages page lba).mp hfound
    exact ⟨_, exec_medFill_stale htakes hlen htag hfound, fun hgt => absurd hgt hbad, fun _ _ => s.refused_onlyLink _ _,
      fun e he _ hpage hnode hlba hst => absurd ⟨hpage, hnode, hlba, hst⟩ (hnone e he)⟩
  | some e =>
    obtain ⟨he, hpage, hnode, hlba, hst⟩ := (State.fillable_eq_some_iff hpages page lba).mp hfound
    obtain ⟨honly, hreplied⟩ := (s.filled_onlyMedia n e (p.drop 6)).replied rfl (nodeFrame 0x22 tag n p) _
    have hexec := exec_medFill_ok htakes hlen htag hfound
    rw [State.fill_eq_filled hlaw he hst] at hexec
    refine ⟨_, hexec, fun hgt => absurd hgt hbad, fun _ hnone => absurd ⟨hpage, hnode, hlba, hst⟩ (hnone e he), ?_⟩
    intro _ _ _ _ _ _ _
    rw [State.reply_nd, State.takeFrame_nd, State.nd_filled, ← hpage, ← hlba]
    exact ⟨honly, s.filled_wrotePage n e (by rw [List.length_drop, hlen]; rfl), rfl, rfl, rfl, rfl, rfl, rfl, hreplied⟩

end Sys2Proof.Machine
end


section
/-! PROOFS. Which parts of the state an operation changes. The state is cut into parts; `s.Changes ps t` says that every part but
those of `ps` is in `t` as in `s`, and `s.ChangesAt n ps t` that besides nothing of another node than `n` has changed. Every
shared operation has one lemma of this form, and a law is kept by every operation that leaves alone the parts it reads. -/

namespace Sys2Proof.Machine

set_option Elab.async false

/-- The parts into which the state is cut. The parts of a node are those of all four nodes. -/
inductive Part where
  | reset | clock | fref
  | quota | lineSet | delivery | watchSet | timings | liveSet | tuning
  | line | ring | events | index | mark | stream | watch | slot | current | media | cache | action | power | live | count
  | free | entries | lru | mem | link | store | pauses | pending

/-- The event index holds up to 64 entries in order of offset, and they and the mark lie between oldest_offset and next_offset
(R26, R30, R32, R33). -/
def History.IndexLawful (h : History) : Prop :=
  h.oldest ≤ h.next ∧ (∀ m, h.mark = some m → h.oldest ≤ m ∧ m ≤ h.next) ∧ h.index.length ≤ Config.indexEntries ∧
    h.index.Pairwise (fun x y => x.offset ≤ y.offset) ∧ ∀ e ∈ h.index, h.oldest ≤ e.offset ∧ e.offset ≤ h.next

/-- The recovery count is the same, and the monitor has not become DISABLED. -/
def Live.SameCount (x y : Live) : Prop := y.recoveries = x.recoveries ∧ (y.monitor = .disabled → x.monitor = .disabled)

@[simp] theorem Live.SameCount.refl (x : Live) : x.SameCount x := ⟨rfl, id⟩

/-- A part is in `t` as it is in `s`. Two parts stand for what is kept of others: `index` that the index and the mark are lawful,
`count` that of a monitor. -/
def State.SamePart (s t : State) : Part → Prop
  | .reset => t.held = s.held ∧ t.resetCause = s.resetCause ∧ t.restartDefaults = s.restartDefaults ∧ t.linkRate = s.linkRate
  | .clock => t.clock = s.clock
  | .fref => t.cfg.fref = s.cfg.fref
  | .quota => ∀ n, (t.set n).quota = (s.set n).quota
  | .lineSet => ∀ n, (t.set n).line = (s.set n).line
  | .delivery => ∀ n, (t.set n).delivery = (s.set n).delivery
  | .watchSet => ∀ n, (t.set n).watch = (s.set n).watch
  | .timings => ∀ n, (t.set n).timings = (s.set n).timings ∧ (t.set n).choices = (s.set n).choices
  | .liveSet => ∀ n, (t.set n).live = (s.set n).live
  | .tuning => ∀ n, (t.set n).tuning = (s.set n).tuning
  | .line => ∀ n, (t.nd n).line = (s.nd n).line
  | .ring => ∀ n, (t.nd n).hist.ring = (s.nd n).hist.ring
  | .events => ∀ n, (t.nd n).hist.index = (s.nd n).hist.index ∧ (t.nd n).hist.lost = (s.nd n).hist.lost ∧
      (t.nd n).hist.eventPending = (s.nd n).hist.eventPending
  | .stream => ∀ n, (t.nd n).hist.oldest = (s.nd n).hist.oldest ∧ (t.nd n).hist.next = (s.nd n).hist.next ∧
      (t.nd n).hist.deliver = (s.nd n).hist.deliver ∧
      (t.nd n).hist.gapCount = (s.nd n).hist.gapCount ∧ (t.nd n).hist.pacer = (s.nd n).hist.pacer ∧
      (t.nd n).hist.lineIdle = (s.nd n).hist.lineIdle
  | .index => ∀ n, (s.nd n).hist.IndexLawful → (t.nd n).hist.IndexLawful
  | .mark => ∀ n, (t.nd n).hist.mark = (s.nd n).hist.mark
  | .watch => ∀ n, (t.nd n).watch = (s.nd n).watch
  | .slot => ∀ n, (t.nd n).media.slot = (s.nd n).media.slot
  | .current => ∀ n, (t.nd n).media.current = (s.nd n).media.current
  | .media => ∀ n, { (t.nd n).media with slot := none, current := none } = { (s.nd n).media with slot := none, current := none }
  | .cache => ∀ n, (t.nd n).cache = (s.nd n).cache
  | .action => ∀ n, (t.nd n).power.ctrl = (s.nd n).power.ctrl ∧ (t.nd n).power.btnPwr = (s.nd n).power.btnPwr ∧
      (t.nd n).power.btnRst = (s.nd n).power.btnRst ∧ (t.nd n).power.diag = (s.nd n).power.diag
  | .power => ∀ n, { (t.nd n).power with ctrl := .idle, btnPwr := false, btnRst := false, diag := false } =
      { (s.nd n).power with ctrl := .idle, btnPwr := false, btnRst := false, diag := false }
  | .live => ∀ n, (t.nd n).live = (s.nd n).live
  | .count => ∀ n, (s.nd n).live.SameCount (t.nd n).live
  | .free => t.free = s.free
  | .entries => t.entries = s.entries
  | .lru => t.lru = s.lru
  | .mem => t.mem = s.mem
  | .link => t.link = s.link
  | .store => t.store = s.store
  | .pauses => t.pauses = s.pauses
  | .pending => t.pending = s.pending

theorem State.SamePart.refl (s : State) (p : Part) : s.SamePart s p := by
  cases p <;> simp [State.SamePart, Live.SameCount]

theorem State.SamePart.trans {s t u : State} {p : Part} (h : s.SamePart t p) (k : t.SamePart u p) : s.SamePart u p := by
  cases p <;> simp only [State.SamePart, Live.SameCount] at h k ⊢ <;> grind

/-- Every part but those of `ps` is in `t` as it is in `s`. -/
def State.Changes (s : State) (ps : List Part) (t : State) : Prop := ∀ p, p ∉ ps → s.SamePart t p

/-- Every part but those of `ps` is in `t` as it is in `s`, and so is all of every node but `n`. -/
def State.ChangesAt (s : State) (n : NodeId) (ps : List Part) (t : State) : Prop :=
  s.Changes ps t ∧ ∀ m, m ≠ n → t.nd m = s.nd m ∧ t.set m = s.set m

theorem State.Changes.refl (s : State) (ps : List Part) : s.Changes ps s := fun p _ => .refl s p

theorem State.ChangesAt.refl (s : State) (n : NodeId) (ps : List Part) : s.ChangesAt n ps s := ⟨.refl s ps, fun _ _ => ⟨rfl, rfl⟩⟩

theorem State.Changes.mono {s t : State} {ps qs : List Part} (h : s.Changes ps t) (hq : ps ⊆ qs := by simp) : s.Changes qs t :=
  fun p hp => h p (fun hps => hp (hq hps))

theorem State.ChangesAt.mono {s t : State} {n : NodeId} {ps qs : List Part} (h : s.ChangesAt n ps t)
    (hq : ps ⊆ qs := by simp) : s.ChangesAt n qs t := ⟨h.1.mono hq, h.2⟩

/-- One change after another. -/
theorem State.Changes.next {s t u : State} {ps qs rs : List Part} (h : s.Changes ps t) (k : t.Changes qs u)
    (hp : ps ⊆ rs := by simp) (hq : qs ⊆ rs := by simp) : s.Changes rs u :=
  fun p hr => (h p (fun hps => hr (hp hps))).trans (k p (fun hqs => hr (hq hqs)))

theorem State.ChangesAt.next {s t u : State} {n : NodeId} {ps qs rs : List Part} (h : s.ChangesAt n ps t)
    (k : t.ChangesAt n qs u) (hp : ps ⊆ rs := by simp) (hq : qs ⊆ rs := by simp) : s.ChangesAt n rs u :=
  ⟨h.1.next k.1 hp hq, fun m hm => ⟨(k.2 m hm).1.trans (h.2 m hm).1, (k.2 m hm).2.trans (h.2 m hm).2⟩⟩

theorem State.ChangesAt.ite {s t u : State} {n : NodeId} {ps : List Part} {c : Prop} [Decidable c] (h : s.ChangesAt n ps t)
    (k : s.ChangesAt n ps u) : s.ChangesAt n ps (if c then t else u) := by split <;> assumption

theorem State.Changes.ite {s t u : State} {ps : List Part} {c : Prop} [Decidable c] (h : s.Changes ps t)
    (k : s.Changes ps u) : s.Changes ps (if c then t else u) := by split <;> assumption

/-- A part that is not changed. -/
theorem State.Changes.same {s t : State} {ps : List Part} (h : s.Changes ps t) (p : Part) (hp : p ∉ ps := by simp) :
    s.SamePart t p := h p hp

theorem State.ChangesAt.same {s t : State} {n : NodeId} {ps : List Part} (h : s.ChangesAt n ps t) (p : Part)
    (hp : p ∉ ps := by simp) : s.SamePart t p := h.1 p hp

/-- What every change of a list leaves alone, their composition does. -/
theorem State.Changes.foldl {α : Type} {ps : List Part} {f : State → α → State} (h : ∀ (s : State) a, s.Changes ps (f s a)) (l : List α)
    (s : State) : s.Changes ps (l.foldl f s) := by
  induction l generalizing s with
  | nil => exact .refl s ps
  | cons a l ih => exact (h s a).next (ih _) (fun _ hx => hx) (fun _ hx => hx)

theorem State.ChangesAt.foldl {α : Type} {n : NodeId} {ps : List Part} {f : State → α → State}
    (h : ∀ (s : State) a, s.ChangesAt n ps (f s a)) (l : List α) (s : State) : s.ChangesAt n ps (l.foldl f s) := by
  induction l generalizing s with
  | nil => exact .refl s n ps
  | cons a l ih => exact (h s a).next (ih _) (fun _ hx => hx) (fun _ hx => hx)

theorem State.ChangesAt.times {n : NodeId} {ps : List Part} {f : State → State} (h : ∀ s : State, s.ChangesAt n ps (f s)) (k : Nat)
    (s : State) : s.ChangesAt n ps (times k f s) := by
  induction k generalizing s with
  | zero => exact .refl s n ps
  | succ k ih => exact (h s).next (ih _) (fun _ hx => hx) (fun _ hx => hx)

/-! ### The updates of one part -/

/-- The parts of a node. -/
def Node.SamePart (x y : Node) : Part → Prop
  | .line => y.line = x.line
  | .ring => y.hist.ring = x.hist.ring
  | .events => y.hist.index = x.hist.index ∧ y.hist.lost = x.hist.lost ∧ y.hist.eventPending = x.hist.eventPending
  | .stream => y.hist.oldest = x.hist.oldest ∧ y.hist.next = x.hist.next ∧
      y.hist.deliver = x.hist.deliver ∧ y.hist.gapCount = x.hist.gapCount ∧ y.hist.pacer = x.hist.pacer ∧
      y.hist.lineIdle = x.hist.lineIdle
  | .index => x.hist.IndexLawful → y.hist.IndexLawful
  | .mark => y.hist.mark = x.hist.mark
  | .watch => y.watch = x.watch
  | .slot => y.media.slot = x.media.slot
  | .current => y.media.current = x.media.current
  | .media => { y.media with slot := none, current := none } = { x.media with slot := none, current := none }
  | .cache => y.cache = x.cache
  | .action => y.power.ctrl = x.power.ctrl ∧ y.power.btnPwr = x.power.btnPwr ∧ y.power.btnRst = x.power.btnRst ∧
      y.power.diag = x.power.diag
  | .power => { y.power with ctrl := .idle, btnPwr := false, btnRst := false, diag := false } =
      { x.power with ctrl := .idle, btnPwr := false, btnRst := false, diag := false }
  | .live => y.live = x.live
  | .count => x.live.SameCount y.live
  | _ => True

theorem Node.SamePart.refl (x : Node) (p : Part) : x.SamePart x p := by cases p <;> simp [Node.SamePart, Live.SameCount]

/-- A node's new contents, with the parts that tell it from the old ones. -/
theorem State.setNd_changes (s : State) (n : NodeId) {x : Node} {ps : List Part} (h : ∀ p, p ∉ ps → (s.nd n).SamePart x p) :
    s.ChangesAt n ps (s.setNd n x) := by
  refine ⟨fun p hp => ?_, fun _ hm => ⟨s.nd_setNd_ne x hm, rfl⟩⟩
  have hx := h p hp
  have hnode (m : NodeId) : (s.nd m).SamePart ((s.setNd n x).nd m) p := by
    by_cases hm : m = n
    · subst hm; rwa [State.nd_setNd_same]
    · rw [State.nd_setNd_ne _ _ hm]; exact .refl _ p
  cases p with
  | line | ring | events | index | mark | stream | watch | slot | current | media | cache | action | power | live | count => exact hnode
  | reset | clock | fref | quota | lineSet | delivery | watchSet | timings | liveSet | tuning | free | entries | lru | mem | link | store | pauses | pending =>
    simp [State.SamePart]

theorem State.mapLine_changes (s : State) (n : NodeId) (f : Line → Line) : s.ChangesAt n [.line] (s.mapLine n f) :=
  s.setNd_changes n (fun p _ => by cases p <;> simp_all [Node.SamePart, Live.SameCount])

theorem State.mapWatch_changes (s : State) (n : NodeId) (f : List Place → List Place) :
    s.ChangesAt n [.watch] (s.mapWatch n f) :=
  s.setNd_changes n (fun p _ => by cases p <;> simp_all [Node.SamePart, Live.SameCount])

theorem State.mapCache_changes (s : State) (n : NodeId) (f : NodeCache → NodeCache) :
    s.ChangesAt n [.cache] (s.mapCache n f) :=
  s.setNd_changes n (fun p _ => by cases p <;> simp_all [Node.SamePart, Live.SameCount])

theorem State.mapLive_changes_all (s : State) (n : NodeId) (f : Live → Live) : s.ChangesAt n [.live, .count] (s.mapLive n f) :=
  s.setNd_changes n (fun p _ => by cases p <;> simp_all [Node.SamePart])

/-- A change of the monitor that leaves the recovery count and does not disable it. -/
theorem State.mapLive_changes (s : State) (n : NodeId) (f : Live → Live)
    (h : ∀ x, Live.SameCount x (f x) := by intro x; simp [Live.SameCount, Live.enter, Live.filterHb]) :
    s.ChangesAt n [.live] (s.mapLive n f) :=
  s.setNd_changes n (fun p _ => by have := h (s.nd n).live; cases p <;> simp_all [Node.SamePart, Live.SameCount])

/-- A change of the history, by the parts of it that the function leaves alone. -/
theorem State.mapHist_changes (s : State) (n : NodeId) (f : History → History) (ps : List Part)
    (h : ∀ x : Node, ∀ p, p ∉ ps → x.SamePart { x with hist := f x.hist } p :=
      by intro x p hp; cases p <;> simp_all [Node.SamePart, Live.SameCount, History.IndexLawful]) : s.ChangesAt n ps (s.mapHist n f) :=
  s.setNd_changes n (h _)

theorem State.mapMedia_changes (s : State) (n : NodeId) (f : Media → Media) (ps : List Part)
    (h : ∀ x : Node, ∀ p, p ∉ ps → x.SamePart { x with media := f x.media } p :=
      by intro x p hp; cases p <;> simp_all [Node.SamePart, Live.SameCount]) : s.ChangesAt n ps (s.mapMedia n f) :=
  s.setNd_changes n (h _)

theorem State.mapPower_changes (s : State) (n : NodeId) (f : Power → Power) (ps : List Part)
    (h : ∀ x : Node, ∀ p, p ∉ ps → x.SamePart { x with power := f x.power } p :=
      by intro x p hp; cases p <;> simp_all [Node.SamePart, Live.SameCount]) : s.ChangesAt n ps (s.mapPower n f) :=
  s.setNd_changes n (h _)

/-- Changes of the state outside the nodes and the settings. -/
theorem State.changesAt_of_nodes {s t : State} {ps : List Part} (n : NodeId) (hn : t.nodes = s.nodes) (hc : t.cfg = s.cfg)
    (h : s.Changes ps t) : s.ChangesAt n ps t :=
  ⟨h, fun m _ => ⟨by simp only [State.nd, hn], by simp only [State.set, hc]⟩⟩

end Sys2Proof.Machine
end


section
/-! PROOFS. The parts that each shared operation of the model changes, in the order of the model's files. -/

namespace Sys2Proof.Machine

set_option Elab.async false

/-! ### The clock -/

theorem State.toTick_changes (s : State) (n : NodeId) (t : Nat) : s.ChangesAt n [.clock] (s.toTick t) :=
  State.changesAt_of_nodes n rfl rfl (fun p _ => by cases p <;> simp_all [State.SamePart])

theorem State.toCycle_changes (s : State) (n : NodeId) (k : Nat) : s.ChangesAt n [.clock] (s.toCycle k) :=
  State.changesAt_of_nodes n rfl rfl (fun p _ => by cases p <;> simp_all [State.SamePart])

theorem State.cycle_changes (s : State) : s.Changes [.clock] s.cycle := by
  rw [State.cycle_frame]
  intro p _; cases p <;> simp_all [State.SamePart, State.nd, State.set]

/-! ### The link and the settings -/

theorem State.mapLink_changes (s : State) (n : NodeId) (f : Link → Link) : s.ChangesAt n [.link] (s.mapLink f) :=
  State.changesAt_of_nodes n rfl rfl (fun p _ => by cases p <;> simp_all [State.SamePart])

/-- The parts of the settings of a node. -/
def NodeSettings.SamePart (x y : NodeSettings) : Part → Prop
  | .quota => y.quota = x.quota
  | .lineSet => y.line = x.line
  | .delivery => y.delivery = x.delivery
  | .watchSet => y.watch = x.watch
  | .timings => y.timings = x.timings ∧ y.choices = x.choices
  | .liveSet => y.live = x.live
  | .tuning => y.tuning = x.tuning
  | _ => True

theorem NodeSettings.SamePart.refl (x : NodeSettings) (p : Part) : x.SamePart x p := by
  cases p <;> simp [NodeSettings.SamePart]

/-- New settings of node `n`, with the groups that tell them from the old ones. -/
theorem State.mapSet_changes (s : State) (n : NodeId) (f : NodeSettings → NodeSettings) (ps : List Part)
    (h : ∀ x p, p ∉ ps → NodeSettings.SamePart x (f x) p := by
      intro x p hp; cases p <;> simp_all [NodeSettings.SamePart]) : s.ChangesAt n ps (s.mapSet n f) := by
  refine ⟨fun p hp => ?_, fun _ hm => ⟨rfl, s.set_mapSet_ne f hm⟩⟩
  have hset (m : NodeId) : (s.set m).SamePart ((s.mapSet n f).set m) p := by
    by_cases hm : m = n
    · subst hm; rw [State.set_mapSet_same]; exact h _ p hp
    · rw [State.set_mapSet_ne _ _ hm]; exact .refl _ p
  cases p <;> first | exact hset | simp [State.SamePart]

/-! ### The history -/

theorem History.dropOldestEvent_eq (h : History) :
    h.dropOldestEvent = { h with index := h.dropOldestEvent.index, lost := h.dropOldestEvent.lost } := by
  unfold History.dropOldestEvent; split <;> rfl

theorem History.record_eq (h : History) (mask boot : Half) (k : EventKind) (d : Half) :
    h.record mask boot k d = { h with
      index := (h.record mask boot k d).index
      lost := (h.record mask boot k d).lost
      eventPending := (h.record mask boot k d).eventPending } := by
  simp only [History.record, History.push]
  split
  · rw [History.dropOldestEvent_eq]
  · rfl

theorem History.recordError_eq (h : History) (mask boot : Half) (k : EventKind) :
    h.recordError mask boot k = { h with
      index := (h.recordError mask boot k).index
      lost := (h.recordError mask boot k).lost
      eventPending := (h.recordError mask boot k).eventPending } := by
  simp only [History.recordError]
  split
  · rfl
  · rw [← History.record_eq]

theorem History.IndexLawful.dropOldestEvent {h : History} (hl : h.IndexLawful) : h.dropOldestEvent.IndexLawful := by
  obtain ⟨hle, hmark, hlen, hsorted, hbounds⟩ := hl
  unfold History.dropOldestEvent
  cases hi : h.index
  case nil => exact ⟨hle, hmark, hlen, hsorted, hbounds⟩
  case cons e es =>
    rw [hi] at hlen hsorted hbounds
    exact ⟨hle, hmark, by simp at hlen ⊢; omega, hsorted.of_cons, fun x hx => hbounds x (List.mem_cons_of_mem e hx)⟩

/-- A new entry at next_offset keeps the index in order, and within its 64 entries. -/
theorem History.IndexLawful.record {h : History} (hl : h.IndexLawful) (mask boot : Half) (k : EventKind) (d : Half) :
    (h.record mask boot k d).IndexLawful := by
  have hpush (e : Event) {x : History} (hx : x.IndexLawful) (hroom : x.index.length < Config.indexEntries)
      (he : e.offset = x.next) :
      ({ x with index := x.index ++ [e], eventPending := x.eventPending || e.unsent } : History).IndexLawful := by
    obtain ⟨hle, hmark, hlen, hsorted, hbounds⟩ := hx
    refine ⟨hle, hmark, by simp; omega, List.pairwise_append.mpr ⟨hsorted, List.pairwise_singleton _ _, ?_⟩, ?_⟩
    · intro y hy z hz
      rw [List.mem_singleton.mp hz, he]
      exact (hbounds y hy).2
    · intro y hy
      rcases List.mem_append.mp hy with hy | hy
      · exact hbounds y hy
      · rw [List.mem_singleton.mp hy, he]
        exact ⟨hle, Nat.le_refl _⟩
  simp only [History.record, History.push]
  split
  · next hfull =>
    refine hpush _ hl.dropOldestEvent ?_ (by rw [History.dropOldestEvent_eq])
    have hlen := hl.2.2.1
    unfold History.dropOldestEvent
    cases hi : h.index <;> simp_all [Config.indexEntries]
  · next hroom => exact hpush _ hl (by omega) rfl

/-- One entry more in an error run leaves the offsets as they are. -/
theorem bumpErrorRun_offsets {k : EventKind} {l l' : List Event} (h : bumpErrorRun k l = some l') :
    l'.map Event.offset = l.map Event.offset := by
  induction l generalizing l' with
  | nil => simp [bumpErrorRun] at h
  | cons e es ih =>
    unfold bumpErrorRun at h
    split at h
    · cases h; rfl
    · split at h
      · obtain ⟨l, hl, rfl⟩ := Option.map_eq_some_iff.mp h
        simp [ih hl]
      · simp at h

/-- The laws of the index speak of the offsets of its entries alone. -/
theorem History.IndexLawful.of_offsets {h : History} (hl : h.IndexLawful) {l : List Event} {lost : Nat} {b : Bool}
    (ho : l.map Event.offset = h.index.map Event.offset) :
    ({ h with index := l, lost := lost, eventPending := b } : History).IndexLawful := by
  obtain ⟨hle, hmark, hlen, hsorted, hbounds⟩ := hl
  have hlength : l.length = h.index.length := by simpa using congrArg List.length ho
  refine ⟨hle, hmark, by simpa [hlength] using hlen, ?_, fun e he => ?_⟩
  · rw [← List.pairwise_map (f := Event.offset) (R := (· ≤ ·))] at hsorted ⊢
    rwa [ho]
  · have hoff : e.offset ∈ h.index.map Event.offset := ho ▸ List.mem_map_of_mem he
    obtain ⟨x, hx, hxe⟩ := List.mem_map.mp hoff
    exact hxe ▸ hbounds x hx

theorem History.IndexLawful.recordError {h : History} (hl : h.IndexLawful) (mask boot : Half) (k : EventKind) :
    (h.recordError mask boot k).IndexLawful := by
  unfold History.recordError
  split
  · next es hes =>
    exact hl.of_offsets (lost := h.lost) (b := h.eventPending)
      (by simpa using congrArg List.reverse (bumpErrorRun_offsets hes))
  · exact hl.record mask boot k 1

/-- A change of the history that writes the events, and the mark, alone. -/
theorem State.mapHist_changes_mark (s : State) (n : NodeId) (f : History → History)
    (h : ∀ x, f x = { x with mark := (f x).mark, index := (f x).index, lost := (f x).lost, eventPending := (f x).eventPending })
    (hl : ∀ x, History.IndexLawful x → (f x).IndexLawful) : s.ChangesAt n [.events, .mark] (s.mapHist n f) :=
  s.mapHist_changes n f [.events, .mark] (fun x p hp => by
    cases p
    case index => exact hl x.hist
    all_goals (rw [h]; clear h; simp_all [Node.SamePart]))

/-- A change of the history that writes the events alone. -/
theorem State.mapHist_changes_events (s : State) (n : NodeId) (f : History → History)
    (h : ∀ x, f x = { x with index := (f x).index, lost := (f x).lost, eventPending := (f x).eventPending })
    (hl : ∀ x, History.IndexLawful x → (f x).IndexLawful) : s.ChangesAt n [.events] (s.mapHist n f) :=
  s.mapHist_changes n f [.events] (fun x p hp => by
    cases p
    case index => exact hl x.hist
    all_goals (rw [h]; clear h; simp_all [Node.SamePart]))

theorem State.record_changes (s : State) (n : NodeId) (k : EventKind) (d : Half) : s.ChangesAt n [.events] (s.record n k d) :=
  s.mapHist_changes_events n _ (fun x => x.record_eq _ _ _ _) (fun _ hx => hx.record _ _ _ _)

theorem State.recordError_changes (s : State) (n : NodeId) (k : EventKind) : s.ChangesAt n [.events] (s.recordError n k) :=
  s.mapHist_changes_events n _ (fun x => x.recordError_eq _ _ _) (fun _ hx => hx.recordError _ _ _)

/-- A change of the history that leaves the ring as it is. -/
theorem State.mapHist_changes_ring (s : State) (n : NodeId) (f : History → History) (h : ∀ x, (f x).ring = x.ring) :
    s.ChangesAt n [.events, .index, .mark, .stream] (s.mapHist n f) :=
  s.mapHist_changes n f [.events, .index, .mark, .stream] (fun x p hp => by cases p <;> simp_all [Node.SamePart])

theorem State.mapHist_changes_all (s : State) (n : NodeId) (f : History → History) :
    s.ChangesAt n [.ring, .events, .index, .mark, .stream] (s.mapHist n f) :=
  s.mapHist_changes n f [.ring, .events, .index, .mark, .stream]

theorem History.oldest_le_clampOffset {h : History} (hle : h.oldest ≤ h.next) (o : Nat) :
    h.oldest ≤ h.clampOffset o ∧ h.clampOffset o ≤ h.next := by
  unfold History.clampOffset clamp
  split
  · omega
  · split <;> omega

theorem History.IndexLawful.setMark {h : History} (hl : h.IndexLawful) (mask boot : Half) (o : Nat) :
    (h.setMark mask boot o).IndexLawful := by
  refine History.IndexLawful.record ?_ mask boot .markSet 0
  obtain ⟨hle, _, hlen, hsorted, hbounds⟩ := hl
  refine ⟨hle, fun m hm => ?_, hlen, hsorted, hbounds⟩
  exact Option.some.inj hm ▸ h.oldest_le_clampOffset hle o

theorem State.setMark_changes (s : State) (n : NodeId) (o : Nat) : s.ChangesAt n [.events, .mark] (s.setMark n o) :=
  s.mapHist_changes_mark n _ (fun x => by rw [History.setMark, History.record_eq]) (fun _ hx => hx.setMark _ _ _)

/-! ### The line -/

section
variable (s : State) (n : NodeId)

theorem State.restartIdleGap_changes : s.ChangesAt n [.line] (s.restartIdleGap n) := s.mapLine_changes n _
theorem State.roomCheck_changes : s.ChangesAt n [.line] (s.roomCheck n) := s.mapLine_changes n _
theorem State.beginGap_changes : s.ChangesAt n [.line] (s.beginGap n) := s.mapLine_changes n _
theorem State.enterHunting_changes : s.ChangesAt n [.line] (s.enterHunting n) := s.mapLine_changes n _
theorem State.lineEntersCut_changes : s.ChangesAt n [.line] (s.lineEntersCut n) := s.mapLine_changes n _
theorem State.waitEdge_changes (b : Bool) : s.ChangesAt n [.line] (s.waitEdge n b) := s.mapLine_changes n _

theorem State.takeItem_changes : s.ChangesAt n [.line, .events] (s.takeItem n) := by
  unfold State.takeItem
  split
  · split
    · exact (s.mapLine_changes n _).next (State.roomCheck_changes _ n)
    · exact ((s.mapLine_changes n _).next (State.record_changes _ n _ _)).next (State.roomCheck_changes _ n)
        (rs := [.line, .events]) (hp := List.Subset.refl _)
    · exact .refl s n _
  · exact .refl s n _

theorem State.txFree_changes : s.ChangesAt n [.line, .events] (s.txFree n) :=
  (s.mapLine_changes n _).next (State.takeItem_changes _ n)

theorem State.startWaitingGap_changes : s.ChangesAt n [.line] (s.startWaitingGap n) := by
  unfold State.startWaitingGap
  split
  · exact s.beginGap_changes n
  · exact .refl s n _

theorem State.lockLine_changes (rate : Nat) : s.ChangesAt n [.line, .events] (s.lockLine n rate) :=
  (((s.mapLine_changes n _).next (State.record_changes _ n _ _) (rs := [.line, .events])).next
    (State.startWaitingGap_changes _ n) (rs := [.line, .events])).next (State.takeItem_changes _ n)

theorem State.completeWindow_changes (w : Window) (run : Nat) : s.ChangesAt n [.line, .events] (s.completeWindow n w run) := by
  unfold State.completeWindow
  split
  · exact s.lockLine_changes n _
  · exact (s.mapLine_changes n _).mono

theorem State.rearmLine_changes : s.ChangesAt n [.line] (s.rearmLine n) := by
  unfold State.rearmLine
  split
  · exact s.enterHunting_changes n
  · exact .refl s n _

theorem State.lossCheck_changes (b : Bool) : s.ChangesAt n [.line, .events] (s.lossCheck n b) := by
  unfold State.lossCheck
  split
  · exact .ite ((s.record_changes n _ _).next (State.enterHunting_changes _ n)) (s.mapLine_changes n _).mono
  · exact .refl s n _

theorem State.lineLeavesCut_changes : s.ChangesAt n [.line] (s.lineLeavesCut n) := by
  have hfirst : s.ChangesAt n [.line] (match (s.nd n).line.tx with
      | .floating (some r) => s.mapLine n (fun l => { l with tx := .brk (s.clock.ticks + r) })
      | _ => s.beginGap n) := by
    split
    · exact s.mapLine_changes n _
    · exact s.beginGap_changes n
  have hidle := hfirst.next (State.mapLine_changes _ n (fun l => { l with rx := .idle })) (rs := [.line])
  unfold State.lineLeavesCut
  dsimp only
  split
  · exact hidle.next (State.enterHunting_changes _ n)
  · exact hidle

/-! ### The monitor -/

theorem State.enterGrace_changes : s.ChangesAt n [.live] (s.enterGrace n) := s.mapLive_changes n _
theorem State.enterWatching_changes : s.ChangesAt n [.live] (s.enterWatching n) := s.mapLive_changes n _
theorem State.exhaust_changes (c : ExhaustCause) : s.ChangesAt n [.live] (s.exhaust n c) := s.mapLive_changes n _

theorem State.enterByCondition_changes : s.ChangesAt n [.live] (s.enterByCondition n) := by
  unfold State.enterByCondition
  split
  · exact s.enterGrace_changes n
  · exact s.mapLive_changes n _

theorem State.kick_changes (k : KickSource) : s.ChangesAt n [.live] (s.kick n k) := by
  unfold State.kick
  split
  · split
    · exact s.mapLive_changes n _
    · exact s.enterWatching_changes n
  · exact .refl s n _

theorem State.liveLeavesOn_changes : s.ChangesAt n [.live] (s.liveLeavesOn n) := by
  unfold State.liveLeavesOn
  split
  · exact s.mapLive_changes n _
  · exact .refl s n _

theorem State.liveBecomesOn_changes : s.ChangesAt n [.live] (s.liveBecomesOn n) := by
  unfold State.liveBecomesOn
  split
  · exact s.enterGrace_changes n
  · exact .refl s n _

theorem State.liveBoot_changes : s.ChangesAt n [.live] (s.liveBoot n) := by
  unfold State.liveBoot
  split
  · split
    · exact s.enterGrace_changes n
    · exact .refl s n _
  · exact .refl s n _

theorem State.recoveryReport_changes (b : Bool) : s.ChangesAt n [.live] (s.recoveryReport n b) := by
  unfold State.recoveryReport
  have hclear : s.ChangesAt n [.live] (s.mapLive n (fun l => { l with outstanding := false })) := s.mapLive_changes n _
  split
  · dsimp only
    split
    · split
      · exact hclear.next (State.exhaust_changes _ n _)
      · split
        · exact hclear.next (State.enterGrace_changes _ n)
        · exact hclear
    · exact hclear
  · exact .refl s n _

/-! ### Pages, entries and their lists -/

theorem State.givePage_changes (p : Nat) : s.ChangesAt n [.free] (s.givePage p) :=
  State.changesAt_of_nodes n rfl rfl (fun p _ => by cases p <;> simp_all [State.SamePart, State.givePage, State.nd, State.set])

theorem State.getPage_changes {s t : State} {p : Nat} (n : NodeId) (h : s.getPage = some (p, t)) :
    s.ChangesAt n [.free, .entries, .lru] t := by
  rw [State.getPage_frame h]
  exact State.changesAt_of_nodes n rfl rfl (fun p _ => by cases p <;> simp_all [State.SamePart, State.nd, State.set])

theorem State.shedOne_changes : s.ChangesAt n [.ring, .events, .index, .mark, .stream, .free] (State.shedOne n s) := by
  unfold State.shedOne
  split
  · exact .refl s n _
  · exact (s.mapHist_changes_all n _).next (State.givePage_changes _ n _)

theorem State.shedRing_changes : s.ChangesAt n [.ring, .events, .index, .mark, .stream, .free] (s.shedRing n) :=
  .times (fun s => s.shedOne_changes n) _ s

/-- A page joins the tail of a ring. -/
theorem State.addRingPage_changes (p : Nat) : s.ChangesAt n [.ring] (s.mapHist n (fun h => { h with ring := h.ring ++ [p] })) :=
  s.mapHist_changes n _ [.ring]

theorem State.growOne_changes : s.ChangesAt n [.ring, .free, .entries, .lru] (State.growOne n s) := by
  unfold State.growOne
  split
  · exact .refl s n _
  · next h => exact (State.getPage_changes n h).next (State.addRingPage_changes _ n _)

theorem State.growRing_changes : s.ChangesAt n [.ring, .free, .entries, .lru] (s.growRing n) :=
  .times (fun s => s.growOne_changes n) _ s

theorem State.entries_changes (es : List Entry) : s.ChangesAt n [.entries] { s with entries := es } :=
  State.changesAt_of_nodes n rfl rfl (fun p _ => by cases p <;> simp_all [State.SamePart, State.nd, State.set])

theorem State.entries_lru_changes (es : List Entry) (l : List Nat) :
    s.ChangesAt n [.entries, .lru] { s with entries := es, lru := l } :=
  State.changesAt_of_nodes n rfl rfl (fun p _ => by cases p <;> simp_all [State.SamePart, State.nd, State.set])

theorem State.mem_changes (m : Memory) : s.ChangesAt n [.mem] { s with mem := m } :=
  State.changesAt_of_nodes n rfl rfl (fun p _ => by cases p <;> simp_all [State.SamePart, State.nd, State.set])

theorem State.setEntry_changes (p : Nat) (st : EntryState) : s.ChangesAt n [.entries] (s.setEntry p st) :=
  s.entries_changes n _

theorem State.useEntry_changes (p : Nat) : s.ChangesAt n [.lru] (s.useEntry p) :=
  State.changesAt_of_nodes n rfl rfl (fun p _ => by cases p <;> simp_all [State.SamePart, State.useEntry, State.nd, State.set])

theorem State.freeEntry_changes (e : Entry) : s.ChangesAt e.node [.free, .entries, .lru, .cache] (s.freeEntry e) :=
  ((s.entries_lru_changes e.node _ _).next (State.mapCache_changes _ e.node _) (rs := [.entries, .lru, .cache])).next
    (State.givePage_changes _ e.node _)

theorem State.freeWhere_changes (f : Entry → Bool) : s.Changes [.free, .entries, .lru, .cache] (s.freeWhere f) :=
  .foldl (fun s e => (s.freeEntry_changes e).1) _ s

/-- Entries of one node are freed. -/
theorem State.freeWhere_changesAt {f : Entry → Bool} (h : ∀ e, f e = true → e.node = n) :
    s.ChangesAt n [.free, .entries, .lru, .cache] (s.freeWhere f) := by
  have hall (l : List Entry) (hl : ∀ e ∈ l, e.node = n) (s : State) :
      s.ChangesAt n [.free, .entries, .lru, .cache] (l.foldl State.freeEntry s) := by
    induction l generalizing s with
    | nil => exact .refl s n _
    | cons e l ih =>
      obtain ⟨he, hl⟩ := List.forall_mem_cons.1 hl
      exact (he ▸ s.freeEntry_changes e).next (ih hl _)
  exact hall _ (fun e he => h e (List.mem_filter.1 he).2) s

theorem State.newFilling_changes (lba p : Nat) : s.ChangesAt n [.entries, .cache] (s.newFilling n lba p) :=
  (s.entries_changes n _).next (State.mapCache_changes _ n _)

theorem State.newDirty_changes (lba p : Nat) : s.ChangesAt n [.entries, .cache] (s.newDirty n lba p) :=
  (s.entries_changes n _).next (State.mapCache_changes _ n _)

theorem State.makeDirty_changes (p : Nat) : s.ChangesAt n [.entries, .lru, .cache] (s.makeDirty n p) :=
  (s.entries_lru_changes n _ _).next (State.mapCache_changes _ n _)

theorem State.makeValid_changes (p : Nat) : s.ChangesAt n [.entries, .lru, .cache] (s.makeValid n p) :=
  (s.entries_lru_changes n _ _).next (State.mapCache_changes _ n _)

theorem State.fetchesSent_changes (tags : List Nat) : s.ChangesAt n [.entries, .cache] (s.fetchesSent n tags) :=
  (State.ChangesAt.foldl (fun s p => s.setEntry_changes n p _) tags s).next (State.mapCache_changes _ n _)

theorem State.writeOutHead_changes (p : Nat) : s.ChangesAt n [.entries, .cache] (s.writeOutHead n p) :=
  (s.setEntry_changes n p _).next (State.mapCache_changes _ n _)

theorem State.returnFlushing_changes : s.ChangesAt n [.entries, .cache] (s.returnFlushing n) :=
  (State.ChangesAt.foldl (fun s p => s.setEntry_changes n p _) _ s).next (State.mapCache_changes _ n _)

/-! ### Media -/

theorem State.mapSlot_changes (f : Medium → Medium) : s.ChangesAt n [.slot] (s.mapSlot n f) := s.mapMedia_changes n _ [.slot]
theorem State.slotTo_changes (st : SlotState) : s.ChangesAt n [.slot, .media] (s.slotTo n st) :=
  s.mapMedia_changes n _ [.slot, .media]
theorem State.answer_changes (st : NodeStatus) (d : PortData) : s.ChangesAt n [.media] (s.answer n st d) :=
  s.mapMedia_changes n _ [.media]
theorem State.endCommand_changes (st : NodeStatus) (d : PortData) : s.ChangesAt n [.current, .media] (s.endCommand n st d) :=
  s.mapMedia_changes n _ [.current, .media]
theorem State.slotAbsent_changes : s.ChangesAt n [.slot, .media] (s.slotAbsent n) := s.mapMedia_changes n _ [.slot, .media]
theorem State.mapCommand_changes (f : Command → Command) : s.ChangesAt n [.current] (s.mapCommand n f) :=
  s.mapMedia_changes n _ [.current]
theorem State.joinBlocks_changes : s.ChangesAt n [.current] (s.joinBlocks n) := s.mapMedia_changes n _ [.current]

theorem State.leaveReady_changes : s.ChangesAt n [.current, .media] (s.leaveReady n) := by
  unfold State.leaveReady
  split
  · exact s.endCommand_changes n _ _
  · exact .refl s n _

theorem State.tearDown_changes : s.ChangesAt n [.current, .media] (s.tearDown n) := by
  unfold State.tearDown
  split
  · exact s.mapMedia_changes n _ [.current, .media]
  · exact .refl s n _

/-- The parts of the media side of a node and of the pool that the operations of a slot write. -/
abbrev mediaParts : List Part := [.slot, .current, .media, .cache, .free, .entries, .lru]

theorem State.drainEnd_changes : s.ChangesAt n mediaParts (s.drainEnd n) := by
  unfold State.drainEnd
  split
  · exact .refl s n _
  · split
    · exact (s.freeWhere_changesAt n (by simp)).next (State.slotAbsent_changes _ n)
    · exact .refl s n _

theorem State.drain_changes : s.ChangesAt n mediaParts (s.drain n) := by
  unfold State.drain
  split
  · exact .refl s n _
  · next m hm =>
    split
    · exact .refl s n _
    · have hfreed := ((s.slotTo_changes n .withdrawing).next (State.leaveReady_changes _ n) (rs := mediaParts)).next
        (State.freeWhere_changesAt _ n (f := fun e => e.node == n && e.state.isFilling) (by simp +contextual)) (rs := mediaParts)
        (List.Subset.refl _)
      dsimp only
      split
      · exact (hfreed.next (State.returnFlushing_changes _ n) (rs := mediaParts) (List.Subset.refl _)).next
          (State.drainEnd_changes _ n) (List.Subset.refl _) (List.Subset.refl _)
      · exact hfreed.next (State.drainEnd_changes _ n) (List.Subset.refl _) (List.Subset.refl _)

theorem State.discard_changes : s.ChangesAt n mediaParts (s.discard n) :=
  ((s.leaveReady_changes n).next (State.freeWhere_changesAt _ n (by simp)) (rs := mediaParts)).next
    (State.slotAbsent_changes _ n)

theorem State.onceRule_changes : s.ChangesAt n mediaParts (s.onceRule n) := by
  unfold State.onceRule
  split
  · exact .refl s n _
  · split
    · exact .refl s n _
    · split
      · exact s.drain_changes n
      · exact .refl s n _

/-- The parts that a request for a FILLING entry writes. -/
abbrev requestParts : List Part := [.current, .cache, .free, .entries, .lru]

theorem State.serveRequest_changes {s t : State} (n : NodeId) (h : s.serveRequest n = some t) :
    s.ChangesAt n requestParts t := by
  rcases s.serveRequest_cases n with hnone | ⟨c, lba, p, u, -, -, -, hpage, hsome⟩
  · rw [hnone] at h; cases h
  · rw [hsome] at h; cases h
    exact ((State.getPage_changes n hpage).next (State.newFilling_changes _ n _ _) (rs := requestParts)).next
      (State.mapCommand_changes _ n _)

theorem State.serveRequests_changes (k : Nat) : s.ChangesAt n requestParts (State.serveRequests k n s) := by
  induction k generalizing s with
  | zero => exact .refl s n _
  | succ k ih =>
    unfold State.serveRequests
    split
    · exact .refl s n _
    · next h => exact (State.serveRequest_changes n h).next (ih _)

theorem State.fillList_changes : s.ChangesAt n requestParts (s.fillList n) :=
  (s.joinBlocks_changes n).next (State.serveRequests_changes _ n _)

theorem State.takeFree_changes {s t : State} {p : Nat} (n : NodeId) (h : s.takeFree = some (p, t)) :
    s.ChangesAt n [.free] t := by
  unfold State.takeFree at h
  split at h
  · cases h
  · cases h
    exact State.changesAt_of_nodes n rfl rfl (fun p _ => by cases p <;> simp_all [State.SamePart, State.nd, State.set])

theorem State.readAhead_changes (k lba : Nat) : s.ChangesAt n [.free, .entries, .cache] (State.readAhead k n lba s) := by
  induction k generalizing s lba with
  | zero => exact .refl s n _
  | succ k ih =>
    unfold State.readAhead
    split
    · exact .refl s n _
    · split
      · exact .refl s n _
      · split
        · exact ih _ _
        · split
          · exact ih _ _
          · split
            · exact .refl s n _
            · split
              · exact .refl s n _
              · next h =>
                exact ((State.takeFree_changes n h).next (State.newFilling_changes _ n _ _)
                  (rs := [.free, .entries, .cache])).next (ih _ _)

/-- The parts that serving the blocks of a READ writes. -/
abbrev readParts : List Part := [.current, .media, .cache, .free, .entries, .lru]

theorem State.endRead_changes (c : Command) (d : PortData) : s.ChangesAt n readParts (s.endRead n c d) := by
  unfold State.endRead
  dsimp only
  split
  · exact ((s.endCommand_changes n _ _).next (State.readAhead_changes _ n _ _) (rs := readParts)).next
      (State.mapMedia_changes _ n _ [.media])
  · exact (s.endCommand_changes n _ _).next (State.mapMedia_changes _ n _ [.media])

theorem State.delivered_changes (c : Command) (bytes : List Byte) : s.ChangesAt n readParts (s.delivered n c bytes) := by
  unfold State.delivered
  dsimp only
  split
  · exact (s.mapMedia_changes n _ [.current]).next (State.endRead_changes _ n _ _)
  · exact (s.mapMedia_changes n _ [.current, .media]).next (State.fillList_changes _ n)

theorem State.deliverFront_changes (c : Command) (p : BlockPlace) : s.ChangesAt n readParts (s.deliverFront n c p) := by
  unfold State.deliverFront
  split
  · exact s.delivered_changes n _ _
  · split
    · exact (s.mapCommand_changes n _).next (State.serveRequests_changes _ n _)
    · split
      · exact (s.mapCommand_changes n _).mono
      · exact (s.useEntry_changes n _).next (State.delivered_changes _ n _ _)
      · exact s.delivered_changes n _ _
      · exact s.delivered_changes n _ _

theorem State.writeTest_changes : s.ChangesAt n [.current, .media] (s.writeTest n) := by
  unfold State.writeTest
  split
  · exact .refl s n _
  · split
    · exact s.endCommand_changes n _ _
    · exact .refl s n _

theorem State.accepted_changes : s.ChangesAt n [.current, .media] (s.accepted n) :=
  ((s.mapMedia_changes n _ [.current, .media]).next (State.joinBlocks_changes _ n) (rs := [.current, .media])).next
    (State.writeTest_changes _ n)

theorem State.placeBlock_changes (lba p : Nat) (bytes : List Byte) : s.ChangesAt n [.slot, .mem] (s.placeBlock n lba p bytes) :=
  (s.mapSlot_changes n _).next (State.mem_changes _ n _)

/-- The parts that accepting a block of a WRITE writes. -/
abbrev writeParts : List Part := [.slot, .current, .media, .cache, .free, .entries, .lru, .mem]

theorem State.acceptNew_changes (lba : Nat) (bytes : List Byte) : s.ChangesAt n writeParts (s.acceptNew n lba bytes) := by
  unfold State.acceptNew
  split
  · exact .refl s n _
  · split
    · exact .refl s n _
    · next h =>
      exact (((State.getPage_changes n h).next (State.placeBlock_changes _ n _ _ _) (rs := writeParts)).next
        (State.newDirty_changes _ n _ _) (rs := writeParts) (List.Subset.refl _)).next (State.accepted_changes _ n)
        (List.Subset.refl _)

theorem State.acceptFront_changes (lba : Nat) (bytes : List Byte) : s.ChangesAt n writeParts (s.acceptFront n lba bytes) := by
  have hplaced (p : Nat) : s.ChangesAt n writeParts (s.placeBlock n lba p bytes) := (s.placeBlock_changes n lba p bytes).mono
  unfold State.acceptFront
  split
  · exact s.acceptNew_changes n _ _
  · split
    · exact (hplaced _).next (State.accepted_changes _ n) (List.Subset.refl _)
    · exact ((hplaced _).next (State.setEntry_changes _ n _ _) (rs := writeParts) (List.Subset.refl _)).next
        (State.accepted_changes _ n) (List.Subset.refl _)
    · split
      · exact .refl s n _
      · exact ((hplaced _).next (State.makeDirty_changes _ n _) (rs := writeParts) (List.Subset.refl _)).next
          (State.accepted_changes _ n) (List.Subset.refl _)

end

end Sys2Proof.Machine
end


section
/-! PROOFS. The parts that the operations of the Power Controller, the Watch Unit, the link and the resets change. -/

namespace Sys2Proof.Machine

set_option Elab.async false

section
variable (s : State) (n : NodeId)

/-! ### The Power Controller -/

/-- A change of the controller that leaves the action, its phase and the button lines as they are. -/
theorem State.mapPower_changes_power (f : Power → Power)
    (h : ∀ x, (f x).ctrl = x.ctrl ∧ (f x).btnPwr = x.btnPwr ∧ (f x).btnRst = x.btnRst ∧ (f x).diag = x.diag) :
    s.ChangesAt n [.power] (s.mapPower n f) :=
  s.mapPower_changes n f [.power] (fun x p hp => by obtain ⟨hc, hb, hr, hd⟩ := h x.power; cases p <;> simp_all [Node.SamePart])

theorem State.mapPower_changes_all (f : Power → Power) : s.ChangesAt n [.action, .power] (s.mapPower n f) :=
  s.mapPower_changes n f [.action, .power]

theorem State.powerNotice_changes : s.ChangesAt n [.power] (s.powerNotice n) :=
  s.mapPower_changes_power n _ (fun _ => ⟨rfl, rfl, rfl, rfl⟩)

theorem State.conditionChange_changes (old : Condition) (b : Bool) :
    s.ChangesAt n [.power, .line, .live] (s.conditionChange n old b) := by
  have hnotice := s.powerNotice_changes n
  have hline : s.ChangesAt n [.power, .line] (if s.condition n = .cut then (s.powerNotice n).lineEntersCut n
      else if old = .cut then (s.powerNotice n).lineLeavesCut n else s.powerNotice n) :=
    .ite (hnotice.next (State.lineEntersCut_changes _ n))
      (.ite (hnotice.next (State.lineLeavesCut_changes _ n)) hnotice.mono)
  unfold State.conditionChange
  exact .ite (.refl s n _) (.ite (hline.next (State.liveLeavesOn_changes _ n))
    (.ite (hline.next (State.liveBecomesOn_changes _ n)) hline.mono))

theorem State.assertFeedCut_changes : s.ChangesAt n [.events, .power, .line, .live] (s.assertFeedCut n) :=
  ((s.mapPower_changes_power n (fun p => { p with feedCut := true }) (fun _ => ⟨rfl, rfl, rfl, rfl⟩)).next
    (State.record_changes _ n .cut 0) (rs := [.events, .power])).next (State.conditionChange_changes _ n _ _)

theorem State.releaseFeedCut_changes : s.ChangesAt n [.power, .line, .live] (s.releaseFeedCut n) :=
  (s.mapPower_changes_power n (fun p => { p with feedCut := false }) (fun _ => ⟨rfl, rfl, rfl, rfl⟩)).next
    (State.conditionChange_changes _ n _ _)

theorem State.watchBoot_changes : s.ChangesAt n [.watch] (s.watchBoot n) := s.mapWatch_changes n _

/-- The parts that a boot event writes. -/
abbrev bootParts : List Part :=
  [.events, .power, .line, .watch, .live, .slot, .current, .media, .cache, .free, .entries, .lru]

theorem State.bootEvent_changes : s.ChangesAt n bootParts (s.bootEvent n) := by
  have hboot := (s.mapPower_changes_power n (fun p => { p with boot := p.boot + 1 }) (fun _ => ⟨rfl, rfl, rfl, rfl⟩)).next
    (State.record_changes _ n .boot 0) (rs := [.power, .events])
  have hline := (hboot.next (State.powerNotice_changes _ n) (rs := [.power, .events])).next (State.rearmLine_changes _ n)
    (rs := [.power, .events, .line])
  have hlive := (hline.next (State.watchBoot_changes _ n) (rs := [.power, .events, .line, .watch])).next
    (State.liveBoot_changes _ n) (rs := [.power, .events, .line, .watch, .live])
  exact hlive.next (State.onceRule_changes _ n)

theorem State.releaseButtons_changes : s.ChangesAt n [.action] (s.releaseButtons n) :=
  s.mapPower_changes n _ [.action]

theorem State.enterPhase_changes (a : Action) (ph : Phase) (ms : Nat) :
    s.ChangesAt n [.action, .power] (s.enterPhase n a ph ms) := s.mapPower_changes_all n _

theorem State.ctrlTo_changes (c : Controller) : s.ChangesAt n [.action] (s.ctrlTo n c) := s.mapPower_changes n _ [.action]

/-- The parts that an action of the Power Controller writes. -/
abbrev actionParts : List Part := [.events, .line, .action, .power, .live]

theorem State.beginOn_changes (a : Action) : s.ChangesAt n actionParts (s.beginOn n a).1 := by
  unfold State.beginOn
  dsimp only
  split
  · split
    · exact (s.releaseFeedCut_changes n).mono
    · exact (s.releaseFeedCut_changes n).next (State.enterPhase_changes _ n _ _ _)
  · split
    · exact .refl s n _
    · exact (s.enterPhase_changes n _ _ _).mono

theorem State.beginCut_changes (a : Action) : s.ChangesAt n actionParts (s.beginCut n a).1 := by
  unfold State.beginCut
  dsimp only
  split
  · exact (s.assertFeedCut_changes n).next (State.enterPhase_changes _ n _ _ _)
  · exact (s.assertFeedCut_changes n).mono

theorem State.beginDwell_changes (a : Action) : s.ChangesAt n [.action, .power] (s.beginDwell n a) :=
  s.enterPhase_changes n _ _ _

theorem State.firstStep_changes (a : Action) : s.ChangesAt n actionParts (s.firstStep n a).1 := by
  have hphase (a : Action) (ph : Phase) (ms : Nat) : s.ChangesAt n actionParts (s.enterPhase n a ph ms) :=
    (s.enterPhase_changes n a ph ms).mono
  unfold State.firstStep
  split
  · exact s.beginOn_changes n a
  · exact hphase _ _ _
  · exact hphase _ _ _
  · exact s.beginCut_changes n a
  · exact hphase _ _ _
  · exact hphase _ _ _
  · split
    · split
      · exact hphase _ _ _
      · exact hphase _ _ _
      · dsimp only
        split
        · exact (s.beginCut_changes n a).next (State.beginDwell_changes _ n a) (List.Subset.refl _)
        · exact s.beginCut_changes n a
    · exact hphase _ _ _

theorem State.startAction_changes (k : ActionKind) (src : Source) : s.ChangesAt n actionParts (s.startAction n k src).1 :=
  ((s.mapPower_changes_all n _).next (State.record_changes _ n _ _) (rs := actionParts)).next
    (State.firstStep_changes _ n _) (List.Subset.refl _) (List.Subset.refl _)

theorem State.reportEnd_changes (r : FinalRecord) : s.ChangesAt n [.live] (s.reportEnd n r) :=
  .ite (s.recoveryReport_changes n _) (.refl s n _)

theorem State.recordEnd_changes (r : FinalRecord) : s.ChangesAt n [.events, .power, .live] (s.recordEnd n r) :=
  (((s.record_changes n _ _).next (State.mapPower_changes_power _ n _ (fun x => by simp)) (rs := [.events, .power])).next
    (State.powerNotice_changes _ n) (rs := [.events, .power])).next (State.reportEnd_changes _ n _)

theorem State.finishLast_changes (a : Action) (r : ActionResult) : s.ChangesAt n actionParts (s.finishLast n a r) :=
  ((s.releaseButtons_changes n).next (State.ctrlTo_changes _ n _) (rs := actionParts)).next (State.recordEnd_changes _ n _)

theorem State.launch_changes (k : ActionKind) (src : Source) : s.ChangesAt n actionParts (s.launch n k src) := by
  have hstart := s.startAction_changes n k src
  unfold State.launch
  dsimp only
  split
  · split
    · exact hstart.next (State.finishLast_changes _ n _ _) (List.Subset.refl _) (List.Subset.refl _)
    · exact hstart
  · exact hstart

theorem State.comeUp_changes (q : Queued) : s.ChangesAt n actionParts (s.comeUp n q) :=
  .ite (s.launch_changes n _ _) (s.recordEnd_changes n _).mono

theorem State.finish_changes (r : ActionResult) : s.ChangesAt n actionParts (s.finish n r) := by
  unfold State.finish
  split
  · dsimp only
    split
    · exact s.finishLast_changes n _ _
    · exact (s.finishLast_changes n _ _).next (State.comeUp_changes _ n _) (List.Subset.refl _) (List.Subset.refl _)
  · exact .refl s n _

theorem State.lock_changes (c : LockCause) : s.ChangesAt n actionParts (s.lock n c) := by
  unfold State.lock
  split
  · next a q ab _ =>
    have hended := (((s.releaseButtons_changes n).next (State.ctrlTo_changes _ n (.locked c)) (rs := actionParts)).next
      (State.recordEnd_changes _ n (a.final .failed (some c))) (rs := actionParts) (List.Subset.refl _)).next
      (State.recoveryReport_changes _ n true) (rs := actionParts) (List.Subset.refl _)
    dsimp only
    split
    · exact hended
    · exact hended.next (State.recordEnd_changes _ n _) (List.Subset.refl _)
  · exact .refl s n _

theorem State.submit_changes (k : ActionKind) (src : Source) : s.ChangesAt n actionParts (s.submit n k src) := by
  unfold State.submit
  split
  · exact s.launch_changes n _ _
  · exact (s.mapPower_changes_all n _).mono
  · exact .refl s n _

theorem State.escalate_changes (a : Action) : s.ChangesAt n actionParts (s.escalate n a) :=
  (s.enterPhase_changes n _ _ _).mono

theorem State.settleEnds_changes (a : Action) : s.ChangesAt n actionParts (s.settleEnds n a) :=
  (s.enterPhase_changes n _ _ _).mono

theorem State.pressEnds_changes (a : Action) : s.ChangesAt n actionParts (s.pressEnds n a) :=
  .ite (s.finish_changes n _) (.ite (s.enterPhase_changes n _ _ _).mono (s.enterPhase_changes n _ _ _).mono)

theorem State.holdEnds_changes (a : Action) : s.ChangesAt n actionParts (s.holdEnds n a) :=
  .ite (s.finish_changes n _) (s.enterPhase_changes n _ _ _).mono

theorem State.awaitDownExpires_changes (a : Action) : s.ChangesAt n actionParts (s.awaitDownExpires n a) :=
  .ite (s.lock_changes n _) (.ite (s.escalate_changes n a) (s.finish_changes n _))

theorem State.dwellExpires_changes (a : Action) : s.ChangesAt n actionParts (s.dwellExpires n a) :=
  .ite ((s.beginOn_changes n a).next (State.finish_changes _ n _) (List.Subset.refl _) (List.Subset.refl _))
    (s.beginOn_changes n a)

/-- The parts that a boot event and the end of an action write. -/
abbrev powerParts : List Part :=
  [.events, .line, .action, .power, .live, .watch, .slot, .current, .media, .cache, .free, .entries, .lru]

theorem State.pulseEnds_changes (a : Action) : s.ChangesAt n powerParts (s.pulseEnds n a) := by
  have hreleased : s.ChangesAt n powerParts (s.releaseButtons n) := (s.releaseButtons_changes n).mono
  have hboot : s.ChangesAt n powerParts (if a.kind = .reset then (s.releaseButtons n).bootEvent n else s.releaseButtons n) :=
    .ite (hreleased.next (State.bootEvent_changes _ n) (List.Subset.refl _)) hreleased
  exact hboot.next (State.finish_changes _ n _) (List.Subset.refl _)

theorem State.actionRise_changes : s.ChangesAt n actionParts (s.actionRise n) := by
  unfold State.actionRise
  split
  · exact .ite (.ite (s.finish_changes n _) (.ite ((s.releaseFeedCut_changes n).next (State.finish_changes _ n _)
      (hq := List.Subset.refl _)) (s.finish_changes n _))) (.refl s n _)
  · exact .refl s n _

theorem State.actionFall_changes : s.ChangesAt n actionParts (s.actionFall n) := by
  unfold State.actionFall
  split
  · exact .ite (.ite (s.finish_changes n _) (.ite (s.lock_changes n _) (.ite (s.beginDwell_changes n _).mono
      (s.finish_changes n _)))) (.refl s n _)
  · exact .refl s n _

theorem State.initialPg_changes (high : Bool) : s.ChangesAt n [.events, .power, .line, .live] (s.initialPg n high) := by
  have hpg := s.mapPower_changes_power n (fun p => { p with pg := if high then .high else .low, debounce := none })
    (fun _ => ⟨rfl, rfl, rfl, rfl⟩)
  exact ((State.ChangesAt.ite (hpg.next (State.record_changes _ n .pgUp 0) (rs := [.power, .events])) hpg.mono).next
    (State.powerNotice_changes _ n) (rs := [.power, .events])).next (State.conditionChange_changes _ n _ _)

theorem State.pgRise_changes : s.ChangesAt n powerParts (s.pgRise n) := by
  have hup := ((s.mapPower_changes_power n (fun p => { p with pg := .high, debounce := none })
    (fun _ => ⟨rfl, rfl, rfl, rfl⟩)).next (State.record_changes _ n .pgUp 0) (rs := [.power, .events])).next
    (State.powerNotice_changes _ n) (rs := [.power, .events])
  exact ((hup.next (State.conditionChange_changes _ n _ _) (rs := powerParts)).next (State.bootEvent_changes _ n)
    (rs := powerParts) (List.Subset.refl _)).next (State.actionRise_changes _ n) (List.Subset.refl _)

theorem State.pgFall_changes : s.ChangesAt n powerParts (s.pgFall n) := by
  have hdown := ((s.mapPower_changes_power n (fun p => { p with pg := .low, debounce := none })
    (fun _ => ⟨rfl, rfl, rfl, rfl⟩)).next (State.record_changes _ n .pgDown 0) (rs := [.power, .events])).next
    (State.powerNotice_changes _ n) (rs := [.power, .events])
  exact (hdown.next (State.conditionChange_changes _ n _ _) (rs := powerParts)).next (State.actionFall_changes _ n)
    (List.Subset.refl _)

theorem State.debounceTo_changes (d : Option Nat) : s.ChangesAt n [.power] (s.mapPower n (fun p => { p with debounce := d })) :=
  s.mapPower_changes_power n _ (fun _ => ⟨rfl, rfl, rfl, rfl⟩)

theorem State.acceptPg_changes : s.ChangesAt n powerParts (s.acceptPg n) := by
  unfold State.acceptPg
  dsimp only
  split
  · exact (s.initialPg_changes n _).mono
  · exact .ite (s.pgRise_changes n) (s.debounceTo_changes n _).mono
  · exact .ite (s.debounceTo_changes n _).mono (s.pgFall_changes n)

theorem State.debouncePg_changes : s.ChangesAt n powerParts (s.debouncePg n) :=
  .ite (.ite (s.acceptPg_changes n) (s.debounceTo_changes n _).mono) (s.debounceTo_changes n _).mono

theorem State.warn_changes : s.ChangesAt n actionParts (s.warn n) := by
  have hwarned := s.mapLive_changes n (fun l =>
    { Live.enter (.warned (s.after (s.set n).live.warn)) l with warnings := min 255 (l.warnings + 1) })
  unfold State.warn
  dsimp only
  split
  · exact hwarned.mono
  · exact hwarned.next (State.submit_changes _ n _ _) (hq := List.Subset.refl _)

theorem State.defer_changes : s.ChangesAt n [.live] (s.defer n) :=
  (s.mapLive_changes n _).next (State.enterGrace_changes _ n)

theorem State.recover_changes (k : ActionKind) : s.ChangesAt n (.count :: actionParts) (s.recover n k) :=
  (s.mapLive_changes_all n _).next (State.submit_changes _ n _ _) (hq := List.subset_cons_self _ _)

theorem State.warnExpires_changes : s.ChangesAt n (.count :: actionParts) (s.warnExpires n) := by
  have hdecide (k : ActionKind) : s.ChangesAt n (.count :: actionParts) (State.warnExpires.decide_ s n k) := by
    unfold State.warnExpires.decide_
    split
    · exact (s.exhaust_changes n _).mono
    · exact (s.defer_changes n).mono
    · exact s.recover_changes n k
  unfold State.warnExpires
  split
  · exact (s.exhaust_changes n _).mono
  · split
    · exact (s.exhaust_changes n _).mono
    · exact hdecide _
    · exact hdecide _

/-! ### The notices -/

theorem State.send_changes (f : Frame) (b : Bool) : s.ChangesAt n [.link] (s.send f b) := s.mapLink_changes n _
theorem State.sendNotice_changes (m : NodeId) (k : Byte) (p : List Byte) : s.ChangesAt n [.link] (s.sendNotice m k p) :=
  s.send_changes n _ _

theorem map_offset_modify (l : List Event) (i : Nat) (f : Event → Event) (h : ∀ e, (f e).offset = e.offset) :
    (l.modify i f).map Event.offset = l.map Event.offset := by
  refine List.ext_getElem? (fun j => ?_)
  simp only [List.getElem?_map, List.getElem?_modify]
  cases l[j]? <;> simp
  split <;> simp [h]

theorem markSent_offsets (k : Nat) (l : List Event) : (markSent k l).map Event.offset = l.map Event.offset := by
  induction l generalizing k with
  | nil => cases k <;> rfl
  | cons e es ih =>
    cases k with
    | zero => rfl
    | succ k =>
      unfold markSent
      split <;> simp [ih]

theorem State.buildStateNotice_changes (k : StateNotice) :
    s.ChangesAt n [.link, .power, .live, .media, .events, .line] (s.buildStateNotice n k) := by
  cases k with
  | pwr => exact (s.sendNotice_changes n _ _ _).next (State.mapPower_changes_power _ n _ (fun _ => ⟨rfl, rfl, rfl, rfl⟩))
  | liv => exact (s.sendNotice_changes n _ _ _).next (State.mapLive_changes _ n _)
  | med => exact (s.sendNotice_changes n _ _ _).next (State.mapMedia_changes _ n _ [.media])
  | evt =>
    exact (s.sendNotice_changes n _ _ _).next
      (State.mapHist_changes_events _ n _ (fun _ => rfl) (fun _ hx => hx.of_offsets (markSent_offsets 8 _)))
  | room => exact (s.sendNotice_changes n _ _ _).next (State.mapLine_changes _ n _)

theorem State.buildBulk_changes (b : Bulk) :
    s.ChangesAt n [.link, .events, .index, .mark, .stream, .entries, .cache] (s.buildBulk n b) := by
  cases b with
  | fetch => exact (s.sendNotice_changes n _ _ _).next (State.fetchesSent_changes _ n _)
  | data =>
    exact (s.sendNotice_changes n _ _ _).next (State.mapHist_changes_ring _ n _ (fun _ => rfl))
  | writeOut =>
    show s.ChangesAt n _ (s.buildWriteOut n)
    unfold State.buildWriteOut
    split
    · exact .refl s n _
    · exact (s.sendNotice_changes n _ _ _).next (State.writeOutHead_changes _ n _)

/-- The parts that a grant of the arbiter writes. -/
abbrev grantParts : List Part := [.link, .power, .live, .media, .events, .line, .index, .mark, .stream, .entries, .cache]

theorem State.grantNotice_changes (k : Nat) (s : State) : s.Changes grantParts (State.grantNotice k s) := by
  induction k generalizing s with
  | zero => exact .refl s _
  | succ k ih =>
    unfold State.grantNotice
    split
    · next m j _ =>
      have hserved := (s.mapLink_changes m (fun l => l.stateServed m j)).1
      exact .ite (Changes.next (hserved.next (State.mapHist_changes_events _ m _ (fun _ => rfl) (fun _ hx => hx.of_offsets rfl)).1
        (rs := grantParts)) (ih _)
        (List.Subset.refl _) (List.Subset.refl _)) (hserved.next (State.buildStateNotice_changes _ m j).1)
    · split
      · next b m _ => exact ((s.mapLink_changes m _).next (State.buildBulk_changes _ m b)).1
      · exact .refl s _

theorem State.grant_changes (s : State) : s.Changes grantParts s.grant := by
  unfold State.grant
  split
  · exact (s.send_changes .n0 _ _).1.mono
  · exact .ite (.refl s _) (.ite ((s.mapLink_changes .n0 _).next (State.send_changes _ .n0 _ _)).1 (s.grantNotice_changes _))

/-! ### Resets -/

theorem State.partReset_keeps (s : State) (c : ResetCause) (d : Bool) :
    (s.partReset c d).mem = s.mem ∧ (s.partReset c d).pauses = s.pauses ∧ (s.partReset c d).pending = s.pending :=
  ⟨rfl, rfl, rfl⟩

/-- The parts that a part reset writes. -/
abbrev resetParts : List Part :=
  [.reset, .clock, .fref, .quota, .lineSet, .delivery, .watchSet, .timings, .liveSet, .tuning, .line, .ring, .events, .index, .mark, .stream,
    .watch, .slot, .current, .media, .cache, .action, .power, .live, .count, .free, .entries, .lru, .link, .store]

theorem State.partReset_changes (c : ResetCause) (d : Bool) : s.Changes resetParts (s.partReset c d) := by
  intro p hp; cases p <;> simp_all [State.SamePart, State.partReset]

theorem State.startLine_changes : s.ChangesAt n [.line] (s.startLine n) := s.mapLine_changes n _
theorem State.startLive_changes : s.ChangesAt n [.live, .count] (s.startLive n) := s.mapLive_changes_all n _

/-- The parts that the start of a node writes. -/
abbrev startNodeParts : List Part := .ring :: .count :: powerParts

theorem State.startNode_changes : s.ChangesAt n startNodeParts (s.startNode n) :=
  (((s.startLine_changes n).next (State.growRing_changes _ n) (rs := startNodeParts)).next (State.startLive_changes _ n)
    (rs := startNodeParts) (List.Subset.refl _)).next (State.debouncePg_changes _ n) (List.Subset.refl _)
    (List.subset_cons_of_subset _ (List.subset_cons_self _ _))

/-- The state in which START_UP starts the nodes: straps and settings are taken (R191, steps 1 to 3). -/
def State.settled (s : State) (straps : BitVec 2) : State :=
  { s with
    held := false
    restartDefaults := false
    linkRate := LinkRate.ofStraps straps
    cfg := s.loaded.1
    store := { s.store with source := s.loaded.2 } }

theorem State.startUp_eq (b : BitVec 2) :
    s.startUp b = (NodeId.all.foldl State.startNode (s.settled b)).mapLink (fun l => { l with readyPending := true }) := by
  unfold State.startUp State.settled; rfl

theorem State.settled_changes (b : BitVec 2) : s.Changes resetParts (s.settled b) := by
  intro p hp; cases p <;> simp_all [State.SamePart, State.settled]

theorem State.startUp_changes (b : BitVec 2) : s.Changes resetParts (s.startUp b) := by
  rw [State.startUp_eq]
  exact ((s.settled_changes b).next (State.Changes.foldl (fun s n => (s.startNode_changes n).1) NodeId.all _)
    (rs := resetParts) (List.Subset.refl _)).next (State.mapLink_changes _ .n0 _).1 (List.Subset.refl _)

/-! ### The Watch Unit and a byte of the console -/

theorem State.mapPlace_changes (i : Nat) (f : Place → Place) : s.ChangesAt n [.watch] (s.mapPlace n i f) :=
  s.mapWatch_changes n _
theorem State.clearProgress_changes : s.ChangesAt n [.watch] (s.clearProgress n) := s.mapWatch_changes n _

/-- The parts that the hits of the Watch Unit write. -/
abbrev watchParts : List Part :=
  [.events, .mark, .line, .watch, .action, .power, .live, .slot, .current, .media, .cache, .free, .entries, .lru]

theorem State.dropPower_changes : s.ChangesAt n [.events] (s.mapHist n History.dropPower) :=
  s.mapHist_changes_events n History.dropPower (fun _ => rfl)
    (fun _ hx => hx.of_offsets (map_offset_modify _ _ _ (fun _ => rfl)))

theorem State.watchAction_changes (len : Nat) (a : WatchAction) : s.ChangesAt n watchParts (s.watchAction n len a) := by
  cases a with
  | notice => exact .refl s n _
  | mark => exact (s.setMark_changes n _).mono
  | kick => exact (s.kick_changes n _).mono
  | power k => exact .ite (s.submit_changes n _ _).mono (s.dropPower_changes n).mono
  | detach => exact (s.drain_changes n).mono

theorem State.takeHit_changes (i : Nat) : s.ChangesAt n watchParts (s.takeHit n i) := by
  unfold State.takeHit
  split
  · exact .refl s n _
  · next p _ =>
    have hrecord := s.record_changes n .watchHit (BitVec.ofNat 16 i)
    exact .ite hrecord.mono ((State.ChangesAt.ite (hrecord.next (State.mapPlace_changes _ n i _) (rs := [.events, .watch]))
      hrecord.mono).next (State.watchAction_changes _ n _ _) (hq := List.Subset.refl _))

theorem State.watchByte_changes (b : Byte) : s.ChangesAt n watchParts (s.watchByte n b) :=
  (s.mapWatch_changes n _).next (.foldl (fun s i => s.takeHit_changes n i) _ _) (hq := List.Subset.refl _)

theorem State.recycle_changes : s.ChangesAt n [.ring, .events, .index, .mark, .stream] (s.recycle n) := s.mapHist_changes_all n _

theorem State.makeRoom_changes : s.ChangesAt n [.ring, .events, .index, .mark, .stream, .free, .entries, .lru] (s.makeRoom n) := by
  unfold State.makeRoom
  refine .ite (.ite ?_ (s.recycle_changes n).mono) (.refl s n _)
  split
  · next h => exact (State.getPage_changes n h).next (State.addRingPage_changes _ n _)
  · exact (s.recycle_changes n).mono

theorem State.writeHistory_changes (b : Byte) : s.ChangesAt n [.mem] (s.writeHistory n b) := by
  unfold State.writeHistory
  split
  · exact s.mem_changes n _
  · exact .refl s n _

/-- The parts that storing a byte writes. -/
abbrev storeParts : List Part := [.ring, .events, .index, .mark, .stream, .free, .entries, .lru, .mem]

theorem State.storeByte_changes (b : Byte) (f p : Bool) : s.ChangesAt n storeParts (s.storeByte n b f p) := by
  have hroom : s.ChangesAt n storeParts (s.makeRoom n) := (s.makeRoom_changes n).mono
  have herror {t : State} (h : s.ChangesAt n storeParts t) (c : Bool) (k : EventKind) :
      s.ChangesAt n storeParts (if c then t.recordError n k else t) :=
    .ite (h.next (State.recordError_changes _ n _) (List.Subset.refl _)) h
  exact ((herror (herror hroom f .framing) p .parity).next (State.writeHistory_changes _ n b) (rs := storeParts)
    (List.Subset.refl _)).next (State.mapHist_changes_all _ n _) (List.Subset.refl _)

/-- The parts that a received character writes. -/
abbrev byteParts : List Part :=
  [.ring, .events, .index, .mark, .stream, .line, .watch, .action, .power, .live, .slot, .current, .media, .cache, .free, .entries, .lru, .mem]

theorem State.handOn_changes (b : Byte) (f p : Bool) : s.ChangesAt n byteParts (s.handOn n b f p) :=
  ((((s.restartIdleGap_changes n).next (State.storeByte_changes _ n b f p) (rs := byteParts)).next
    (State.watchByte_changes _ n b) (rs := byteParts) (List.Subset.refl _)).next (State.kick_changes _ n _) (rs := byteParts)
    (List.Subset.refl _)).next (State.lossCheck_changes _ n f) (List.Subset.refl _)

theorem State.receiveBreak_changes : s.ChangesAt n [.line, .events, .watch] (s.receiveBreak n) :=
  ((s.mapLine_changes n _).next (State.record_changes _ n _ _) (rs := [.line, .events])).next (State.clearProgress_changes _ n)

theorem State.receiveCharacter_changes (d : Byte) (p b : Bool) : s.ChangesAt n byteParts (s.receiveCharacter n d p b) :=
  .ite (s.receiveBreak_changes n).mono ((s.mapLine_changes n _).next (State.handOn_changes _ n _ _ _) (hq := List.Subset.refl _))

end

end Sys2Proof.Machine
end


section
/-! PROOFS. The parts that each command changes, and the first laws that follow from them: every command completes (O2), and the
buffer memory stays in its canonical form (O5). -/

namespace Sys2Proof.Machine

set_option Elab.async false

/-! ### What carrying out a request changes, before its reply -/

section
variable (s : State) (n : NodeId) (p : List Byte)

theorem State.save_changes (tag node : Byte) : s.Changes [.store] (s.save tag node).state := by
  unfold State.save
  split
  · exact .refl s _
  · intro p hp; cases p <;> simp_all [State.SamePart, State.nd, State.set]

theorem State.takeRestart_changes : s.Changes [.link] (s.takeRestart p).state := by
  unfold State.takeRestart
  split
  · exact .refl s _
  · exact (s.mapLink_changes .n0 _).1

theorem State.setQuotas_changes (q : PerNode Quota) : s.Changes [.quota] (s.setQuotas q) :=
  .foldl (fun s n => (s.mapSet_changes n (fun x => { x with quota := q.get n }) [.quota]).1) _ s

/-- The parts that new quotas write. -/
abbrev poolParts : List Part := [.quota, .ring, .events, .index, .mark, .stream, .free, .entries, .lru]

theorem State.applyQuotas_changes : s.Changes [.ring, .events, .index, .mark, .stream, .free, .entries, .lru] s.applyQuotas :=
  (State.Changes.foldl (fun s n => (s.shedRing_changes n).1) _ s).next
    (State.Changes.foldl (fun s n => (s.growRing_changes n).1) _ _)

theorem State.setPool_state : (s.setPool p).state =
    if (quotasOf p).validQuotas then (s.setQuotas (quotasOf p)).applyQuotas else s := by
  by_cases h : (quotasOf p).validQuotas = true
  · simp only [State.setPool, State.answers, h, if_true]
  · simp only [State.setPool, State.answers, h, if_false, Bool.false_eq_true]

theorem State.setPool_changes : s.Changes poolParts (s.setPool p).state := by
  rw [State.setPool_state]
  exact .ite ((s.setQuotas_changes _).next (State.applyQuotas_changes _)) (.refl s _)

theorem State.recomputedLine_changes (old : State) : s.ChangesAt n [.line] (State.recomputedLine old s n) :=
  .ite (.refl s n _) (s.restartIdleGap_changes n)

theorem State.setFref_changes (f : Nat) : s.Changes [.fref, .clock] (s.setFref f) := by
  intro p hp; cases p <;> simp_all [State.SamePart, State.setFref, State.nd, State.set]

theorem State.setClock_changes : s.Changes [.fref, .clock, .line] (s.setClock p).state :=
  (s.setFref_changes _).next (State.Changes.foldl (fun t n => (t.recomputedLine_changes n s).1) NodeId.all _)

theorem State.applyLine_changes (x : LineSettings) :
    s.ChangesAt n [.lineSet, .line, .watch, .events] (s.applyLine n x) :=
  (((((s.mapSet_changes n (fun y => { y with line := x }) [.lineSet]).next (State.mapLine_changes _ n _)
    (rs := [.lineSet, .line])).next (State.clearProgress_changes _ n) (rs := [.lineSet, .line, .watch])).next
    (State.restartIdleGap_changes _ n) (rs := [.lineSet, .line, .watch])).next (State.startWaitingGap_changes _ n)
    (rs := [.lineSet, .line, .watch])).next (State.takeItem_changes _ n)

theorem State.setLine_changes : s.ChangesAt n [.lineSet, .line, .watch, .events] (s.setLine n p).state := by
  unfold State.setLine
  split
  · exact .refl s n _
  · exact s.applyLine_changes n _

theorem State.appendItems_changes (l : List TxItem) : s.ChangesAt n [.line] (s.appendItems n l) := s.mapLine_changes n _

theorem State.wantRoom_changes (b : Bool) : s.ChangesAt n [.line] (s.wantRoom n b) :=
  .ite ((s.mapLine_changes n _).next (State.roomCheck_changes _ n)) (.refl s n _)

theorem State.writeConsole_changes : s.ChangesAt n [.line, .events] (s.writeConsole n p).state :=
  ((s.appendItems_changes n _).next (State.wantRoom_changes _ n _) (rs := [.line])).next (State.takeItem_changes _ n)

theorem State.queueBreak_changes : s.ChangesAt n [.line, .events] (s.queueBreak n p).state := by
  unfold State.queueBreak
  dsimp only
  split
  · exact (s.wantRoom_changes n _).mono
  · exact ((s.appendItems_changes n _).next (State.wantRoom_changes _ n _) (rs := [.line])).next (State.takeItem_changes _ n)

theorem State.endBreak_changes : s.ChangesAt n [.line] (s.endBreak n) := by
  rw [State.endBreak_eq]; exact s.mapLine_changes n _

theorem State.flushConsole_changes : s.ChangesAt n [.line] (s.flushConsole n).state :=
  ((s.mapLine_changes n _).next (State.endBreak_changes _ n) (rs := [.line])).next (State.roomCheck_changes _ n)

theorem State.readConsole_changes : (s.readConsole n p).state = s := by
  unfold State.readConsole; dsimp only; split <;> rfl

theorem State.markConsole_changes : s.ChangesAt n [.events, .mark] (s.markConsole n p).state := by
  unfold State.markConsole
  dsimp only
  split
  · exact s.mapHist_changes_mark n _ (fun _ => rfl)
      (fun x ⟨hle, _, hrest⟩ => ⟨hle, fun m hm => Option.noConfusion rfl (heq_of_eq hm), hrest⟩)
  · exact s.setMark_changes n _

theorem State.readEvents_changes : (s.readEvents n p).state = s := by
  unfold State.readEvents; dsimp only; split <;> rfl

theorem State.applyDelivery_changes (d : DeliverySettings) (c : StartChoice) :
    s.ChangesAt n [.delivery, .line, .events, .index, .mark, .stream] (s.applyDelivery n d c) := by
  have hset := s.mapSet_changes n (fun x => { x with delivery := d }) [.delivery]
  have hgap : s.ChangesAt n [.delivery, .line, .events, .index, .mark, .stream]
      (if d.gap = (s.set n).delivery.gap then s.mapSet n (fun x => { x with delivery := d })
      else ((s.mapSet n (fun x => { x with delivery := d })).restartIdleGap n).mapHist n (fun h => { h with lineIdle := false })) :=
    .ite hset.mono ((hset.next (State.restartIdleGap_changes _ n) (rs := [.delivery, .line])).next
      (State.mapHist_changes_ring _ n _ (fun _ => rfl)))
  exact hgap.next (State.mapHist_changes_ring _ n _ (fun x => by unfold History.applyFollow; split <;> rfl))
    (List.Subset.refl _)

theorem State.setDelivery_changes : s.ChangesAt n [.delivery, .line, .events, .index, .mark, .stream] (s.setDelivery n p).state := by
  unfold State.setDelivery
  split
  · exact s.applyDelivery_changes n _ _
  · exact .refl s n _

theorem State.applyWatch_changes (i : Nat) (x : Option Pattern) : s.ChangesAt n [.watchSet, .watch] (s.applyWatch n i x) :=
  (s.mapSet_changes n _ [.watchSet]).next (State.mapPlace_changes _ n _ _)

theorem State.setWatch_changes : s.ChangesAt n [.watchSet, .watch] (s.setWatch n p).state := by
  unfold State.setWatch
  dsimp only
  split
  · exact .refl s n _
  · split
    · exact s.applyWatch_changes n _ _
    · exact .refl s n _

theorem State.attach_changes : s.ChangesAt n [.slot, .media] (s.attach n p).state := by
  unfold State.attach
  split
  · exact .refl s n _
  · split
    · exact .refl s n _
    · exact s.mapMedia_changes n _ [.slot, .media]

theorem State.detach_changes : s.ChangesAt n mediaParts (s.detach n p).state := by
  unfold State.detach
  split
  · exact .refl s n _
  · exact .refl s n _
  · exact s.drain_changes n
  · exact s.discard_changes n

/-- The parts that a fill writes. -/
abbrev fillParts : List Part := [.current, .cache, .entries, .lru, .mem]

theorem State.fill_changes (e : Entry) (d : List Byte) : s.ChangesAt n fillParts (s.fill n e d) := by
  have hvalid : s.ChangesAt n fillParts (({ s with mem := s.mem.writePage e.page d } : State).makeValid n e.page) :=
    (s.mem_changes n _).next (State.makeValid_changes _ n _)
  exact .ite (hvalid.next (State.mapCommand_changes _ n _) (List.Subset.refl _)) hvalid

theorem State.takeFill_changes : s.ChangesAt n fillParts (s.takeFill n p).state := by
  unfold State.takeFill
  dsimp only
  split
  · exact .refl s n _
  · split
    · exact .refl s n _
    · exact s.fill_changes n _ _

/-- The parts that a failed fetch writes. -/
abbrev failParts : List Part := [.current, .media, .cache, .free, .entries, .lru]

theorem State.failFill_changes (e : Entry) (st : NodeStatus) : s.ChangesAt e.node failParts (s.failFill e st) :=
  .ite ((s.freeEntry_changes e).next (State.endCommand_changes _ _ _ _)) (s.freeEntry_changes e).mono

theorem State.takeFillFail_changes : s.Changes failParts (s.takeFillFail n p).state := by
  unfold State.takeFillFail
  dsimp only
  split
  · exact .refl s _
  · split
    · exact .refl s _
    · exact (s.failFill_changes _ _).1

theorem State.storedBlock_changes (lba : Nat) : s.ChangesAt n [.current] (s.storedBlock n lba) := s.mapCommand_changes n _

theorem State.resolveFront_changes : s.ChangesAt n [.current, .cache, .entries, .lru] (State.resolveFront n s) := by
  unfold State.resolveFront
  split
  · exact .refl s n _
  · split
    · exact .refl s n _
    · split
      · exact .ite (s.makeDirty_changes n _).mono ((s.makeValid_changes n _).next (State.storedBlock_changes _ n _))
      · exact .refl s n _

/-- The parts that a store timeout writes. -/
abbrev timeoutParts : List Part := [.slot, .current, .media, .cache, .entries]

theorem State.storeTimesOut_changes : s.ChangesAt n timeoutParts (s.storeTimesOut n) := by
  unfold State.storeTimesOut
  split
  · exact .refl s n _
  · split
    · exact (s.slotTo_changes n _).next (State.leaveReady_changes _ n)
    · exact (s.returnFlushing_changes n).mono
    · exact .refl s n _

theorem State.overdue_changes : s.ChangesAt n timeoutParts (s.overdue n) := by
  unfold State.overdue
  split
  · exact .ite (s.storeTimesOut_changes n) (.refl s n _)
  · exact .refl s n _

theorem State.resolve_changes (k : Nat) : s.ChangesAt n mediaParts (s.resolve n k) :=
  (((State.ChangesAt.times (fun s => s.resolveFront_changes n) k s).next (State.overdue_changes _ n) (rs := mediaParts)).next
    (State.writeTest_changes _ n) (rs := mediaParts) (List.Subset.refl _)).next (State.drainEnd_changes _ n)
    (List.Subset.refl _) (List.Subset.refl _)

theorem State.takeStored_changes : s.ChangesAt n mediaParts (s.takeStored n p).state := by
  unfold State.takeStored
  split
  · exact .refl s n _
  · exact .refl s n _
  · exact .refl s n _
  · exact s.resolve_changes n _

/-- The parts that a new zero or protect table writes. -/
abbrev extentParts : List Part := [.slot, .current, .cache, .free, .entries, .lru]

theorem State.setZero_changes (old l : List Range) : s.ChangesAt n extentParts (s.setZero n old l) :=
  (((s.mapSlot_changes n _).next (State.freeWhere_changesAt _ n (by simp +contextual [Entry.inside])) (rs := extentParts)).next
    (State.mapCommand_changes _ n _) (rs := extentParts) (List.Subset.refl _)).next (State.serveRequests_changes _ n _)
    (List.Subset.refl _)

theorem State.setExtents_changes : s.ChangesAt n extentParts (s.setExtents n p).state := by
  unfold State.setExtents
  dsimp only
  split
  · exact .refl s n _
  · split
    · exact .refl s n _
    · split
      · unfold State.takeProtect
        split
        · exact .refl s n _
        · exact (s.mapSlot_changes n _).mono
      · unfold State.takeZero
        split
        · exact .refl s n _
        · split
          · exact .refl s n _
          · exact s.setZero_changes n _ _

theorem State.recoverMedia_changes : s.ChangesAt n timeoutParts (s.recoverMedia n).state := by
  unfold State.recoverMedia
  split
  · exact (s.slotTo_changes n _).next (State.returnFlushing_changes _ n)
  · exact .refl s n _

theorem State.setTuning_changes : s.ChangesAt n [.tuning] (s.setTuning n p).state := s.mapSet_changes n _ [.tuning]

theorem State.takeAction_changes (tag : Byte) : s.ChangesAt n actionParts (s.takeAction n tag p).state := by
  unfold State.takeAction
  split
  · exact .refl s n _
  · dsimp only
    split
    · exact .refl s n _
    · exact s.submit_changes n _ _
    · exact s.submit_changes n _ _

theorem State.discardQueued_changes (a : Action) (q : Option Queued) (b : Bool) :
    s.ChangesAt n actionParts (s.discardQueued n a q b) := by
  unfold State.discardQueued
  split
  · exact .refl s n _
  · exact (s.ctrlTo_changes n _).next (State.recordEnd_changes _ n _)

theorem State.abort_changes (a : Action) (q : Option Queued) (b : Bool) : s.ChangesAt n actionParts (s.abort n a q b) :=
  .ite (s.discardQueued_changes n a q b) (.ite
    ((s.discardQueued_changes n a q b).next (State.ctrlTo_changes _ n _) (List.Subset.refl _))
    ((s.discardQueued_changes n a q b).next (State.finish_changes _ n _) (List.Subset.refl _) (List.Subset.refl _)))

theorem State.takeAbort_changes : s.ChangesAt n actionParts (s.takeAbort n).state := by
  unfold State.takeAbort
  split
  · exact s.abort_changes n _ _ _
  · exact .refl s n _

theorem State.clearLock_changes : s.ChangesAt n [.action, .power] (s.clearLock n).state := by
  unfold State.clearLock
  split
  · exact (s.ctrlTo_changes n _).next (State.powerNotice_changes _ n)
  · exact .refl s n _

theorem State.setTimings_changes : s.ChangesAt n [.timings] (s.setTimings n p).state := by
  unfold State.setTimings
  split
  · exact .refl s n _
  · exact s.mapSet_changes n _ [.timings]

theorem State.applyLive_changes (x : LiveSettings) : s.ChangesAt n [.liveSet, .live, .count] (s.applyLive n x) := by
  have hset := s.mapSet_changes n (fun y => { y with live := x }) [.liveSet]
  exact .ite (.ite (hset.next (State.enterByCondition_changes _ n)) (hset.next (State.mapLive_changes_all _ n _)))
    (hset.next (State.mapLive_changes_all _ n _))

theorem State.setLive_changes : s.ChangesAt n [.liveSet, .live, .count] (s.setLive n p).state := by
  unfold State.setLive
  split
  · exact .refl s n _
  · exact s.applyLive_changes n _

theorem State.linkKick_changes : s.ChangesAt n [.live] (s.linkKick n).state := s.kick_changes n _

theorem State.clearLive_changes : s.ChangesAt n [.live, .count] (s.clearLive n).state := by
  have hclear := s.mapLive_changes_all n (fun l => { l with recoveries := 0, statePending := true })
  unfold State.clearLive
  dsimp only
  split
  · exact .refl s n _
  · exact hclear.next (State.enterByCondition_changes _ n)
  · exact hclear

/-! ### Requests: the frame taken and the reply made change the link alone -/

theorem State.answers_changes (r : Result) (fields : List Byte) : s.Changes [] (s.answers r fields).state := .refl s []

theorem State.takeFrame_changes : s.Changes [.link] s.takeFrame := (s.mapLink_changes .n0 _).1

theorem State.reply_changes (f : Frame) (a : Answer) : s.Changes [.link] (s.reply f a) := (s.mapLink_changes .n0 _).1

theorem Carried.settle_changes {s : State} {c : Carried} {ps : List Part} (h : s.Changes ps c.state) (f : Frame) :
    s.Changes (.link :: ps) (c.settle f) := by
  unfold Carried.settle
  split
  · exact h.next (State.reply_changes _ f _)
  · exact h.mono

theorem nodeRequest_changes {s : State} {ps : List Part} {carry : NodeId → State → Carried}
    (h : ∀ n (s : State), s.Changes ps (carry n s).state) (kind tag node : Byte) (p : List Byte) (ok : Bool) :
    s.Changes (.link :: ps) (nodeRequest kind tag node p ok carry s) := by
  have hrefused (f : Frame) (a : Answer) : s.Changes (.link :: ps) (s.takeFrame.reply f a) :=
    s.takeFrame_changes.next (State.reply_changes _ f a)
  unfold nodeRequest
  dsimp only
  split
  · split
    · exact hrefused _ _
    · exact .ite (s.takeFrame_changes.next (Carried.settle_changes (h _ _) _) (hq := List.Subset.refl _)) (hrefused _ _)
  · exact .refl s _

theorem partRequest_changes {s : State} {ps : List Part} {carry : State → Carried}
    (h : ∀ s : State, s.Changes ps (carry s).state) (kind tag node : Byte) (p : List Byte) (ok : Bool) :
    s.Changes (.link :: ps) (partRequest kind tag node p ok carry s) := by
  have hrefused (f : Frame) (a : Answer) : s.Changes (.link :: ps) (s.takeFrame.reply f a) :=
    s.takeFrame_changes.next (State.reply_changes _ f a)
  exact .ite (.ite (hrefused _ _) (.ite (s.takeFrame_changes.next (Carried.settle_changes (h _) _) (hq := List.Subset.refl _))
    (hrefused _ _))) (.refl s _)

/-! ### Events -/

theorem State.running_changes {s : State} {ps : List Part} {f : State → State} (h : s.Changes ps (f s)) :
    s.Changes ps (s.running f) := .ite (.refl s _) h

theorem State.given_changes {s : State} {ps : List Part} {α : Type} {f : α → State} (h : ∀ a, s.Changes ps (f a))
    (o : Option α) : s.Changes ps (s.given o f) := by
  unfold State.given
  split
  · exact .refl s _
  · split
    · exact h _
    · exact .refl s _

theorem State.saveEnds_changes (j : SaveJob) : s.Changes [.store, .link] (s.saveEnds j) := by
  intro p hp; cases p <;> simp_all [State.SamePart, State.saveEnds, State.nd, State.set, State.mapLink]

theorem State.lrtsFalls_changes : s.Changes [.link, .pauses] s.lrtsFalls := by
  intro p hp; cases p <;> simp_all [State.SamePart, State.lrtsFalls, State.nd, State.set, State.mapLink]

theorem State.gapTimeout_changes (a : Assembly) : s.Changes [.clock, .link] (s.gapTimeout a) :=
  ((s.toTick_changes .n0 _).next (State.mapLink_changes _ .n0 _)).1

theorem State.replySent_changes (f : Frame) : s.Changes resetParts (s.replySent f) := by
  unfold State.replySent
  dsimp only
  split
  · exact .ite ((s.mapLink_changes .n0 _).1.next (State.partReset_changes _ _ _) (hq := List.Subset.refl _))
      (s.mapLink_changes .n0 _).1.mono
  · exact ((s.mapLink_changes .n0 _).next (State.mapLink_changes _ .n0 _)).1

theorem State.frameSent_changes (x : Sending) : s.Changes resetParts (s.frameSent x) :=
  .ite (s.replySent_changes _) (s.mapLink_changes .n0 _).1.mono

theorem State.acceptedEdge_changes (b : Bool) (k : Nat) : s.ChangesAt n [.line, .events] (s.acceptedEdge n b k) := by
  unfold State.acceptedEdge
  split
  · exact .ite (s.completeWindow_changes n _ _) (s.mapLine_changes n _).mono
  · exact .ite (s.mapLine_changes n _).mono (.refl s n _)

theorem State.idleGapEnds_changes (e : Nat) : s.ChangesAt n [.clock, .line, .events, .index, .mark, .stream] (s.idleGapEnds n e) :=
  ((s.toCycle_changes n e).next (State.mapLine_changes _ n _) (rs := [.clock, .line])).next
    (State.mapHist_changes_ring _ n _ (fun _ => rfl))

theorem State.pacerDelayEnds_changes (e : Nat) : s.ChangesAt n [.clock, .events, .index, .mark, .stream] (s.pacerDelayEnds n e) :=
  (s.toTick_changes n e).next (State.mapHist_changes_ring _ n _ (fun _ => rfl))

theorem State.lockWaitEnd_changes (e : Nat) : s.ChangesAt n [.clock, .line] (s.lockWaitEnd n e) :=
  (s.toCycle_changes n e).next (State.mapLine_changes _ n _)

theorem State.tellChanged_changes : s.ChangesAt n [.slot, .media] (s.tellChanged n) :=
  (s.mapSlot_changes n _).next (State.answer_changes _ n _ _)

theorem State.answerReady_changes : s.ChangesAt n [.slot, .media] (s.answerReady n) := by
  unfold State.answerReady
  split
  · exact (s.answer_changes n _ _).mono
  · exact .ite (s.tellChanged_changes n) (s.answer_changes n _ _).mono

theorem State.answerCapacity_changes : s.ChangesAt n [.media] (s.answerCapacity n) := by
  unfold State.answerCapacity
  split
  · exact s.answer_changes n _ _
  · exact s.answer_changes n _ _

theorem State.answerEject_changes : s.ChangesAt n mediaParts (s.answerEject n) := by
  unfold State.answerEject
  split
  · exact (s.answer_changes n _ _).mono
  · exact .ite ((s.drain_changes n).next (State.answer_changes _ n _ _) (List.Subset.refl _)) (s.answer_changes n _ _).mono

theorem State.takeCommand_changes (w : Bool) (lba count : Nat) : s.ChangesAt n mediaParts (s.takeCommand n w lba count) := by
  unfold State.takeCommand
  split
  · exact (s.tellChanged_changes n).mono
  · exact (s.answer_changes n _ _).mono
  · exact (s.mapMedia_changes n _ [.current, .media]).next (State.fillList_changes _ n)

theorem State.requestEntry_changes : s.ChangesAt n writeParts (s.requestEntry n) := by
  unfold State.requestEntry
  split
  · next h => exact (State.serveRequest_changes n h).mono
  · split
    · exact .refl s n _
    · exact .ite (s.acceptNew_changes n _ _) (.refl s n _)

theorem State.senseChange_changes (b : Bool) : s.ChangesAt n powerParts (s.senseChange n b) := by
  have hpin := s.mapPower_changes_power n (fun p => { p with sense := b }) (fun _ => ⟨rfl, rfl, rfl, rfl⟩)
  exact .ite hpin.mono (hpin.next (State.debouncePg_changes _ n) (hq := List.Subset.refl _))

theorem State.hbChange_changes (b : Bool) : s.ChangesAt n [.live] (s.hbChange n b) :=
  .ite (s.mapLive_changes n _) ((s.mapLive_changes n _).next (State.mapLive_changes _ n _))

theorem State.acceptHb_changes : s.ChangesAt n [.live] (s.acceptHb n) :=
  .ite (s.mapLive_changes n _) ((s.mapLive_changes n _).next (State.kick_changes _ n _))

end

/-- An expiry: the clock comes to the deadline, and then `f` happens. -/
theorem State.expiry_changes (s : State) {α : Type} {o : Option α} {node : α → NodeId} {at_ : α → Nat}
    {f : α → State → State} {ps : List Part} (h : ∀ a s, State.ChangesAt s (node a) ps (f a s)) :
    s.Changes (.clock :: ps) (s.given o (fun a => f a (s.toTick (at_ a)))) :=
  State.given_changes (fun a => (s.toTick_changes .n0 _).1.next (h a _).1 (hq := List.subset_cons_self _ _)) o

/-! ### Commands -/

/-- The state a command leads to: every command answers a next state (`exec_eq_run`). -/
def State.run (s : State) (i : Instr) : State :=
  match exec i s with
  | .next t => t
  | .fault _ => s
  | .refused _ => s

theorem exec_eq_run (i : Instr) (s : State) : exec i s = .next (s.run i) := by cases i <;> rfl

theorem eq_run_of_exec {i : Instr} {s t : State} (h : exec i s = .next t) : t = s.run i := by
  rw [exec_eq_run] at h; cases h; rfl

/-- The parts that a command can change. -/
@[simp] def partsOf : Instr → List Part
  | .partStatus _ _ _ | .conRead _ _ _ | .conEvents _ _ _ | .medStatus _ _ _ | .pwrStatus _ _ _ | .unknownKindFrame _ _ _ _
  | .linkFrameReceived _ | .lrtsAsserted | .linkByteReceived _ _ => [.link]
  | .partSave _ _ _ => [.link, .store]
  | .saveWriteEnd => [.store, .link]
  | .partRestart _ _ _ => [.link, .link]
  | .poolSet _ _ _ => .link :: poolParts
  | .clockSet _ _ _ => [.link, .fref, .clock, .line]
  | .conLineSet _ _ _ => [.link, .lineSet, .line, .watch, .events]
  | .conWrite _ _ _ | .conBreak _ _ _ => [.link, .line, .events]
  | .conMark _ _ _ => [.link, .events, .mark]
  | .conDeliverySet _ _ _ => [.link, .delivery, .line, .events, .index, .mark, .stream]
  | .conWatchSet _ _ _ => [.link, .watchSet, .watch]
  | .conTxFlush _ _ _ => [.link, .line]
  | .medAttach _ _ _ => [.link, .slot, .media]
  | .medDetach _ _ _ | .medStored _ _ _ => .link :: mediaParts
  | .medFill _ _ _ => .link :: fillParts
  | .medFillFail _ _ _ => .link :: failParts
  | .medExtentsSet _ _ _ => .link :: extentParts
  | .medRecover _ _ _ => .link :: timeoutParts
  | .medTuningSet _ _ _ => [.link, .tuning]
  | .pwrAction _ _ _ | .pwrAbort _ _ _ => .link :: actionParts
  | .pwrClear _ _ _ => [.link, .action, .power]
  | .pwrTimingSet _ _ _ => [.link, .timings]
  | .livSet _ _ _ => [.link, .liveSet, .live, .count]
  | .livKick _ _ _ => [.link, .live]
  | .livClear _ _ _ => [.link, .live, .count]
  | .linkGapTimeout => [.clock, .link]
  | .lrtsDeasserted => [.link, .pauses]
  | .arbiterGrant => grantParts
  | .frameSent | .resetNAsserted | .powerOn | .startUp _ => resetParts
  | .characterReceived _ _ _ _ => byteParts
  | .breakRx _ => [.line, .events, .watch]
  | .rxBreakEnd _ => [.line]
  | .idleGapSignal _ => [.clock, .line, .events, .index, .mark, .stream]
  | .pacerDelayExpiry _ => [.clock, .events, .index, .mark, .stream]
  | .autobaudWindowComplete _ _ | .autobaudAcceptedEdge _ _ _ => [.line, .events]
  | .lockIdleWaitEnd _ => [.clock, .line]
  | .txCharacterSent _ | .txIdleTimeEnd _ => [.clock, .line, .events]
  | .txBreakEnd _ => [.clock, .line]
  | .vbusPresent _ => [.media]
  | .vbusAbsent _ | .usbBusReset _ => [.current, .media]
  | .invalidCommand _ | .capacity _ | .sense _ | .writeBlockReceived _ _ => [.media]
  | .ready _ => [.slot, .media]
  | .eject _ | .read _ _ _ | .write _ _ _ => mediaParts
  | .newEntryRequest _ | .blockAccept _ => writeParts
  | .blockDelivery _ => readParts
  | .fetchTimeout _ => .clock :: failParts
  | .storeTimeout _ => .clock :: timeoutParts
  | .pgSenseChange _ _ => powerParts
  | .pgAccepted _ | .pulseEnd _ => .clock :: powerParts
  | .settleExpiry _ | .pressEnd _ | .awaitUpExpiry _ | .awaitDownExpiry _ | .holdEnd _ | .cutCheckExpiry _ | .dwellExpiry _
  | .timeoutExpiry _ => .clock :: actionParts
  | .warnExpiry _ => .clock :: .count :: actionParts
  | .hbInputChange _ _ => [.live]
  | .hbLevelAccepted _ | .graceExpiry _ => [.clock, .live]
  | .stableDeadlineExpiry _ => [.clock, .live, .count]

/-- A command changes no other part than those of its list. -/
theorem State.run_changes (s : State) (i : Instr) : s.Changes (partsOf i) (s.run i) := by
  cases i with
  | partStatus tag node p =>
    refine partRequest_changes (fun s => ?_) _ _ _ _ _
    exact s.answers_changes _ _
  | partSave tag node p => exact partRequest_changes (fun s => s.save_changes _ _) _ _ _ _ _
  | saveWriteEnd =>
    refine State.given_changes (fun j => ?_) _
    exact s.saveEnds_changes j
  | partRestart tag node p => exact partRequest_changes (fun s => s.takeRestart_changes p) _ _ _ _ _
  | poolSet tag node p => exact partRequest_changes (fun s => s.setPool_changes p) _ _ _ _ _
  | clockSet tag node p => exact partRequest_changes (fun s => s.setClock_changes p) _ _ _ _ _
  | conLineSet tag node p => exact nodeRequest_changes (fun n s => (s.setLine_changes n p).1) _ _ _ _ _
  | conWrite tag node p => exact nodeRequest_changes (fun n s => (s.writeConsole_changes n p).1) _ _ _ _ _
  | conBreak tag node p => exact nodeRequest_changes (fun n s => (s.queueBreak_changes n p).1) _ _ _ _ _
  | conRead tag node p =>
    exact nodeRequest_changes (fun n s => by rw [State.readConsole_changes]; exact .refl s []) _ _ _ _ _
  | conMark tag node p => exact nodeRequest_changes (fun n s => (s.markConsole_changes n p).1) _ _ _ _ _
  | conEvents tag node p =>
    exact nodeRequest_changes (fun n s => by rw [State.readEvents_changes]; exact .refl s []) _ _ _ _ _
  | conDeliverySet tag node p => exact nodeRequest_changes (fun n s => (s.setDelivery_changes n p).1) _ _ _ _ _
  | conWatchSet tag node p => exact nodeRequest_changes (fun n s => (s.setWatch_changes n p).1) _ _ _ _ _
  | conTxFlush tag node p => exact nodeRequest_changes (fun n s => (s.flushConsole_changes n).1) _ _ _ _ _
  | medAttach tag node p => exact nodeRequest_changes (fun n s => (s.attach_changes n p).1) _ _ _ _ _
  | medDetach tag node p => exact nodeRequest_changes (fun n s => (s.detach_changes n p).1) _ _ _ _ _
  | medFill tag node p => exact nodeRequest_changes (fun n s => (s.takeFill_changes n p).1) _ _ _ _ _
  | medFillFail tag node p => exact nodeRequest_changes (fun n s => s.takeFillFail_changes n p) _ _ _ _ _
  | medStored tag node p => exact nodeRequest_changes (fun n s => (s.takeStored_changes n p).1) _ _ _ _ _
  | medExtentsSet tag node p => exact nodeRequest_changes (fun n s => (s.setExtents_changes n p).1) _ _ _ _ _
  | medRecover tag node p => exact nodeRequest_changes (fun n s => (s.recoverMedia_changes n).1) _ _ _ _ _
  | medStatus tag node p =>
    simp only [State.run, exec, execMedStatus]
    refine nodeRequest_changes (fun n s => ?_) _ _ _ _ _
    exact s.answers_changes _ _
  | medTuningSet tag node p => exact nodeRequest_changes (fun n s => (s.setTuning_changes n p).1) _ _ _ _ _
  | pwrAction tag node p => exact nodeRequest_changes (fun n s => (s.takeAction_changes n p tag).1) _ _ _ _ _
  | pwrAbort tag node p => exact nodeRequest_changes (fun n s => (s.takeAbort_changes n).1) _ _ _ _ _
  | pwrClear tag node p => exact nodeRequest_changes (fun n s => (s.clearLock_changes n).1) _ _ _ _ _
  | pwrTimingSet tag node p => exact nodeRequest_changes (fun n s => (s.setTimings_changes n p).1) _ _ _ _ _
  | pwrStatus tag node p =>
    refine nodeRequest_changes (fun n s => ?_) _ _ _ _ _
    exact s.answers_changes _ _
  | livSet tag node p => exact nodeRequest_changes (fun n s => (s.setLive_changes n p).1) _ _ _ _ _
  | livKick tag node p => exact nodeRequest_changes (fun n s => (s.linkKick_changes n).1) _ _ _ _ _
  | livClear tag node p => exact nodeRequest_changes (fun n s => (s.clearLive_changes n).1) _ _ _ _ _
  | unknownKindFrame k tag node p =>
    exact .ite (s.takeFrame_changes.next (State.reply_changes _ _ _)) (.refl s _)
  | linkFrameReceived b => exact .ite (s.mapLink_changes .n0 _).1 (.refl s _)
  | linkGapTimeout =>
    refine State.given_changes (fun a => ?_) _
    exact s.gapTimeout_changes a
  | lrtsDeasserted => exact .ite s.lrtsFalls_changes (.refl s _)
  | lrtsAsserted => exact (s.mapLink_changes .n0 _).1
  | arbiterGrant => exact .ite s.grant_changes (.refl s _)
  | frameSent =>
    refine State.given_changes (fun x => ?_) _
    exact s.frameSent_changes x
  | resetNAsserted => exact s.partReset_changes _ _
  | powerOn => exact s.partReset_changes _ _
  | startUp b => exact .ite (s.startUp_changes b) (.refl s _)
  | characterReceived n d p b => exact .ite (s.receiveCharacter_changes n d p b).1 (.refl s _)
  | breakRx n => exact .ite (s.receiveBreak_changes n).1 (.refl s _)
  | rxBreakEnd n =>
    refine State.running_changes ?_
    exact (s.mapLine_changes n _).1
  | idleGapSignal n =>
    refine State.given_changes (fun e => ?_) _
    exact (s.idleGapEnds_changes n e).1
  | pacerDelayExpiry n =>
    refine State.given_changes (fun e => ?_) _
    exact (s.pacerDelayEnds_changes n e).1
  | autobaudWindowComplete n k =>
    exact .ite (State.given_changes (fun w => (s.completeWindow_changes n w k).1) _) (.refl s _)
  | lockIdleWaitEnd n =>
    refine State.given_changes (fun e => ?_) _
    exact (s.lockWaitEnd_changes n e).1
  | txCharacterSent n =>
    refine State.given_changes (fun e => ?_) _
    exact ((s.toCycle_changes n e).next (State.txFree_changes _ n)).1
  | txBreakEnd n =>
    exact s.expiry_changes (at_ := id) (f := fun _ s => s.beginGap n) (fun _ s => s.beginGap_changes n)
  | txIdleTimeEnd n =>
    refine State.given_changes (fun e => ?_) _
    exact ((s.toCycle_changes n e).next (State.txFree_changes _ n)).1
  | vbusPresent n => exact (s.mapMedia_changes n _ [.media]).1
  | vbusAbsent n => exact ((s.tearDown_changes n).next (State.mapMedia_changes _ n _ [.media])).1
  | usbBusReset n => exact .ite (s.tearDown_changes n).1 (.refl s _)
  | invalidCommand n => exact .ite (s.answer_changes n _ _).1 (.refl s _)
  | ready n => exact .ite (s.answerReady_changes n).1 (.refl s _)
  | capacity n => exact .ite (s.answerCapacity_changes n).1 (.refl s _)
  | eject n => exact .ite (s.answerEject_changes n).1 (.refl s _)
  | sense n => exact .ite (s.answer_changes n _ _).1 (.refl s _)
  | read n lba count => exact .ite (s.takeCommand_changes n _ _ _).1 (.refl s _)
  | write n lba count => exact .ite (s.takeCommand_changes n _ _ _).1 (.refl s _)
  | newEntryRequest n =>
    refine State.running_changes ?_
    exact (s.requestEntry_changes n).1
  | blockDelivery n =>
    refine State.given_changes (fun x => ?_) _
    exact (s.deliverFront_changes n x.1 x.2).1
  | writeBlockReceived n d => exact .ite (s.mapMedia_changes n _ [.media]).1 (.refl s _)
  | blockAccept n =>
    refine State.given_changes (fun x => ?_) _
    exact (s.acceptFront_changes n x.1 x.2).1
  | fetchTimeout page =>
    exact s.expiry_changes (at_ := Prod.snd) (f := fun x s => s.failFill (Prod.fst x) .timedOut) (fun x s => s.failFill_changes (Prod.fst x) _)
  | storeTimeout n =>
    exact s.expiry_changes (at_ := id) (f := fun _ s => s.storeTimesOut n) (fun _ s => s.storeTimesOut_changes n)
  | pgSenseChange n b => exact .ite (.refl s _) (s.senseChange_changes n b).1
  | pgAccepted n =>
    exact s.expiry_changes (at_ := id) (f := fun _ s => s.acceptPg n) (fun _ s => s.acceptPg_changes n)
  | settleExpiry n =>
    exact s.expiry_changes (at_ := Action.ends) (f := fun a s => s.settleEnds n a) (fun a s => s.settleEnds_changes n a)
  | pressEnd n =>
    exact s.expiry_changes (at_ := Action.ends) (f := fun a s => s.pressEnds n a) (fun a s => s.pressEnds_changes n a)
  | awaitUpExpiry n =>
    exact s.expiry_changes (at_ := Action.ends) (f := fun _ s => s.lock n .startTimeout) (fun _ s => s.lock_changes n _)
  | awaitDownExpiry n =>
    exact s.expiry_changes (at_ := Action.ends) (f := fun a s => s.awaitDownExpires n a) (fun a s => s.awaitDownExpires_changes n a)
  | holdEnd n =>
    exact s.expiry_changes (at_ := Action.ends) (f := fun a s => s.holdEnds n a) (fun a s => s.holdEnds_changes n a)
  | cutCheckExpiry n =>
    exact s.expiry_changes (at_ := Action.ends) (f := fun _ s => s.lock n .cutIneffective) (fun _ s => s.lock_changes n _)
  | dwellExpiry n =>
    exact s.expiry_changes (at_ := Action.ends) (f := fun a s => s.dwellExpires n a) (fun a s => s.dwellExpires_changes n a)
  | pulseEnd n =>
    exact s.expiry_changes (at_ := Action.ends) (f := fun a s => s.pulseEnds n a) (fun a s => s.pulseEnds_changes n a)
  | hbInputChange n b => exact .ite (.refl s _) (s.hbChange_changes n b).1
  | hbLevelAccepted n =>
    exact s.expiry_changes (at_ := id) (f := fun _ s => s.acceptHb n) (fun _ s => s.acceptHb_changes n)
  | graceExpiry n =>
    exact s.expiry_changes (at_ := id) (f := fun _ s => s.enterWatching n) (fun _ s => s.enterWatching_changes n)
  | timeoutExpiry n =>
    exact s.expiry_changes (at_ := id) (f := fun _ s => s.warn n) (fun _ s => s.warn_changes n)
  | warnExpiry n =>
    exact s.expiry_changes (at_ := id) (f := fun _ s => s.warnExpires n) (fun _ s => s.warnExpires_changes n)
  | stableDeadlineExpiry n =>
    exact s.expiry_changes (at_ := id) (f := fun _ s => s.stablePasses n) (fun _ s => s.mapLive_changes_all n _)
  | linkByteReceived b ok => exact .ite (s.mapLink_changes .n0 _).1 (.refl s _)
  | autobaudAcceptedEdge n b k =>
    exact .ite (s.acceptedEdge_changes n b k).1 (State.running_changes (s.waitEdge_changes n b).1.mono)

/-- Settles O2: each arm of exec answers a next state, and no command writes the queue. -/
theorem everyCommandCompletesAndKeepsTheQueue : Obligations.EveryCommandCompletesAndKeepsTheQueue := by
  intro c s
  refine ⟨s.run c, exec_eq_run c s, (s.run_changes c).same .pending ?_⟩
  cases c <;> simp [partsOf]

end Sys2Proof.Machine
end


section
/-! PROOFS. Laws that each step keeps by the parts its command changes: the canonical form of the buffer memory (O5). -/

namespace Sys2Proof.Machine

set_option Elab.async false

/-! ### A law that requests and events keep -/

section
variable {P : State → Prop}

/-- A law that the link cannot break is kept by a request where carrying it out keeps it. -/
theorem nodeRequest_keeps (hlink : ∀ {s t : State}, s.Changes [.link] t → P s → P t) {carry : NodeId → State → Carried}
    (hcarry : ∀ n s, P s → P (carry n s).state) {s : State} (h : P s) (kind tag node : Byte) (p : List Byte) (ok : Bool) :
    P (nodeRequest kind tag node p ok carry s) := by
  have htaken : P s.takeFrame := hlink s.takeFrame_changes h
  have hrefused (f : Frame) (a : Answer) : P (s.takeFrame.reply f a) := hlink (State.reply_changes _ f a) htaken
  unfold nodeRequest Carried.settle
  dsimp only
  split
  · split
    · exact hrefused _ _
    · split
      · split
        · exact hlink (State.reply_changes _ _ _) (hcarry _ _ htaken)
        · exact hcarry _ _ htaken
      · exact hrefused _ _
  · exact h

theorem partRequest_keeps (hlink : ∀ {s t : State}, s.Changes [.link] t → P s → P t) {carry : State → Carried}
    (hcarry : ∀ s, P s → P (carry s).state) {s : State} (h : P s) (kind tag node : Byte) (p : List Byte) (ok : Bool) :
    P (partRequest kind tag node p ok carry s) := by
  have htaken : P s.takeFrame := hlink s.takeFrame_changes h
  have hrefused (f : Frame) (a : Answer) : P (s.takeFrame.reply f a) := hlink (State.reply_changes _ f a) htaken
  unfold partRequest Carried.settle
  dsimp only
  split
  · split
    · exact hrefused _ _
    · split
      · split
        · exact hlink (State.reply_changes _ _ _) (hcarry _ htaken)
        · exact hcarry _ htaken
      · exact hrefused _ _
  · exact h

theorem State.given_keeps {s : State} (h : P s) {α : Type} {o : Option α} {f : α → State}
    (hf : ∀ a, o = some a → P (f a)) : P (s.given o f) := by
  unfold State.given
  split
  · exact h
  · split
    · next a => exact hf a rfl
    · exact h

theorem ite_keeps {c : Prop} [Decidable c] {s t : State} (hs : c → P s) (ht : ¬c → P t) : P (if c then s else t) := by
  split
  · next h => exact hs h
  · next h => exact ht h

theorem foldl_keeps {α : Type} {f : State → α → State} (hf : ∀ s a, P s → P (f s a)) (l : List α) {s : State} (h : P s) :
    P (l.foldl f s) := by
  induction l generalizing s with
  | nil => exact h
  | cons a l ih => exact ih (hf s a h)

theorem times_keeps {f : State → State} (hf : ∀ s, P s → P (f s)) (k : Nat) {s : State} (h : P s) : P (times k f s) := by
  induction k generalizing s with
  | zero => exact h
  | succ k ih => exact ih (hf s h)

/-- A law that the queue and the clock cannot break, and that every command keeps, every step keeps. -/
theorem step_keeps_of_run (hframe : ∀ {s t : State}, s.Changes [.clock, .pending] t → P s → P t)
    (hrun : ∀ i s, P s → P (s.run i)) {s t : State} (h : P s) (hst : step s = .next t) : P t := by
  refine step_keeps (fun s cs hs => hframe ?_ hs) (fun s hs => hframe s.cycle_changes.mono hs) (fun i s t hs he => ?_) h hst
  · intro p hp; cases p <;> simp_all [State.SamePart, State.nd, State.set]
  · rw [eq_run_of_exec he]; exact hrun i s hs

end

/-! ### The buffer memory -/

theorem State.MemoryLaw.of_changes {s t : State} {ps : List Part} (h : s.MemoryLaw) (hc : s.Changes ps t)
    (hp : Part.mem ∉ ps := by simp) : t.MemoryLaw := by
  have hmem : t.mem = s.mem := hc.same .mem hp
  rwa [State.MemoryLaw, hmem]

theorem State.writeHistory_keeps_memoryLaw {s : State} (h : s.MemoryLaw) (n : NodeId) (b : Byte) :
    (s.writeHistory n b).MemoryLaw := by
  unfold State.writeHistory
  split
  · exact Memory.wf_write h _ _
  · exact h

theorem State.storeByte_keeps_memoryLaw {s : State} (h : s.MemoryLaw) (n : NodeId) (b : Byte) (f p : Bool) :
    (s.storeByte n b f p).MemoryLaw := by
  have herror {t : State} (ht : t.MemoryLaw) (c : Bool) (k : EventKind) : (if c then t.recordError n k else t).MemoryLaw :=
    ite_keeps (fun _ => ht.of_changes (t.recordError_changes n k).1) (fun _ => ht)
  have hroom := herror (herror (h.of_changes (s.makeRoom_changes n).1) f .framing) p .parity
  exact (writeHistory_keeps_memoryLaw hroom n b).of_changes (State.mapHist_changes_all _ n _).1

theorem State.receiveCharacter_keeps_memoryLaw {s : State} (h : s.MemoryLaw) (n : NodeId) (d : Byte) (p b : Bool) :
    (s.receiveCharacter n d p b).MemoryLaw := by
  refine ite_keeps (fun _ => h.of_changes (s.receiveBreak_changes n).1) (fun _ => ?_)
  have hstored := storeByte_keeps_memoryLaw
    ((h.of_changes (s.mapLine_changes n (fun l => { l with rx := if b then .idle else .awaitHigh })).1).of_changes
      (State.restartIdleGap_changes _ n).1) n
  exact (((hstored _ _ _).of_changes (State.watchByte_changes _ n _).1).of_changes
    (State.kick_changes _ n _).1).of_changes (State.lossCheck_changes _ n _).1

theorem State.takeFill_keeps_memoryLaw {s : State} (h : s.MemoryLaw) (n : NodeId) (p : List Byte) :
    (s.takeFill n p).state.MemoryLaw := by
  have hfill (e : Entry) (data : List Byte) : (s.fill n e data).MemoryLaw := by
    have hwritten : ({ s with mem := s.mem.writePage e.page data } : State).MemoryLaw := Memory.wf_writePage h _ _
    have hvalid := hwritten.of_changes (State.makeValid_changes _ n e.page).1
    exact ite_keeps (fun _ => hvalid.of_changes (State.mapCommand_changes _ n _).1) (fun _ => hvalid)
  unfold State.takeFill
  dsimp only
  split
  · exact h
  · split
    · exact h
    · exact hfill _ _

theorem State.placeBlock_keeps_memoryLaw {s : State} (h : s.MemoryLaw) (n : NodeId) (lba p : Nat) (bytes : List Byte) :
    (s.placeBlock n lba p bytes).MemoryLaw := Memory.wf_writePage h _ _

theorem State.acceptNew_keeps_memoryLaw {s : State} (h : s.MemoryLaw) (n : NodeId) (lba : Nat) (bytes : List Byte) :
    (s.acceptNew n lba bytes).MemoryLaw := by
  unfold State.acceptNew
  refine ite_keeps (fun _ => h) (fun _ => ?_)
  split
  · exact h
  · next hpage =>
    exact ((placeBlock_keeps_memoryLaw (h.of_changes (State.getPage_changes n hpage).1) n lba _ bytes).of_changes
      (State.newDirty_changes _ n _ _).1).of_changes (State.accepted_changes _ n).1

theorem State.acceptFront_keeps_memoryLaw {s : State} (h : s.MemoryLaw) (n : NodeId) (lba : Nat) (bytes : List Byte) :
    (s.acceptFront n lba bytes).MemoryLaw := by
  have hplaced (p : Nat) := placeBlock_keeps_memoryLaw h n lba p bytes
  unfold State.acceptFront
  split
  · exact acceptNew_keeps_memoryLaw h n lba bytes
  · split
    · exact (hplaced _).of_changes (State.accepted_changes _ n).1
    · exact ((hplaced _).of_changes (State.setEntry_changes _ n _ _).1).of_changes (State.accepted_changes _ n).1
    · exact ite_keeps (fun _ => h) (fun _ => ((hplaced _).of_changes (State.makeDirty_changes _ n _).1).of_changes
        (State.accepted_changes _ n).1)

theorem State.requestEntry_keeps_memoryLaw {s : State} (h : s.MemoryLaw) (n : NodeId) : (s.requestEntry n).MemoryLaw := by
  unfold State.requestEntry
  split
  · next hserved => exact h.of_changes (State.serveRequest_changes n hserved).1
  · split
    · exact h
    · exact ite_keeps (fun _ => acceptNew_keeps_memoryLaw h n _ _) (fun _ => h)

/-- Settles O5: of the commands, a received character, a fill and the blocks of a WRITE write the buffer memory, and each by
`Memory.write`, which keeps the form. -/
theorem stepKeepsMemoryLaw : Obligations.StepKeepsMemoryLaw := by
  intro s t h hst
  refine step_keeps_of_run (fun hc h => State.MemoryLaw.of_changes h hc) (fun i s h => ?_) h hst
  cases i
  case characterReceived n d p b => exact ite_keeps (fun _ => State.receiveCharacter_keeps_memoryLaw h n d p b) (fun _ => h)
  case medFill tag node p =>
    exact nodeRequest_keeps (fun hc h => State.MemoryLaw.of_changes h hc)
      (fun n s h => State.takeFill_keeps_memoryLaw h n p) h _ _ _ _ _
  case newEntryRequest n => exact ite_keeps (fun _ => h) (fun _ => State.requestEntry_keeps_memoryLaw h n)
  case blockAccept n => exact State.given_keeps h (fun x _ => State.acceptFront_keeps_memoryLaw h n x.1 x.2)
  all_goals exact h.of_changes (s.run_changes _)

end Sys2Proof.Machine
end


section
/-! PROOFS. The button lines stand as the phase of the action says, at every step (O8). -/

namespace Sys2Proof.Machine

set_option Elab.async false

/-- The controller of node `n` holds a current action. -/
def State.Acting (s : State) (n : NodeId) : Prop := ∃ a q ab, (s.nd n).power.ctrl = .acting a q ab

/-- The button lines of node `n` are those of its phase (R126). -/
def State.LinesAt (s : State) (n : NodeId) : Prop := (s.nd n).power.LinesLawful

variable {s t : State} {n : NodeId}

/-! ### What leaves the controller and the lines alone -/

theorem State.LinesAt.of_changes {ps : List Part} (h : s.LinesAt n) (hc : s.Changes ps t)
    (hp : Part.action ∉ ps := by simp) : t.LinesAt n := by
  obtain ⟨hctrl, hpwr, hrst, hdiag⟩ := hc.same .action hp n
  simpa only [State.LinesAt, Power.LinesLawful, hctrl, hpwr, hrst, hdiag] using h

theorem State.LinesLaw.of_changes {ps : List Part} (h : s.LinesLaw) (hc : s.Changes ps t)
    (hp : Part.action ∉ ps := by simp) : t.LinesLaw := fun n => State.LinesAt.of_changes (h n) hc hp

theorem State.LinesLaw.of_changesAt {ps : List Part} (h : s.LinesLaw) (hc : s.ChangesAt n ps t) (hn : t.LinesAt n) :
    t.LinesLaw := by
  intro m
  by_cases hm : m = n
  · exact hm ▸ hn
  · rw [(hc.2 m hm).1]; exact h m

theorem State.Acting.of_changes {ps : List Part} (h : s.Acting n) (hc : s.Changes ps t)
    (hp : Part.action ∉ ps := by simp) : t.Acting n := by
  rwa [State.Acting, (hc.same .action hp n).1]

theorem State.idle_of_changes {ps : List Part} (h : (s.nd n).power.ctrl = .idle) (hc : s.Changes ps t)
    (hp : Part.action ∉ ps := by simp) : (t.nd n).power.ctrl = .idle := by
  rw [(hc.same .action hp n).1, h]

/-! ### Phases, starts and ends -/

/-- The lines of an action that goes on follow its phase. -/
theorem State.enterPhase_linesAt (h : s.Acting n) (a : Action) (ph : Phase) (ms : Nat) : (s.enterPhase n a ph ms).LinesAt n := by
  obtain ⟨c, q, ab, hc⟩ := h
  rw [State.enterPhase_eq s n a ph ms c q ab hc]
  simp [State.LinesAt, Power.LinesLawful, phaseLines]

theorem State.beginOn_linesAt (h : s.LinesAt n) (hact : s.Acting n) (a : Action) : (s.beginOn n a).1.LinesAt n := by
  have hreleased := (s.releaseFeedCut_changes n).1
  unfold State.beginOn
  dsimp only
  split
  · split
    · exact h.of_changes hreleased
    · exact State.enterPhase_linesAt (hact.of_changes hreleased) _ _ _
  · split
    · exact h
    · exact State.enterPhase_linesAt hact _ _ _

theorem State.beginOn_acting (hact : s.Acting n) (a : Action) (hended : (s.beginOn n a).2 = true) :
    (s.beginOn n a).1.Acting n := by
  unfold State.beginOn at hended ⊢
  dsimp only at hended ⊢
  split
  · split
    · exact hact.of_changes (s.releaseFeedCut_changes n).1
    · simp_all
  · split
    · exact hact
    · simp_all

theorem State.beginCut_linesAt (h : s.LinesAt n) (hact : s.Acting n) (a : Action) : (s.beginCut n a).1.LinesAt n := by
  have hcut := (s.assertFeedCut_changes n).1
  unfold State.beginCut
  dsimp only
  split
  · exact State.enterPhase_linesAt (hact.of_changes hcut) _ _ _
  · exact h.of_changes hcut

theorem State.beginCut_acting (hact : s.Acting n) (a : Action) (hended : (s.beginCut n a).2 = true) :
    (s.beginCut n a).1.Acting n := by
  unfold State.beginCut at hended ⊢
  dsimp only at hended ⊢
  split
  · simp_all
  · exact hact.of_changes (s.assertFeedCut_changes n).1

theorem State.firstStep_linesAt (h : s.LinesAt n) (hact : s.Acting n) (a : Action) : (s.firstStep n a).1.LinesAt n := by
  have hphase (ph : Phase) (ms : Nat) := State.enterPhase_linesAt hact a ph ms
  have hcut := State.beginCut_linesAt h hact a
  unfold State.firstStep
  cases a.kind
  case on => exact State.beginOn_linesAt h hact a
  case cut => exact hcut
  case cycle =>
    dsimp only
    split
    · cases a.method
      case cut =>
        dsimp only
        split
        · next hended => exact State.enterPhase_linesAt (State.beginCut_acting hact a hended) _ _ _
        · exact hcut
      all_goals exact hphase _ _
    · exact hphase _ _
  all_goals exact hphase _ _

/-- Where an action is to start the lines are released, and so they stay until its first phase. -/
theorem State.startAction_linesAt (h : s.LinesAt n) (hidle : (s.nd n).power.ctrl = .idle) (k : ActionKind) (src : Source) :
    (s.startAction n k src).1.LinesAt n := by
  unfold State.startAction
  have hrecorded (t : State) (d : Half) := (t.record_changes n .actionStart d).1
  apply State.firstStep_linesAt
  · refine State.LinesAt.of_changes ?_ (hrecorded _ _)
    simpa [State.LinesAt, Power.LinesLawful, hidle, phaseLines] using h
  · refine State.Acting.of_changes ?_ (hrecorded _ _)
    simp [State.Acting]

theorem State.finishLast_idle (s : State) (n : NodeId) (a : Action) (r : ActionResult) :
    ((s.finishLast n a r).nd n).power.ctrl = .idle := by
  rw [State.finishLast_eq]
  simp [Node.withEnd, Node.atRest]

theorem State.finishLast_linesAt (s : State) (n : NodeId) (a : Action) (r : ActionResult) :
    (s.finishLast n a r).LinesAt n := by
  rw [State.finishLast_eq]
  simp [State.LinesAt, Power.LinesLawful, Node.withEnd, Node.atRest]

theorem State.launch_linesAt (h : s.LinesAt n) (hidle : (s.nd n).power.ctrl = .idle) (k : ActionKind) (src : Source) :
    (s.launch n k src).LinesAt n := by
  have hstarted := State.startAction_linesAt h hidle k src
  unfold State.launch
  dsimp only
  split
  · split
    · exact State.finishLast_linesAt _ n _ _
    · exact hstarted
  · exact hstarted

theorem State.comeUp_linesAt (h : s.LinesAt n) (hidle : (s.nd n).power.ctrl = .idle) (q : Queued) :
    (s.comeUp n q).LinesAt n := by
  unfold State.comeUp
  split
  · exact State.launch_linesAt h hidle _ _
  · exact h.of_changes (s.recordEnd_changes n _).1

/-- An action that ends releases the lines; one that then comes up asserts its own. -/
theorem State.finish_linesAt (hact : s.Acting n) (r : ActionResult) : (s.finish n r).LinesAt n := by
  obtain ⟨a, q, ab, hc⟩ := hact
  have hlast := s.finishLast_linesAt n a r
  unfold State.finish
  rw [hc]
  cases q
  case none => exact hlast
  case some q => exact State.comeUp_linesAt hlast (s.finishLast_idle n a r) q

theorem State.lock_linesAt (hact : s.Acting n) (c : LockCause) : (s.lock n c).LinesAt n := by
  obtain ⟨a, q, ab, hc⟩ := hact
  have hlocked : ((s.releaseButtons n).ctrlTo n (.locked c)).LinesAt n := by
    simp [State.LinesAt, Power.LinesLawful, State.releaseButtons, State.ctrlTo]
  unfold State.lock
  rw [hc]
  have htold := (hlocked.of_changes (State.recordEnd_changes _ n (a.final .failed (some c))).1).of_changes
    (State.recoveryReport_changes _ n true).1
  cases q
  case none => exact htold
  case some q => exact htold.of_changes (State.recordEnd_changes _ n _).1

/-! ### Submissions -/

theorem State.judge_started_idle {k : ActionKind} (h : s.judge n k = .started) : (s.nd n).power.ctrl = .idle := by
  unfold State.judge at h
  split at h <;> simp_all

theorem State.submit_linesAt (h : s.LinesAt n) (k : ActionKind) (src : Source) : (s.submit n k src).LinesAt n := by
  unfold State.submit
  split
  · next hstarted => exact State.launch_linesAt h (State.judge_started_idle hstarted) k src
  · cases hc : (s.nd n).power.ctrl <;> simpa [State.LinesAt, Power.LinesLawful, State.mapPower, hc] using h
  · exact h

theorem State.LinesLaw.submit (h : s.LinesLaw) (k : ActionKind) (src : Source) : (s.submit n k src).LinesLaw :=
  h.of_changesAt (s.submit_changes n k src) (State.submit_linesAt (h n) k src)

/-! ### The ends of the phases -/

theorem State.acting_of_inPhase {ph : Phase} {a : Action} (h : s.inPhase n ph = some a) : s.Acting n := by
  unfold State.inPhase at h
  split at h
  · next hc => exact ⟨_, _, _, hc⟩
  · simp at h

theorem State.pressEnds_linesAt (hact : s.Acting n) (a : Action) : (s.pressEnds n a).LinesAt n := by
  unfold State.pressEnds
  split
  · exact State.finish_linesAt hact _
  · split <;> exact State.enterPhase_linesAt hact _ _ _

theorem State.holdEnds_linesAt (hact : s.Acting n) (a : Action) : (s.holdEnds n a).LinesAt n := by
  unfold State.holdEnds
  split
  · exact State.finish_linesAt hact _
  · exact State.enterPhase_linesAt hact _ _ _

theorem State.awaitDownExpires_linesAt (hact : s.Acting n) (a : Action) : (s.awaitDownExpires n a).LinesAt n := by
  unfold State.awaitDownExpires
  split
  · exact State.lock_linesAt hact _
  · split
    · exact State.enterPhase_linesAt hact _ _ _
    · exact State.finish_linesAt hact _

theorem State.dwellExpires_linesAt (h : s.LinesAt n) (hact : s.Acting n) (a : Action) : (s.dwellExpires n a).LinesAt n := by
  unfold State.dwellExpires
  dsimp only
  split
  · next hended => exact State.finish_linesAt (State.beginOn_acting hact a hended) _
  · exact State.beginOn_linesAt h hact a

theorem State.pulseEnds_linesAt (hact : s.Acting n) (a : Action) : (s.pulseEnds n a).LinesAt n := by
  have hreleased : (s.releaseButtons n).Acting n := by simpa [State.Acting, State.releaseButtons] using hact
  refine State.finish_linesAt ?_ _
  split
  · exact hreleased.of_changes (State.bootEvent_changes _ n).1
  · exact hreleased

/-! ### Changes of pg -/

theorem State.actionRise_linesAt (h : s.LinesAt n) : (s.actionRise n).LinesAt n := by
  unfold State.actionRise
  split
  · next hc =>
    have hact : s.Acting n := ⟨_, _, _, hc⟩
    split
    · split
      · exact State.finish_linesAt hact _
      · split
        · exact State.finish_linesAt (hact.of_changes (s.releaseFeedCut_changes n).1) _
        · exact State.finish_linesAt hact _
    · exact h
  · exact h

theorem State.actionFall_linesAt (h : s.LinesAt n) : (s.actionFall n).LinesAt n := by
  unfold State.actionFall
  split
  · next hc =>
    have hact : s.Acting n := ⟨_, _, _, hc⟩
    split
    · split
      · exact State.finish_linesAt hact _
      · split
        · exact State.lock_linesAt hact _
        · split
          · exact State.enterPhase_linesAt hact _ _ _
          · exact State.finish_linesAt hact _
    · exact h
  · exact h

/-- A change of the power record that is none of the controller and the lines. -/
theorem State.LinesAt.mapPower (h : s.LinesAt n) (f : Power → Power)
    (hf : ∀ x, (f x).ctrl = x.ctrl ∧ (f x).btnPwr = x.btnPwr ∧ (f x).btnRst = x.btnRst ∧ (f x).diag = x.diag :=
      by intro x; exact ⟨rfl, rfl, rfl, rfl⟩) : (s.mapPower n f).LinesAt n :=
  h.of_changes (s.mapPower_changes_power n f hf).1

theorem State.acceptPg_linesAt (h : s.LinesAt n) : (s.acceptPg n).LinesAt n := by
  have hrise : (s.pgRise n).LinesAt n :=
    State.actionRise_linesAt (((((h.mapPower _).of_changes (State.record_changes _ n _ _).1).of_changes
      (State.powerNotice_changes _ n).1).of_changes (State.conditionChange_changes _ n _ _).1).of_changes
      (State.bootEvent_changes _ n).1)
  have hfall : (s.pgFall n).LinesAt n :=
    State.actionFall_linesAt ((((h.mapPower _).of_changes (State.record_changes _ n _ _).1).of_changes
      (State.powerNotice_changes _ n).1).of_changes (State.conditionChange_changes _ n _ _).1)
  unfold State.acceptPg
  dsimp only
  split
  · exact h.of_changes (s.initialPg_changes n _).1
  · split
    · exact hrise
    · exact h.mapPower _
  · split
    · exact h.mapPower _
    · exact hfall

theorem State.debouncePg_linesAt (h : s.LinesAt n) : (s.debouncePg n).LinesAt n := by
  unfold State.debouncePg
  split
  · split
    · exact State.acceptPg_linesAt h
    · exact h.mapPower _
  · exact h.mapPower _

/-! ### The commands -/

/-- What happens to one node after time has come to a tick keeps the law where it keeps the lines of that node. -/
theorem State.LinesLaw.expiry (h : s.LinesLaw) {e : Nat} {ps : List Part} (hc : (s.toTick e).ChangesAt n ps t)
    (hn : (s.toTick e).LinesAt n → t.LinesAt n) : t.LinesLaw :=
  have hticked : (s.toTick e).LinesLaw := h.of_changes (s.toTick_changes n e).1
  hticked.of_changesAt hc (hn (hticked n))

theorem State.LinesLaw.phaseEnd (h : s.LinesLaw) {ph : Phase} {f : Action → State → State} {ps : List Part}
    (hc : ∀ a s, State.ChangesAt s n ps (f a s)) (hn : ∀ a s, State.LinesAt s n → State.Acting s n → (f a s).LinesAt n) :
    (s.given (s.inPhase n ph) (fun a => f a (s.toTick a.ends))).LinesLaw :=
  State.given_keeps h (fun a ha => h.expiry (hc a _)
    (fun hl => hn a _ hl ((State.acting_of_inPhase ha).of_changes (s.toTick_changes n _).1)))

theorem State.LinesLaw.inReset (c : ResetCause) (d : Bool) : (s.partReset c d).LinesLaw := by
  intro n
  cases n <;> rfl

theorem State.LinesLaw.startUp (h : s.LinesLaw) (b : BitVec 2) : (s.startUp b).LinesLaw := by
  rw [State.startUp_eq]
  refine State.LinesLaw.of_changes ?_ (State.mapLink_changes _ .n0 _).1
  have hsettled : (s.settled b).LinesLaw := h
  refine foldl_keeps (fun t n ht => ?_) _ hsettled
  refine ht.of_changesAt (t.startNode_changes n) (State.debouncePg_linesAt ?_)
  exact State.LinesAt.of_changes (((State.LinesAt.of_changes (ht n) (t.startLine_changes n).1)).of_changes
    (State.growRing_changes _ n).1) (State.startLive_changes _ n).1

theorem State.abort_linesAt (h : s.LinesAt n) {a : Action} {q : Option Queued} {ab : Bool}
    (hc : (s.nd n).power.ctrl = .acting a q ab) : (s.abort n a q ab).LinesAt n := by
  have hto (t : State) (ht : t.LinesAt n) (q' : Option Queued) (ab' : Bool) (hq : ∃ q ab, (t.nd n).power.ctrl = .acting a q ab) :
      (t.ctrlTo n (.acting a q' ab')).LinesAt n := by
    obtain ⟨_, _, hq⟩ := hq
    simpa [State.LinesAt, Power.LinesLawful, State.ctrlTo, hq] using ht
  have hdiscarded : (s.discardQueued n a q ab).LinesAt n ∧
      ∃ q' ab', ((s.discardQueued n a q ab).nd n).power.ctrl = .acting a q' ab' := by
    unfold State.discardQueued
    cases q
    case none => exact ⟨h, _, _, hc⟩
    case some q =>
      refine ⟨(hto s h none ab ⟨_, _, hc⟩).of_changes (State.recordEnd_changes _ n _).1, none, ab, ?_⟩
      simp [State.recordEnd_eq, Node.withEnd, State.ctrlTo]
  obtain ⟨hlines, hctrl⟩ := hdiscarded
  unfold State.abort
  dsimp only
  split
  · exact hlines
  · split
    · exact hto _ hlines none true hctrl
    · exact State.finish_linesAt ⟨a, hctrl⟩ _

theorem State.takeAbort_keeps_linesLaw (h : s.LinesLaw) : (s.takeAbort n).state.LinesLaw := by
  refine h.of_changesAt (s.takeAbort_changes n) ?_
  unfold State.takeAbort
  split
  · next hc => exact State.abort_linesAt (h n) hc
  · exact h n

theorem State.clearLock_keeps_linesLaw (h : s.LinesLaw) : (s.clearLock n).state.LinesLaw := by
  refine h.of_changesAt (s.clearLock_changes n) ?_
  have hn := h n
  unfold State.clearLock
  split
  · next hc =>
    simpa [State.LinesAt, Power.LinesLawful, State.ctrlTo, State.answers, State.powerNotice, hc] using hn
  · exact hn

theorem State.takeAction_keeps_linesLaw (h : s.LinesLaw) (tag : Byte) (p : List Byte) :
    (s.takeAction n tag p).state.LinesLaw := by
  unfold State.takeAction
  split
  · exact h
  · dsimp only
    split
    · exact h
    · exact h.submit _ _
    · exact h.submit _ _

theorem State.takeHit_keeps_linesLaw (h : s.LinesLaw) (i : Nat) : (s.takeHit n i).LinesLaw := by
  unfold State.takeHit
  split
  · exact h
  · next p _ =>
    have hrecorded := h.of_changes (s.record_changes n .watchHit (BitVec.ofNat 16 i)).1
    dsimp only
    split
    · exact hrecorded
    · have hflagged : (if p.once then (s.record n .watchHit (BitVec.ofNat 16 i)).mapPlace n i (fun pl => { pl with hit := true })
          else s.record n .watchHit (BitVec.ofNat 16 i)).LinesLaw :=
        ite_keeps (fun _ => hrecorded.of_changes (State.mapPlace_changes _ n i _).1) (fun _ => hrecorded)
      generalize (if p.once then _ else _ : State) = t at hflagged
      unfold State.watchAction
      split
      · exact hflagged
      · exact hflagged.of_changes (t.setMark_changes n _).1
      · exact hflagged.of_changes (t.kick_changes n _).1
      · exact ite_keeps (fun _ => hflagged.submit _ _) (fun _ => hflagged.of_changes (t.mapHist_changes_all n _).1)
      · exact hflagged.of_changes (t.drain_changes n).1

theorem State.watchByte_keeps_linesLaw (h : s.LinesLaw) (b : Byte) : (s.watchByte n b).LinesLaw := by
  unfold State.watchByte
  dsimp only
  refine foldl_keeps (P := State.LinesLaw) (fun _ i ht => State.takeHit_keeps_linesLaw ht i) _ ?_
  exact h.of_changes (s.mapWatch_changes n _).1

theorem State.receiveCharacter_keeps_linesLaw (h : s.LinesLaw) (d : Byte) (p b : Bool) :
    (s.receiveCharacter n d p b).LinesLaw := by
  refine ite_keeps (fun _ => h.of_changes (s.receiveBreak_changes n).1) (fun _ => ?_)
  have hstored := ((h.of_changes (s.mapLine_changes n (fun l => { l with rx := if b then .idle else .awaitHigh })).1).of_changes
    (State.restartIdleGap_changes _ n).1).of_changes (State.storeByte_changes _ n (lowBits (s.set n).line.wordLen d) (!b)
    (match (s.set n).line.parity.bit (lowBits (s.set n).line.wordLen d) with | none => false | some e => e != p)).1
  have hwatched := State.watchByte_keeps_linesLaw (n := n) hstored (lowBits (s.set n).line.wordLen d)
  exact (State.LinesLaw.of_changes hwatched (State.kick_changes _ n _).1).of_changes (State.lossCheck_changes _ n _).1

theorem State.warn_linesAt (h : s.LinesAt n) : (s.warn n).LinesAt n := by
  have hwarned := h.of_changes (s.mapLive_changes n (fun l =>
    { Live.enter (.warned (s.after (s.set n).live.warn)) l with warnings := min 255 (l.warnings + 1) })).1
  unfold State.warn
  dsimp only
  split
  · exact hwarned
  · exact State.submit_linesAt hwarned _ _

theorem State.warnExpires_linesAt (h : s.LinesAt n) : (s.warnExpires n).LinesAt n := by
  have hexhausted (c : ExhaustCause) := h.of_changes (s.exhaust_changes n c).1
  have hdecided (k : ActionKind) : (State.warnExpires.decide_ s n k).LinesAt n := by
    unfold State.warnExpires.decide_
    split
    · exact hexhausted _
    · exact h.of_changes (s.defer_changes n).1
    · exact State.submit_linesAt (h.of_changes (s.mapLive_changes_all n _).1) _ _
  unfold State.warnExpires
  split
  · exact hexhausted _
  · split
    · exact hexhausted _
    · exact hdecided _
    · exact hdecided _

theorem State.senseChange_keeps_linesLaw (h : s.LinesLaw) (high : Bool) : (s.senseChange n high).LinesLaw := by
  refine h.of_changesAt (s.senseChange_changes n high) ?_
  have hsensed : (s.mapPower n (fun p => { p with sense := high })).LinesAt n := State.LinesAt.mapPower (h n) _
  unfold State.senseChange
  dsimp only
  split
  · exact hsensed
  · exact State.debouncePg_linesAt hsensed

theorem State.frameSent_keeps_linesLaw (h : s.LinesLaw) (x : Sending) : (s.frameSent x).LinesLaw := by
  have hlink {t : State} (ht : t.LinesLaw) (f : Link → Link) := ht.of_changes (t.mapLink_changes .n0 f).1
  refine ite_keeps (fun _ => ?_) (fun _ => hlink h _)
  unfold State.replySent
  dsimp only
  split
  · exact ite_keeps (fun _ => State.LinesLaw.inReset _ _) (fun _ => hlink h _)
  · exact hlink (hlink h _) _

/-- Settles O8: an action's lines follow its phase as it enters one, an end and a lock release them, and a start finds them
released. -/
theorem stepKeepsLinesLaw : Obligations.StepKeepsLinesLaw := by
  intro s t h hst
  have hlink {s t : State} (hc : s.Changes [.link] t) (h : s.LinesLaw) : t.LinesLaw := h.of_changes hc
  refine step_keeps_of_run (fun hc h => State.LinesLaw.of_changes h hc) (fun i s h => ?_) h hst
  cases i
  case pwrAction tag node p => exact nodeRequest_keeps hlink (fun n s h => State.takeAction_keeps_linesLaw h tag p) h _ _ _ _ _
  case pwrAbort tag node p => exact nodeRequest_keeps hlink (fun n s h => State.takeAbort_keeps_linesLaw h) h _ _ _ _ _
  case pwrClear tag node p => exact nodeRequest_keeps hlink (fun n s h => State.clearLock_keeps_linesLaw h) h _ _ _ _ _
  case characterReceived n d p b => exact ite_keeps (fun _ => State.receiveCharacter_keeps_linesLaw h d p b) (fun _ => h)
  case frameSent => exact State.given_keeps h (fun x _ => State.frameSent_keeps_linesLaw h x)
  case resetNAsserted => exact State.LinesLaw.inReset _ _
  case powerOn => exact State.LinesLaw.inReset _ _
  case startUp b => exact ite_keeps (fun _ => h.startUp b) (fun _ => h)
  case pgSenseChange n b => exact ite_keeps (fun _ => h) (fun _ => State.senseChange_keeps_linesLaw h b)
  case pgAccepted n =>
    exact State.given_keeps h (fun e _ => h.expiry (State.acceptPg_changes _ n) State.acceptPg_linesAt)
  case settleExpiry n =>
    exact h.phaseEnd (fun a s => s.settleEnds_changes n a) (fun a s _ hact => State.enterPhase_linesAt hact _ _ _)
  case pressEnd n => exact h.phaseEnd (fun a s => s.pressEnds_changes n a) (fun a s _ hact => State.pressEnds_linesAt hact a)
  case awaitUpExpiry n => exact h.phaseEnd (fun a s => s.lock_changes n _) (fun a s _ hact => State.lock_linesAt hact _)
  case awaitDownExpiry n =>
    exact h.phaseEnd (fun a s => s.awaitDownExpires_changes n a) (fun a s _ hact => State.awaitDownExpires_linesAt hact a)
  case holdEnd n => exact h.phaseEnd (fun a s => s.holdEnds_changes n a) (fun a s _ hact => State.holdEnds_linesAt hact a)
  case cutCheckExpiry n => exact h.phaseEnd (fun a s => s.lock_changes n _) (fun a s _ hact => State.lock_linesAt hact _)
  case dwellExpiry n =>
    exact h.phaseEnd (fun a s => s.dwellExpires_changes n a) (fun a s hl hact => State.dwellExpires_linesAt hl hact a)
  case pulseEnd n => exact h.phaseEnd (fun a s => s.pulseEnds_changes n a) (fun a s _ hact => State.pulseEnds_linesAt hact a)
  case timeoutExpiry n => exact State.given_keeps h (fun e _ => h.expiry (State.warn_changes _ n) State.warn_linesAt)
  case warnExpiry n => exact State.given_keeps h (fun e _ => h.expiry (State.warnExpires_changes _ n) State.warnExpires_linesAt)
  all_goals exact h.of_changes (s.run_changes _)

end Sys2Proof.Machine
end


section
/-! PROOFS. What every request has in common: it is taken or left, checked, carried out and answered (O3, O4). -/

namespace Sys2Proof.Machine

set_option Elab.async false

variable {s t : State}

/-- What carrying out a request does whose NODE and length have passed their checks; `n` is the node it names. -/
def carried (s : State) (n : NodeId) : Instr → Carried
  | .partStatus _ _ _ => s.answers .ok s.statusFields
  | .partSave tag node _ => s.save tag node
  | .partRestart _ _ p => s.takeRestart p
  | .poolSet _ _ p => s.setPool p
  | .clockSet _ _ p => s.setClock p
  | .conLineSet _ _ p => s.setLine n p
  | .conWrite _ _ p => s.writeConsole n p
  | .conBreak _ _ p => s.queueBreak n p
  | .conRead _ _ p => s.readConsole n p
  | .conMark _ _ p => s.markConsole n p
  | .conEvents _ _ p => s.readEvents n p
  | .conDeliverySet _ _ p => s.setDelivery n p
  | .conWatchSet _ _ p => s.setWatch n p
  | .conTxFlush _ _ _ => s.flushConsole n
  | .medAttach _ _ p => s.attach n p
  | .medDetach _ _ p => s.detach n p
  | .medFill _ _ p => s.takeFill n p
  | .medFillFail _ _ p => s.takeFillFail n p
  | .medStored _ _ p => s.takeStored n p
  | .medExtentsSet _ _ p => s.setExtents n p
  | .medRecover _ _ _ => s.recoverMedia n
  | .medStatus _ _ _ => s.answers .ok (s.mediaBlock n ++ (s.set n).tuning.layout)
  | .medTuningSet _ _ p => s.setTuning n p
  | .pwrAction tag _ p => s.takeAction n tag p
  | .pwrAbort _ _ _ => s.takeAbort n
  | .pwrClear _ _ _ => s.clearLock n
  | .pwrTimingSet _ _ p => s.setTimings n p
  | .pwrStatus _ _ _ => s.answers .ok (s.powerContent n ++ timingLayout (s.set n).timings (s.set n).choices)
  | .livSet _ _ p => s.setLive n p
  | .livKick _ _ _ => s.linkKick n
  | .livClear _ _ _ => s.clearLive n
  | _ => s.answers .ok []

/-- The node that a frame names; N0 where it names none. -/
def Frame.target (f : Frame) : NodeId := (NodeId.ofByte f.node).getD .n0

/-- A request in one form: it is taken or left, its NODE is checked and then its length, and it is carried out and answered. -/
def State.serve (s : State) (f : Frame) (c : State → Carried) : State :=
  if s.takes f then
    if f.nodeOk then
      if f.lengthOk then (c s.takeFrame).settle f else s.takeFrame.reply f (.refused .badParam)
    else s.takeFrame.reply f (.refused .badNode)
  else s

theorem nodeRequest_eq_serve {kind tag node : Byte} {p : List Byte} {ok : Bool} {carry : NodeId → State → Carried}
    (hn : Frame.nodeOk ⟨kind, tag, node, p⟩ = (NodeId.ofByte node).isSome) (hl : Frame.lengthOk ⟨kind, tag, node, p⟩ = ok) :
    nodeRequest kind tag node p ok carry s = s.serve ⟨kind, tag, node, p⟩ (carry (Frame.target ⟨kind, tag, node, p⟩)) := by
  unfold nodeRequest State.serve Frame.target
  dsimp only
  rw [hn, hl]
  cases NodeId.ofByte node <;> simp

theorem partRequest_eq_serve {kind tag node : Byte} {p : List Byte} {ok : Bool} {carry : State → Carried}
    (hn : Frame.nodeOk ⟨kind, tag, node, p⟩ = (node == 0xFF)) (hl : Frame.lengthOk ⟨kind, tag, node, p⟩ = ok) :
    partRequest kind tag node p ok carry s = s.serve ⟨kind, tag, node, p⟩ carry := by
  unfold partRequest State.serve
  dsimp only
  rw [hn, hl]
  by_cases h : node = 0xFF <;> simp [h]

/-- The length rule of CON_WATCH_SET, by the bytes that stand before the pattern. -/
theorem watchLengthOk_eq (tag node : Byte) (p : List Byte) : Frame.lengthOk ⟨0x17, tag, node, p⟩ = watchLengthOk p := by
  rcases p with _ | ⟨i, _ | ⟨c, _ | ⟨o, _ | ⟨a, _ | ⟨k, _ | ⟨m, bytes⟩⟩⟩⟩⟩⟩ <;>
    simp [Frame.lengthOk, watchLengthOk, byteAt, fieldAt]
  rw [Bool.eq_iff_iff]
  simp [leNat]
  omega

theorem extentsLengthOk_eq (tag node : Byte) (p : List Byte) : Frame.lengthOk ⟨0x25, tag, node, p⟩ = extentsLengthOk p := by
  rcases p with _ | ⟨k, _ | ⟨c, ranges⟩⟩ <;> simp [Frame.lengthOk, extentsLengthOk, fieldAt, leNat]
  constructor <;> intro h <;> omega

/-- Every request command is served in the one form. -/
theorem run_request {i : Instr} {f : Frame} (h : requestOf i = some f) (s : State) :
    s.run i = s.serve f (fun t => carried t f.target i) := by
  cases i <;> simp only [requestOf, Option.some.injEq, reduceCtorEq] at h <;> subst h <;>
    simp only
      [State.run, exec, execPartStatus, execPartSave, execPartRestart, execPoolSet, execClockSet, execConLineSet,
        execConWrite, execConBreak, execConRead, execConMark, execConEvents, execConDeliverySet, execConWatchSet,
        execConTxFlush, execMedAttach, execMedDetach, execMedFill, execMedFillFail, execMedStored, execMedExtentsSet,
        execMedRecover, execMedStatus, execMedTuningSet, execPwrAction, execPwrAbort, execPwrClear, execPwrTimingSet,
        execPwrStatus, execLivSet, execLivKick, execLivClear]
  case conWatchSet tag node p => rw [nodeRequest_eq_serve rfl (watchLengthOk_eq tag node p)]; rfl
  case medExtentsSet tag node p => rw [nodeRequest_eq_serve rfl (extentsLengthOk_eq tag node p)]; rfl
  case conWrite tag node p => rw [nodeRequest_eq_serve rfl (by simp [Frame.lengthOk, within])]; rfl
  case partStatus tag node p => rw [partRequest_eq_serve rfl (by simp [Frame.lengthOk, fixedLengths, eq_comm])]; rfl
  case partSave tag node p => rw [partRequest_eq_serve rfl (by simp [Frame.lengthOk, fixedLengths, eq_comm])]; rfl
  case partRestart tag node p => rw [partRequest_eq_serve rfl (by simp [Frame.lengthOk, fixedLengths, eq_comm])]; rfl
  case poolSet tag node p => rw [partRequest_eq_serve rfl (by simp [Frame.lengthOk, fixedLengths, eq_comm])]; rfl
  case clockSet tag node p => rw [partRequest_eq_serve rfl (by simp [Frame.lengthOk, fixedLengths, eq_comm])]; rfl
  all_goals rw [nodeRequest_eq_serve rfl (by simp [Frame.lengthOk, fixedLengths, eq_comm])]; rfl

/-! ### Refused and taken requests -/

theorem State.serve_not_taken {f : Frame} (h : s.takes f = false) (c : State → Carried) : s.serve f c = s := by
  simp [State.serve, h]

theorem State.serve_badNode {f : Frame} (h : s.takes f = true) (hn : f.nodeOk = false) (c : State → Carried) :
    s.serve f c = s.takeFrame.reply f (.refused .badNode) := by
  simp [State.serve, h, hn]

theorem State.serve_badLength {f : Frame} (h : s.takes f = true) (hn : f.nodeOk = true) (hl : f.lengthOk = false)
    (c : State → Carried) : s.serve f c = s.takeFrame.reply f (.refused .badParam) := by
  simp [State.serve, h, hn, hl]

theorem State.serve_carried {f : Frame} (h : s.takes f = true) (hn : f.nodeOk = true) (hl : f.lengthOk = true)
    (c : State → Carried) : s.serve f c = (c s.takeFrame).settle f := by
  simp [State.serve, h, hn, hl]

/-- A refused request changes the link alone, by its reply. -/
theorem State.refused_replied (s : State) (f : Frame) (a : Answer) :
    s.OnlyLink (s.takeFrame.reply f a) ∧ s.Replied (s.takeFrame.reply f a) f a := by
  rw [State.reply_takeFrame]
  exact ⟨rfl, rfl⟩

/-- Settles O3: the three checks of R174 stand in the one form of every request. -/
theorem checksRefuseRequests : Obligations.ChecksRefuseRequests := by
  refine ⟨fun k tag node p s hk ht => ⟨_, rfl, ?_⟩, fun i f s hi ht hn => ⟨_, exec_eq_run i s, ?_⟩,
    fun i f s hi ht hn hl => ⟨_, exec_eq_run i s, ?_⟩⟩
  · rw [State.unknownKind, if_pos ⟨hk, ht⟩]
    exact s.refused_replied _ _
  · rw [run_request hi, State.serve_badNode ht hn]
    exact s.refused_replied _ _
  · rw [run_request hi, State.serve_badLength ht hn hl]
    exact s.refused_replied _ _

/-- Carrying out a request leaves the link as it is, but for a PART_RESTART. -/
theorem carried_link (s : State) (n : NodeId) {i : Instr} (hr : ∀ tag node p, i ≠ .partRestart tag node p) :
    (carried s n i).state.link = s.link := by
  cases i
  case partSave tag node p => exact (s.save_changes tag node).same .link
  case partRestart tag node p => exact absurd rfl (hr tag node p)
  case poolSet tag node p => exact (s.setPool_changes p).same .link
  case clockSet tag node p => exact (s.setClock_changes p).same .link
  case medFillFail tag node p => exact (s.takeFillFail_changes n p).same .link
  case conLineSet tag node p => exact (s.setLine_changes n p).1.same .link
  case conWrite tag node p => exact (s.writeConsole_changes n p).1.same .link
  case conBreak tag node p => exact (s.queueBreak_changes n p).1.same .link
  case conMark tag node p => exact (s.markConsole_changes n p).1.same .link
  case conDeliverySet tag node p => exact (s.setDelivery_changes n p).1.same .link
  case conWatchSet tag node p => exact (s.setWatch_changes n p).1.same .link
  case conTxFlush tag node p => exact (s.flushConsole_changes n).1.same .link
  case medAttach tag node p => exact (s.attach_changes n p).1.same .link
  case medDetach tag node p => exact (s.detach_changes n p).1.same .link
  case medFill tag node p => exact (s.takeFill_changes n p).1.same .link
  case medStored tag node p => exact (s.takeStored_changes n p).1.same .link
  case medExtentsSet tag node p => exact (s.setExtents_changes n p).1.same .link
  case medRecover tag node p => exact (s.recoverMedia_changes n).1.same .link
  case medTuningSet tag node p => exact (s.setTuning_changes n p).1.same .link
  case pwrAction tag node p => exact (s.takeAction_changes n p tag).1.same .link
  case pwrAbort tag node p => exact (s.takeAbort_changes n).1.same .link
  case pwrClear tag node p => exact (s.clearLock_changes n).1.same .link
  case pwrTimingSet tag node p => exact (s.setTimings_changes n p).1.same .link
  case livSet tag node p => exact (s.setLive_changes n p).1.same .link
  case livKick tag node p => exact (s.linkKick_changes n).1.same .link
  case livClear tag node p => exact (s.clearLive_changes n).1.same .link
  case conRead tag node p => exact congrArg State.link (s.readConsole_changes n p)
  case conEvents tag node p => exact congrArg State.link (s.readEvents_changes n p)
  all_goals rfl

/-- A PART_RESTART leaves the buffers and the replies as they are. -/
theorem State.takeRestart_link (s : State) (p : List Byte) :
    (s.takeRestart p).state.link = { s.link with restart := (s.takeRestart p).state.link.restart } := by
  unfold State.takeRestart
  split <;> rfl

/-- Carrying out a request leaves the buffers and the replies as they are. -/
theorem carried_queues (s : State) (n : NodeId) (i : Instr) :
    (carried s n i).state.link.replies = s.link.replies ∧ (carried s n i).state.link.complete = s.link.complete ∧
      (carried s n i).state.link.discarded = s.link.discarded := by
  by_cases hr : ∃ tag node p, i = .partRestart tag node p
  · obtain ⟨tag, node, p, rfl⟩ := hr
    have hlink : (carried s n (.partRestart tag node p)).state.link = _ := s.takeRestart_link p
    rw [hlink]
    exact ⟨rfl, rfl, rfl⟩
  · rw [carried_link s n (fun tag node p h => hr ⟨tag, node, p, h⟩)]
    exact ⟨rfl, rfl, rfl⟩

/-- A request that is carried out is answered at once, but for a PART_SAVE that begins a write. -/
theorem carried_answer (s : State) (n : NodeId) {i : Instr} {f : Frame} (hi : requestOf i = some f)
    (hsave : f.kind = 0x02 → s.store.save.isSome = true) : ∃ a, (carried s n i).answer = some a := by
  cases i <;> simp only [requestOf, Option.some.injEq, reduceCtorEq] at hi <;> subst hi
  case partSave tag node p =>
    refine ⟨{ result := .busy, fields := leBytes 4 0 }, ?_⟩
    simp [carried, State.save, hsave rfl, State.answers]
  case medExtentsSet =>
    simp only [carried, State.setExtents, State.takeProtect, State.takeZero]
    repeat' split
    all_goals exact ⟨_, rfl⟩
  case conWrite | conTxFlush | medTuningSet | livKick | clockSet | partStatus | medStatus | pwrStatus => exact ⟨_, rfl⟩
  all_goals
    simp only [carried, State.setLine, State.queueBreak, State.readConsole, State.markConsole, State.readEvents,
      State.setDelivery, State.setWatch, State.attach, State.detach, State.takeFill, State.takeFillFail, State.takeStored,
      State.recoverMedia, State.takeAction, State.takeAbort, State.clearLock, State.setTimings, State.setLive,
      State.clearLive, State.takeRestart, State.setPool]
    repeat' split
    all_goals exact ⟨_, rfl⟩

/-- The kind of a reply is the request's with its most significant bit set, which a request kind has clear (R167). -/
theorem kind_or_80 {i : Instr} {f : Frame} (hi : requestOf i = some f) : f.kind ||| 0x80 = f.kind + 0x80 := by
  cases i <;> simp only [requestOf, Option.some.injEq, reduceCtorEq] at hi <;> subst hi <;> dsimp only <;> decide

/-- Settles O4: the reply of a request joins the queue that carrying it out has left as it was. -/
theorem requestsAreAnsweredOnce : Obligations.RequestsAreAnsweredOnce := by
  refine ⟨fun i f s hi ht hsave => ?_, fun i f s hi ht => ?_⟩
  · have hreply (t : State) (a : Answer) (hr : t.link.replies = s.link.replies) (hc : t.link.complete = s.link.complete.tail)
        (hd : t.link.discarded = s.link.discarded) :
        ∃ r result fields, (t.reply f a).link.replies = s.link.replies ++ [r] ∧
          (t.reply f a).link.complete = s.link.complete.tail ∧ (t.reply f a).link.discarded = false ∧
          r.kind = f.kind + 0x80 ∧ r.tag = f.tag ∧ r.node = f.node ∧
          r.payload = Result.code result :: flagByte s.link.discarded :: fields := by
      refine ⟨f.reply s.link.discarded a, a.result, a.fields, ?_, hc, rfl, kind_or_80 hi, rfl, rfl, rfl⟩
      simp [State.reply, State.mapLink, hr, hd]
    rw [exec_eq_run, run_request hi]
    suffices h : ∃ t a, s.serve f (fun t => carried t f.target i) = State.reply t f a ∧ t.link.replies = s.link.replies ∧
        t.link.complete = s.link.complete.tail ∧ t.link.discarded = s.link.discarded by
      obtain ⟨t, a, he, hr, hc, hd⟩ := h
      obtain ⟨r, result, fields, hrest⟩ := hreply t a hr hc hd
      exact ⟨_, r, result, fields, by rw [he], hrest⟩
    cases hn : f.nodeOk
    · exact ⟨s.takeFrame, _, State.serve_badNode ht hn _, rfl, rfl, rfl⟩
    cases hl : f.lengthOk
    · exact ⟨s.takeFrame, _, State.serve_badLength ht hn hl _, rfl, rfl, rfl⟩
    obtain ⟨a, ha⟩ := carried_answer s.takeFrame f.target hi (fun hk => hsave hk hn hl)
    refine ⟨(carried s.takeFrame f.target i).state, a, ?_, carried_queues s.takeFrame f.target i⟩
    rw [State.serve_carried ht hn hl, Carried.settle, ha]
  · rw [exec_eq_run, run_request hi, State.serve_not_taken ht]

end Sys2Proof.Machine
end


section
/-! PROOFS. The recovery count stays within its maximum (O9), and the link's queues within their places (O10), at every step. -/

namespace Sys2Proof.Machine

set_option Elab.async false

variable {s t : State} {n : NodeId}

/-! ### The recovery count -/

theorem State.RecoveryLaw.of_changes {ps : List Part} (h : s.RecoveryLaw) (hc : s.Changes ps t)
    (hp : Part.reset ∉ ps ∧ Part.liveSet ∉ ps ∧ Part.count ∉ ps := by simp) : t.RecoveryLaw := by
  intro n
  have hset := hc.same .liveSet hp.2.1 n
  obtain ⟨hcount, hdisabled⟩ := hc.same .count hp.2.2 n
  have hheld := (hc.same .reset hp.1).1
  obtain ⟨hmax, hzero⟩ := h n
  rw [hset, hcount, hheld]
  exact ⟨hmax, fun hd => hzero (hd.imp_left hdisabled)⟩

/-- A change of one node's monitor and of its settings keeps the law where that node has it then. -/
theorem State.RecoveryLaw.of_changesAt {ps : List Part} (h : s.RecoveryLaw) (hc : s.ChangesAt n ps t) (hp : Part.reset ∉ ps)
    (hmax : (t.nd n).live.recoveries ≤ (t.set n).live.maxRecoveries)
    (hzero : (t.nd n).live.monitor = .disabled ∨ s.held = true → (t.nd n).live.recoveries = 0) : t.RecoveryLaw := by
  have hheld := (hc.same .reset hp).1
  intro m
  by_cases hm : m = n
  · subst hm
    exact ⟨hmax, by rwa [hheld]⟩
  · rw [(hc.2 m hm).1, (hc.2 m hm).2, hheld]
    exact h m

/-- Forgetting the recoveries. -/
theorem State.RecoveryLaw.forget (h : s.RecoveryLaw) (f : Live → Live) (hf : ∀ l, (f l).recoveries = 0) :
    (s.mapLive n f).RecoveryLaw :=
  h.of_changesAt (s.mapLive_changes_all n f) (by simp) (by simp [hf]) (by simp [hf])

theorem State.applyLive_keeps_recoveryLaw (h : s.RecoveryLaw) (x : LiveSettings) : (s.applyLive n x).RecoveryLaw := by
  obtain ⟨_, hzero⟩ := h n
  have hchanges := s.applyLive_changes n x
  unfold State.applyLive at hchanges ⊢
  dsimp only at hchanges ⊢
  split
  · next henabled =>
    simp only [henabled, if_true] at hchanges
    split
    · next hdisabled =>
      simp only [hdisabled, if_true] at hchanges
      have hcount := ((State.enterByCondition_changes (s.mapSet n (fun y => { y with live := x })) n).same .count) n
      have hnone : (((s.mapSet n (fun y => { y with live := x })).enterByCondition n).nd n).live.recoveries = 0 := by
        simpa using hcount.1.trans (hzero (.inl hdisabled))
      exact h.of_changesAt hchanges (by simp) (by simp [hnone]) (fun _ => hnone)
    · next hrunning =>
      simp only [hrunning, if_false] at hchanges
      refine h.of_changesAt hchanges (by simp) (by simp) (fun hd => ?_)
      have : (s.nd n).live.recoveries = 0 := hzero (by simpa using hd)
      simp [this]
  · next hoff =>
    simp only [hoff] at hchanges
    exact h.of_changesAt hchanges (by simp) (by simp) (by simp)

theorem State.clearLive_keeps_recoveryLaw (h : s.RecoveryLaw) : (s.clearLive n).state.RecoveryLaw := by
  have hclear := h.forget (n := n) (fun l => { l with recoveries := 0, statePending := true }) (fun _ => rfl)
  unfold State.clearLive
  dsimp only
  split
  · exact h
  · exact hclear.of_changes (State.enterByCondition_changes _ n).1
  · exact hclear

theorem State.setLive_keeps_recoveryLaw (h : s.RecoveryLaw) (p : List Byte) : (s.setLive n p).state.RecoveryLaw := by
  unfold State.setLive
  split
  · exact h
  · exact State.applyLive_keeps_recoveryLaw h _

/-- The warn period submits a recovery where the count is not at its maximum, and so counts up to it at most. -/
theorem State.warnExpires_keeps_recoveryLaw (h : s.RecoveryLaw) (hw : s.held = false) :
    (s.warnExpires n).RecoveryLaw := by
  have hexhausted (c : ExhaustCause) := h.of_changes (s.exhaust_changes n c).1
  unfold State.warnExpires
  split
  · exact hexhausted _
  · next hbelow =>
    have hrecover (k : ActionKind) : (s.recover n k).RecoveryLaw := by
      refine State.RecoveryLaw.of_changes ?_ (State.submit_changes _ n k .liveness).1
      obtain ⟨hmax, _⟩ := h n
      refine h.of_changesAt (s.mapLive_changes_all n _) (by simp) ?_ (by simp [Live.enter, hw])
      simp [Live.enter]
      omega
    have hdecided (k : ActionKind) : (State.warnExpires.decide_ s n k).RecoveryLaw := by
      unfold State.warnExpires.decide_
      split
      · exact hexhausted _
      · exact h.of_changes (s.defer_changes n).1
      · exact hrecover k
    split
    · exact hexhausted _
    · exact hdecided _
    · exact hdecided _

theorem State.partReset_recoveryLaw (s : State) (c : ResetCause) (d : Bool) : (s.partReset c d).RecoveryLaw := by
  intro n
  cases n <;> exact ⟨Nat.zero_le _, fun _ => rfl⟩

/-- A node that starts up has counted no recovery. -/
theorem State.startNode_recoveries (h : ∀ m, (s.nd m).live.recoveries = 0) (m : NodeId) :
    ((s.startNode n).nd m).live.recoveries = 0 := by
  have hbefore : (((s.startLine n).growRing n).nd m).live = (s.nd m).live :=
    ((s.startLine_changes n).next (State.growRing_changes _ n) (rs := [.line, .ring, .free, .entries, .lru])).same .live
      (by simp) m
  have hlive : ((((s.startLine n).growRing n).startLive n).nd m).live.recoveries = 0 := by
    by_cases hm : m = n
    · subst hm
      simpa [State.startLive, hbefore] using h m
    · rw [((State.startLive_changes _ n).2 m hm).1, hbefore]
      exact h m
  exact ((State.debouncePg_changes _ n).same .count (by simp) m).1.trans hlive

theorem State.startUp_keeps_recoveryLaw (h : s.RecoveryLaw) (hheld : s.held = true) (b : BitVec 2) :
    (s.startUp b).RecoveryLaw := by
  have hnone : ∀ m, ((s.settled b).nd m).live.recoveries = 0 := fun m => (h m).2 (.inr hheld)
  have hstarted : ∀ m, ((NodeId.all.foldl State.startNode (s.settled b)).nd m).live.recoveries = 0 :=
    foldl_keeps (P := fun t => ∀ m, (t.nd m).live.recoveries = 0) (fun _ _ ht => State.startNode_recoveries ht) _ hnone
  have hlaw : (NodeId.all.foldl State.startNode (s.settled b)).RecoveryLaw :=
    fun m => ⟨by rw [hstarted m]; exact Nat.zero_le _, fun _ => hstarted m⟩
  rw [State.startUp_eq]
  exact hlaw.of_changes (State.mapLink_changes _ .n0 _).1

theorem State.frameSent_keeps_recoveryLaw (h : s.RecoveryLaw) (x : Sending) : (s.frameSent x).RecoveryLaw := by
  have hlink {t : State} (ht : t.RecoveryLaw) (f : Link → Link) := ht.of_changes (t.mapLink_changes .n0 f).1
  refine ite_keeps (fun _ => ?_) (fun _ => hlink h _)
  unfold State.replySent
  dsimp only
  split
  · exact ite_keeps (fun _ => State.partReset_recoveryLaw _ _ _) (fun _ => hlink h _)
  · exact hlink (hlink h _) _

/-- Settles O9: the count grows where a recovery is submitted below the maximum, and LIV_SET lowers it to a smaller one. -/
theorem stepKeepsRecoveryLaw : Obligations.StepKeepsRecoveryLaw := by
  intro s t h hst
  have hlink {s t : State} (hc : s.Changes [.link] t) (h : s.RecoveryLaw) : t.RecoveryLaw := h.of_changes hc
  refine step_keeps_of_run (fun hc h => State.RecoveryLaw.of_changes h hc) (fun i s h => ?_) h hst
  cases i
  case livSet tag node p => exact nodeRequest_keeps hlink (fun n s h => State.setLive_keeps_recoveryLaw h p) h _ _ _ _ _
  case livClear tag node p => exact nodeRequest_keeps hlink (fun n s h => State.clearLive_keeps_recoveryLaw h) h _ _ _ _ _
  case frameSent => exact State.given_keeps h (fun x _ => State.frameSent_keeps_recoveryLaw h x)
  case resetNAsserted => exact State.partReset_recoveryLaw _ _ _
  case powerOn => exact State.partReset_recoveryLaw _ _ _
  case startUp b => exact ite_keeps (fun hheld => State.startUp_keeps_recoveryLaw h hheld b) (fun _ => h)
  case warnExpiry n =>
    refine ite_keeps (fun _ => h) (fun hrun => ?_)
    split
    · exact State.warnExpires_keeps_recoveryLaw (h.of_changes (s.toTick_changes n _).1) (by simpa using hrun)
    · exact h
  case stableDeadlineExpiry n =>
    exact State.given_keeps h (fun e _ => (h.of_changes (s.toTick_changes n e).1).forget _ (fun _ => rfl))
  all_goals exact h.of_changes (s.run_changes _)

/-! ### The link -/

theorem Link.Lawful.of_changes {ps : List Part} (h : s.link.Lawful) (hc : s.Changes ps t)
    (hp : Part.link ∉ ps := by simp) : t.link.Lawful := by
  have hlink : t.link = s.link := hc.same .link hp
  rwa [hlink]

/-- The link is lawful and a reply place is free. -/
def Link.HasRoom (l : Link) : Prop := l.Lawful ∧ l.replies.length < Config.replyPlaces

theorem Link.Lawful.takeFrame (h : s.link.Lawful) {f : Frame} (ht : s.takes f = true) : s.takeFrame.link.HasRoom := by
  obtain ⟨hreplies, hbuffers, hsent⟩ := h
  refine ⟨⟨hreplies, ?_, hsent⟩, (State.takes_room ht).1⟩
  have htail : s.link.complete.tail.length ≤ s.link.complete.length := by simp
  exact Nat.le_trans (Nat.add_le_add_right htail _) hbuffers

theorem Link.HasRoom.reply (h : s.link.HasRoom) (f : Frame) (a : Answer) : (s.reply f a).link.Lawful := by
  obtain ⟨⟨_, hbuffers, hsent⟩, hroom⟩ := h
  exact ⟨by simpa [State.reply, State.mapLink] using hroom, hbuffers, hsent⟩

theorem Link.HasRoom.carried (h : s.link.HasRoom) (n : NodeId) (i : Instr) : (carried s n i).state.link.HasRoom := by
  by_cases hr : ∃ tag node p, i = .partRestart tag node p
  · obtain ⟨tag, node, p, rfl⟩ := hr
    have hlink : (Machine.carried s n (.partRestart tag node p)).state.link = _ := s.takeRestart_link p
    rw [hlink]
    exact h
  · rwa [carried_link s n (fun tag node p h => hr ⟨tag, node, p, h⟩)]

theorem State.serve_keeps_lawful (h : s.link.Lawful) (f : Frame) (n : NodeId) (i : Instr) :
    (s.serve f (fun t => carried t n i)).link.Lawful := by
  unfold State.serve
  split
  · next ht =>
    have hroom := h.takeFrame ht
    split
    · split
      · have hcarried := hroom.carried n i
        unfold Carried.settle
        split
        · exact hcarried.reply _ _
        · exact hcarried.1
      · exact hroom.reply _ _
    · exact hroom.reply _ _
  · exact h

theorem Link.Lawful.discard {l : Link} (h : l.Lawful) : l.discard.Lawful := by
  obtain ⟨hreplies, hbuffers, hsent⟩ := h
  exact ⟨hreplies, by simp only [Link.discard] at hbuffers ⊢; simp; omega, hsent⟩

theorem Link.Lawful.assemble {l : Link} (h : l.Lawful) {a : Assembly} (ha : l.assembling = some a) (now : Nat) (b : Byte) :
    (l.assemble now a b).Lawful := by
  have hdiscard := h.discard
  obtain ⟨hreplies, hbuffers, hsent⟩ := h
  simp only [ha, Option.isSome_some, if_true] at hbuffers
  unfold Link.assemble
  dsimp only
  split
  · exact hdiscard
  · split
    · split
      · exact ⟨hreplies, by simpa using hbuffers, hsent⟩
      · exact hdiscard
    · exact ⟨hreplies, by simpa using hbuffers, hsent⟩

/-- A byte on LRX: a candidate is opened only where a buffer is free. -/
theorem Link.Lawful.receive {l : Link} (h : l.Lawful) (now : Nat) (b : Byte) (stop : Bool) : (l.receive now b stop).Lawful := by
  have htake {l : Link} (h : l.Lawful) : (l.take now b stop).Lawful := by
    unfold Link.take
    split
    · next a ha =>
      split
      · exact h.assemble ha now b
      · exact h.discard
    · next hnone =>
      split
      · split
        · next hfree =>
          obtain ⟨hreplies, _, hsent⟩ := h
          exact ⟨hreplies, by simpa [Link.bufferFree] using hfree, hsent⟩
        · exact h.discard
      · exact h
  refine htake ?_
  unfold Link.lapse
  split
  · split
    · exact h.discard
    · exact h
  · exact h

theorem Link.Lawful.lrtsFalls {l : Link} (h : l.Lawful) (k : Nat) : (l.lrtsFalls k).Lawful := by
  obtain ⟨hreplies, hbuffers, hsent⟩ := h
  refine ⟨hreplies, hbuffers, fun x hx => ?_⟩
  obtain ⟨y, hy, rfl⟩ := Option.map_eq_some_iff.mp hx
  exact (Sending.pause_sent k y (hsent y hy)).1 ▸ (Sending.pause_sent k y (hsent y hy)).2.2.2.2

theorem State.send_lawful (h : s.link.Lawful) (f : Frame) (b : Bool) : (s.send f b).link.Lawful := by
  obtain ⟨hreplies, hbuffers, _⟩ := h
  refine ⟨hreplies, hbuffers, fun x hx => ?_⟩
  cases hx
  exact Nat.zero_le _

theorem State.buildStateNotice_lawful (h : s.link.Lawful) (n : NodeId) (k : StateNotice) :
    (s.buildStateNotice n k).link.Lawful := by
  cases k <;> exact State.send_lawful h _ _

theorem State.buildBulk_lawful (h : s.link.Lawful) (n : NodeId) (b : Bulk) : (s.buildBulk n b).link.Lawful := by
  cases b
  case fetch => exact Link.Lawful.of_changes (State.send_lawful h _ _) (State.fetchesSent_changes _ n _).1
  case data => exact State.send_lawful h _ _
  case writeOut =>
    show (s.buildWriteOut n).link.Lawful
    unfold State.buildWriteOut
    split
    · exact h
    · exact Link.Lawful.of_changes (State.send_lawful h _ _) (State.writeOutHead_changes _ n _).1

theorem State.grantNotice_lawful (k : Nat) (h : s.link.Lawful) : (State.grantNotice k s).link.Lawful := by
  induction k generalizing s with
  | zero => exact h
  | succ k ih =>
    unfold State.grantNotice
    split
    · dsimp only
      split
      · exact ih h
      · next n k _ _ => exact State.buildStateNotice_lawful (s := s.mapLink (fun l => l.stateServed n k)) h n k
    · split
      · next b _ _ => exact State.buildBulk_lawful (by cases b <;> exact h) _ _
      · exact h

theorem State.grant_lawful (h : s.link.Lawful) : s.grant.link.Lawful := by
  unfold State.grant
  split
  · exact State.send_lawful h _ _
  · split
    · exact h
    · split
      · exact State.send_lawful h _ _
      · exact State.grantNotice_lawful 5 h

theorem Link.fresh_lawful (a b : Bool) : (Link.fresh a b).Lawful :=
  ⟨Nat.zero_le _, Nat.zero_le _, fun _ hx => nomatch hx⟩

/-- A reply that has been sent leaves a place, which the waiting reply takes. -/
theorem State.replySent_lawful (h : s.link.Lawful) (f : Frame) : (s.replySent f).link.Lawful := by
  obtain ⟨hreplies, hbuffers, _⟩ := h
  have hnone {x : Sending} (hx : (none : Option Sending) = some x) : x.sent ≤ x.frame.wire.length := nomatch hx
  have htail : s.link.replies.tail.length + 1 ≤ Config.replyPlaces := by simp [Config.replyPlaces] at hreplies ⊢; omega
  unfold State.replySent
  dsimp only
  split
  · split
    · exact Link.fresh_lawful _ _
    · exact ⟨Nat.le_of_succ_le htail, hbuffers, fun _ => hnone⟩
  · simp only [State.mapLink, Link.placeWaiting]
    split
    · exact ⟨by simpa using htail, hbuffers, fun _ => hnone⟩
    · exact ⟨Nat.le_of_succ_le htail, hbuffers, fun _ => hnone⟩

theorem State.frameSent_lawful (h : s.link.Lawful) (x : Sending) : (s.frameSent x).link.Lawful := by
  unfold State.frameSent
  split
  · exact State.replySent_lawful h _
  · exact ⟨h.1, h.2.1, fun _ hx => nomatch hx⟩

/-- The reply of a save joins the queue, or waits where the queue is full. -/
theorem Link.Lawful.placeSave {l : Link} (h : l.Lawful) (f : Frame) : (l.placeSave f).Lawful := by
  obtain ⟨hreplies, hbuffers, hsent⟩ := h
  unfold Link.placeSave
  split
  · next hroom => exact ⟨by simpa using hroom, hbuffers, hsent⟩
  · exact ⟨hreplies, hbuffers, hsent⟩

theorem State.startUp_lawful (h : s.link.Lawful) (b : BitVec 2) : (s.startUp b).link.Lawful := by
  have hstarted : (NodeId.all.foldl State.startNode (s.settled b)).link = s.link :=
    foldl_keeps (P := fun t => t.link = s.link) (fun t n ht => Eq.trans ((t.startNode_changes n).same .link) ht) _ rfl
  rw [State.startUp_eq]
  simp only [State.mapLink, hstarted]
  exact h

/-- The law of the link, of a state. -/
def State.LinkLaw (s : State) : Prop := s.link.Lawful

/-- Settles O10: a request is taken only where a reply place is free, a candidate is opened only where a buffer is, and a waiting
reply takes a place only where one frees. -/
theorem stepKeepsLinkLaw : Obligations.StepKeepsLinkLaw := by
  intro s t h hst
  refine step_keeps_of_run (P := State.LinkLaw) (fun hc h => Link.Lawful.of_changes h hc) (fun i s h => ?_) h hst
  have hreceive (b : Byte) (stop : Bool) : (s.linkByte b stop).LinkLaw := Link.Lawful.receive h _ b stop
  cases hi : requestOf i with
  | some f =>
    rw [run_request hi]
    exact State.serve_keeps_lawful h f f.target i
  | none =>
    cases i <;> simp only [requestOf, reduceCtorEq] at hi
    case saveWriteEnd => exact State.given_keeps (P := State.LinkLaw) h (fun j _ => Link.Lawful.placeSave h _)
    case unknownKindFrame k tag node p => 
      exact ite_keeps (P := State.LinkLaw) (fun ht => (Link.Lawful.takeFrame h ht.2).reply _ _) (fun _ => h)
    case linkFrameReceived b => exact ite_keeps (P := State.LinkLaw) (fun _ => hreceive _ _) (fun _ => h)
    case linkByteReceived b c => exact ite_keeps (P := State.LinkLaw) (fun _ => hreceive _ _) (fun _ => h)
    case linkGapTimeout => exact State.given_keeps (P := State.LinkLaw) h (fun _ _ => Link.Lawful.discard h)
    case lrtsDeasserted => exact ite_keeps (P := State.LinkLaw) (fun _ => Link.Lawful.lrtsFalls h _) (fun _ => h)
    case lrtsAsserted => exact h
    case arbiterGrant => exact ite_keeps (P := State.LinkLaw) (fun _ => State.grant_lawful h) (fun _ => h)
    case frameSent => exact State.given_keeps (P := State.LinkLaw) h (fun x _ => State.frameSent_lawful h x)
    case resetNAsserted => exact Link.fresh_lawful _ _
    case powerOn => exact Link.fresh_lawful _ _
    case startUp b => exact ite_keeps (P := State.LinkLaw) (fun _ => State.startUp_lawful h b) (fun _ => h)
    all_goals exact Link.Lawful.of_changes h (s.run_changes _)

end Sys2Proof.Machine
end


section
/-! PROOFS. A law that the console, the power and the liveness blocks cannot break, and that a drain keeps, is kept by what boot
events and watch patterns bring with them. -/

namespace Sys2Proof.Machine

set_option Elab.async false

/-- The parts that everything but a drain writes, of what a boot event, a change of pg and a hit of the Watch Unit write. -/
abbrev quietParts : List Part := [.events, .mark, .line, .watch, .action, .power, .live, .count]

section
variable {P : State → Prop}

theorem bootEvent_keeps (hquiet : ∀ {s t : State}, s.Changes quietParts t → P s → P t) (hdrain : ∀ n s, P s → P (State.drain s n))
    {s : State} (h : P s) (n : NodeId) : P (s.bootEvent n) := by
  have honce {t : State} (ht : P t) : P (t.onceRule n) := by
    unfold State.onceRule
    split
    · exact ht
    · split
      · exact ht
      · exact ite_keeps (fun _ => hdrain n t ht) (fun _ => ht)
  have hcounted := hquiet (s.mapPower_changes_all n (fun p => { p with boot := p.boot + 1 })).1.mono h
  exact honce (hquiet (State.liveBoot_changes _ n).1.mono (hquiet (State.watchBoot_changes _ n).1.mono
    (hquiet (State.rearmLine_changes _ n).1.mono (hquiet (State.powerNotice_changes _ n).1.mono
      (hquiet (State.record_changes _ n .boot 0).1.mono hcounted)))))

theorem pulseEnds_keeps (hquiet : ∀ {s t : State}, s.Changes quietParts t → P s → P t) (hdrain : ∀ n s, P s → P (State.drain s n))
    {s : State} (h : P s) (n : NodeId) (a : Action) : P (s.pulseEnds n a) := by
  have hreleased := hquiet (s.releaseButtons_changes n).1.mono h
  exact hquiet (State.finish_changes _ n _).1.mono
    (ite_keeps (fun _ => bootEvent_keeps hquiet hdrain hreleased n) (fun _ => hreleased))

theorem acceptPg_keeps (hquiet : ∀ {s t : State}, s.Changes quietParts t → P s → P t) (hdrain : ∀ n s, P s → P (State.drain s n))
    {s : State} (h : P s) (n : NodeId) : P (s.acceptPg n) := by
  have hpower (f : Power → Power) := hquiet (s.mapPower_changes_all n f).1.mono h
  have hnoticed (f : Power → Power) (k : EventKind) (b : Bool) : P ((((s.mapPower n f).record n k).powerNotice n).conditionChange n
      (s.condition n) b) :=
    hquiet (State.conditionChange_changes _ n _ b).1.mono (hquiet (State.powerNotice_changes _ n).1.mono
      (hquiet (State.record_changes _ n k 0).1.mono (hpower f)))
  have hrise : P (s.pgRise n) := hquiet (State.actionRise_changes _ n).1.mono (bootEvent_keeps hquiet hdrain (hnoticed _ _ _) n)
  have hfall : P (s.pgFall n) := hquiet (State.actionFall_changes _ n).1.mono (hnoticed _ _ _)
  unfold State.acceptPg
  dsimp only
  split
  · exact hquiet (s.initialPg_changes n _).1.mono h
  · exact ite_keeps (fun _ => hrise) (fun _ => hpower _)
  · exact ite_keeps (fun _ => hpower _) (fun _ => hfall)

theorem debouncePg_keeps (hquiet : ∀ {s t : State}, s.Changes quietParts t → P s → P t) (hdrain : ∀ n s, P s → P (State.drain s n))
    {s : State} (h : P s) (n : NodeId) : P (s.debouncePg n) := by
  have hpower (f : Power → Power) := hquiet (s.mapPower_changes_all n f).1.mono h
  exact ite_keeps (fun _ => ite_keeps (fun _ => acceptPg_keeps hquiet hdrain h n) (fun _ => hpower _)) (fun _ => hpower _)

theorem senseChange_keeps (hquiet : ∀ {s t : State}, s.Changes quietParts t → P s → P t) (hdrain : ∀ n s, P s → P (State.drain s n))
    {s : State} (h : P s) (n : NodeId) (b : Bool) : P (s.senseChange n b) := by
  have hpin := hquiet (s.mapPower_changes_all n (fun p => { p with sense := b })).1.mono h
  exact ite_keeps (fun _ => hpin) (fun _ => debouncePg_keeps hquiet hdrain hpin n)

theorem takeHit_keeps (hquiet : ∀ {s t : State}, s.Changes quietParts t → P s → P t) (hdrain : ∀ n s, P s → P (State.drain s n))
    {s : State} (h : P s) (n : NodeId) (i : Nat) : P (s.takeHit n i) := by
  have haction {t : State} (ht : P t) (len : Nat) (a : WatchAction) : P (t.watchAction n len a) := by
    cases a
    case notice => exact ht
    case mark => exact hquiet (t.setMark_changes n _).1.mono ht
    case kick => exact hquiet (t.kick_changes n _).1.mono ht
    case detach => exact hdrain n t ht
    case power k => exact ite_keeps (fun _ => hquiet (t.submit_changes n _ _).1.mono ht) (fun _ => hquiet (t.dropPower_changes n).1.mono ht)
  unfold State.takeHit
  split
  · exact h
  · next p _ =>
    have hrecorded := hquiet (s.record_changes n .watchHit (BitVec.ofNat 16 i)).1.mono h
    exact ite_keeps (fun _ => hrecorded) (fun _ => haction (ite_keeps
      (fun _ => hquiet (State.mapPlace_changes _ n i _).1.mono hrecorded) (fun _ => hrecorded)) _ _)

theorem watchByte_keeps (hquiet : ∀ {s t : State}, s.Changes quietParts t → P s → P t) (hdrain : ∀ n s, P s → P (State.drain s n))
    {s : State} (h : P s) (n : NodeId) (b : Byte) : P (s.watchByte n b) := by
  unfold State.watchByte
  dsimp only
  refine foldl_keeps (P := P) (fun _ i ht => takeHit_keeps hquiet hdrain ht n i) _ ?_
  exact hquiet (s.mapWatch_changes n _).1.mono h

/-- A received character: what is left to show is that storing its byte keeps the law. -/
theorem receiveCharacter_keeps (hquiet : ∀ {s t : State}, s.Changes quietParts t → P s → P t)
    (hdrain : ∀ n s, P s → P (State.drain s n)) (hstore : ∀ n b f p s, P s → P (State.storeByte s n b f p))
    {s : State} (h : P s) (n : NodeId) (d : Byte) (p b : Bool) : P (s.receiveCharacter n d p b) := by
  refine ite_keeps (fun _ => hquiet (s.receiveBreak_changes n).1.mono h) (fun _ => ?_)
  exact hquiet (State.lossCheck_changes _ n _).1.mono (hquiet (State.kick_changes _ n _).1.mono
    (watchByte_keeps hquiet hdrain (hstore n _ _ _ _ (hquiet (State.restartIdleGap_changes _ n).1.mono
      (hquiet (s.mapLine_changes n (fun l => { l with rx := if b then .idle else .awaitHigh })).1.mono h))) n _))

end

end Sys2Proof.Machine
end


section
/-! PROOFS. The relations between the offsets, the mark, the index and the ring of a history hold at every step (O7). -/

namespace Sys2Proof.Machine

set_option Elab.async false

/-! ### One history -/

section
variable {h : History} {mask boot : Half}

/-- The law of a history is that of its index and mark, and the relations of its offsets to its ring. -/
theorem History.lawful_iff : h.Lawful ↔ h.IndexLawful ∧ h.oldest % Config.pageBytes = 0 ∧ h.oldest ≤ h.deliver ∧
    h.deliver ≤ h.next ∧ h.next ≤ h.oldest + Config.pageBytes * h.ring.length := by
  unfold History.Lawful History.IndexLawful
  constructor
  · rintro ⟨hmod, hod, hdn, hmark, hring, hlen, hsorted, hbounds⟩
    exact ⟨⟨Nat.le_trans hod hdn, hmark, hlen, hsorted, hbounds⟩, hmod, hod, hdn, hring⟩
  · rintro ⟨⟨_, hmark, hlen, hsorted, hbounds⟩, hmod, hod, hdn, hring⟩
    exact ⟨hmod, hod, hdn, hmark, hring, hlen, hsorted, hbounds⟩

/-- A change of the index that leaves the offsets, the mark and the ring. -/
theorem History.Lawful.reindexed (hl : h.Lawful) {x : History} (hi : h.IndexLawful → x.IndexLawful)
    (ho : x.oldest = h.oldest) (hd : x.deliver = h.deliver) (hn : x.next = h.next) (hr : x.ring = h.ring) : x.Lawful := by
  rw [History.lawful_iff] at hl ⊢
  rw [ho, hd, hn, hr]
  exact ⟨hi hl.1, hl.2⟩

theorem History.Lawful.oldest_le_next (hl : h.Lawful) : h.oldest ≤ h.next := (History.lawful_iff.mp hl).1.1

/-- A mark that outlives the oldest page lies beyond it. -/
theorem History.IndexLawful.loseMark (hl : h.IndexLawful) :
    (h.loseMark mask boot).IndexLawful ∧ ∀ m, (h.loseMark mask boot).mark = some m → h.oldest + Config.pageBytes ≤ m := by
  unfold History.loseMark
  split
  · next hm => exact ⟨hl, fun m hk => by rw [hm] at hk; cases hk⟩
  · next m hm =>
    split
    · have hgone : ({ h with mark := none } : History).IndexLawful := by
        obtain ⟨hle, _, hrest⟩ := hl
        exact ⟨hle, fun _ hm => Option.noConfusion rfl (heq_of_eq hm), hrest⟩
      exact ⟨hgone.record mask boot .markLost 0, fun m hm => by simp at hm⟩
    · next hkept =>
      refine ⟨hl, fun k hk => ?_⟩
      rw [hm] at hk
      cases hk
      omega

/-- Of entries in order of offset, those that remain when the ones below `k` are dropped lie at or beyond `k`. -/
theorem le_offset_of_mem_dropWhile {k : Nat} {l : List Event} (hs : l.Pairwise (fun x y => x.offset ≤ y.offset)) {e : Event}
    (he : e ∈ l.dropWhile (fun e => e.offset < k)) : k ≤ e.offset := by
  induction l with
  | nil => cases he
  | cons x xs ih =>
    obtain ⟨hx, hxs⟩ := List.pairwise_cons.mp hs
    rw [List.dropWhile_cons] at he
    split at he
    · exact ih hxs he
    · next hk =>
      have hkx : k ≤ x.offset := by simpa using hk
      rcases List.mem_cons.mp he with rfl | hmem
      · exact hkx
      · exact Nat.le_trans hkx (hx e hmem)

/-- What is left of the index when the oldest page is given up. -/
theorem History.IndexLawful.discardOldestPage (hl : h.IndexLawful) (hfull : h.oldest + Config.pageBytes ≤ h.next)
    (follow : Bool) : (h.discardOldestPage mask boot follow).IndexLawful := by
  obtain ⟨⟨_, hmark, hlen, hsorted, hbounds⟩, hbeyond⟩ := hl.loseMark (mask := mask) (boot := boot)
  have hjump {x : History} (hx : x.IndexLawful) : (x.jump follow).IndexLawful := by
    unfold History.IndexLawful at hx ⊢
    simpa using hx
  refine hjump ⟨by simpa [History.prune] using hfull, fun m hm => ⟨?_, (hmark m hm).2⟩, ?_, ?_, fun e he => ⟨?_, ?_⟩⟩
  · simpa [History.prune] using hbeyond m hm
  · exact Nat.le_trans ((List.dropWhile_sublist _).length_le) hlen
  · exact hsorted.sublist (List.dropWhile_sublist _)
  · exact le_offset_of_mem_dropWhile (by simpa using hsorted) (by simpa [History.prune] using he)
  · exact (hbounds e ((List.dropWhile_sublist _).subset he)).2

/-- Giving up the oldest page of a history keeps its law, where the rest of the ring holds its bytes. -/
theorem History.Lawful.discardOldestPage (hl : h.Lawful) (hfull : h.oldest + Config.pageBytes ≤ h.next) (follow : Bool)
    {ring : List Nat} (hring : h.next ≤ h.oldest + Config.pageBytes + Config.pageBytes * ring.length) :
    ({ h.discardOldestPage mask boot follow with ring := ring } : History).Lawful := by
  obtain ⟨hindex, hmod, hod, hdn, _⟩ := History.lawful_iff.mp hl
  obtain ⟨_, holdest, hnext, hdeliver⟩ := h.discardOldestPage_fields mask boot follow
  refine History.lawful_iff.mpr ⟨hindex.discardOldestPage hfull follow, ?_, ?_, ?_, ?_⟩
  · simp only [holdest, Nat.add_mod_right, hmod]
  · simp only [holdest, hdeliver]; omega
  · simp only [hnext, hdeliver]; omega
  · simpa only [holdest, hnext] using hring

/-- A full ring of two pages or more recycles its oldest page. -/
theorem History.Lawful.recycle (hl : h.Lawful) (hr : 2 ≤ h.ring.length) (hfull : h.full = true) (follow : Bool) :
    (h.recycle mask boot follow).Lawful ∧ (h.recycle mask boot follow).ring.length = h.ring.length ∧
      (h.recycle mask boot follow).full = false := by
  have hf := of_decide_eq_true hfull
  obtain ⟨_, _, _, _, hring⟩ := History.lawful_iff.mp hl
  unfold History.recycle
  cases hc : h.ring with
  | nil => simp [hc] at hr
  | cons p ps =>
    rw [hc] at hr hf hring
    simp only [List.length_cons] at hr hf hring
    have hlength : (ps ++ [p]).length = ps.length + 1 := by simp
    have hfirst : h.oldest + Config.pageBytes ≤ h.next := by
      have := Nat.mul_le_mul_left Config.pageBytes hr
      omega
    have hrest : h.next ≤ h.oldest + Config.pageBytes + Config.pageBytes * (ps ++ [p]).length := by rw [hlength]; omega
    refine ⟨hl.discardOldestPage hfirst follow hrest, by simp, ?_⟩
    obtain ⟨_, holdest, hnext, _⟩ := h.discardOldestPage_fields mask boot follow
    simp only [History.full, holdest, hnext, decide_eq_false_iff_not, hlength]
    have hpos : 0 < Config.pageBytes := by decide
    omega

/-- The pacer is no matter of the law. -/
theorem History.Lawful.paced (hl : h.Lawful) {x : History} {p : Pacer} (hx : x = { h with pacer := p }) : x.Lawful := by
  subst hx; exact hl

theorem History.paceByte_eq (d : DeliverySettings) (now : Nat) :
    h.paceByte d now = { h with pacer := (h.paceByte d now).pacer } := by
  unfold History.paceByte
  split
  · split <;> rfl
  · rfl

/-- A byte stored where the ring has room. -/
theorem History.Lawful.stored (hl : h.Lawful) (hroom : h.full = false) (d : DeliverySettings) (now : Nat) :
    (History.paceByte d now { h with next := h.next + 1, lineIdle := false }).Lawful := by
  refine History.Lawful.paced (h := { h with next := h.next + 1, lineIdle := false }) ?_ (History.paceByte_eq d now)
  obtain ⟨⟨hle, hmark, hlen, hsorted, hbounds⟩, hmod, hod, hdn, _⟩ := History.lawful_iff.mp hl
  have hr := of_decide_eq_false hroom
  refine History.lawful_iff.mpr ⟨⟨Nat.le_succ_of_le hle, fun m hm => ?_, hlen, hsorted, fun e he => ?_⟩, hmod, hod,
    Nat.le_succ_of_le hdn, by simpa using hr⟩
  · exact ⟨(hmark m hm).1, Nat.le_succ_of_le (hmark m hm).2⟩
  · exact ⟨(hbounds e he).1, Nat.le_succ_of_le (hbounds e he).2⟩

/-- One more page at the tail. -/
theorem History.Lawful.grown (hl : h.Lawful) (p : Nat) : ({ h with ring := h.ring ++ [p] } : History).Lawful := by
  obtain ⟨hindex, hmod, hod, hdn, hring⟩ := History.lawful_iff.mp hl
  refine History.lawful_iff.mpr ⟨hindex, hmod, hod, hdn, ?_⟩
  simp only [List.length_append, List.length_singleton, Nat.mul_add]
  omega

/-- A ring of three pages or more gives one page back. -/
theorem History.Lawful.shed (hl : h.Lawful) (hr : 2 < h.ring.length) (follow : Bool) {p : Nat} {x : History}
    (hs : h.shedPage mask boot follow = some (p, x)) : x.Lawful ∧ x.ring.length + 1 = h.ring.length := by
  obtain ⟨hindex, hmod, hod, hdn, hring⟩ := History.lawful_iff.mp hl
  unfold History.shedPage at hs
  cases hc : h.ring with
  | nil => simp [hc] at hs
  | cons q qs =>
    simp only [hc] at hs
    rw [hc] at hr hring
    split at hs
    · next hspare =>
      cases hs
      have hsp := (of_decide_eq_true hspare).2
      rw [hc] at hsp
      refine ⟨History.lawful_iff.mpr ⟨hindex, hmod, hod, hdn, ?_⟩, by simp⟩
      simpa using hsp
    · next hspare =>
      cases hs
      have hsp := of_decide_eq_false (Bool.not_eq_true _ ▸ hspare)
      simp only [hc, List.length_cons, Config.pageBytes] at hsp hr hring
      have hfirst : h.oldest + Config.pageBytes ≤ h.next := by simp only [Config.pageBytes]; omega
      have hrest : h.next ≤ h.oldest + Config.pageBytes + Config.pageBytes * qs.length := by
        simp only [Config.pageBytes]; omega
      exact ⟨hl.discardOldestPage hfirst follow hrest, by simp⟩

/-- deliver_offset placed between oldest_offset and next_offset. -/
theorem History.Lawful.delivering (hl : h.Lawful) {o : Nat} (hlo : h.oldest ≤ o) (hhi : o ≤ h.next) {g : Nat} {p : Pacer} :
    ({ h with deliver := o, gapCount := g, pacer := p } : History).Lawful := by
  obtain ⟨hindex, hmod, _, _, hring⟩ := History.lawful_iff.mp hl
  exact History.lawful_iff.mpr ⟨hindex, hmod, hlo, hhi, hring⟩

theorem History.Lawful.startAt (hl : h.Lawful) (wasOn : Bool) (c : StartChoice) :
    h.oldest ≤ (h.startAt wasOn c).1 ∧ (h.startAt wasOn c).1 ≤ h.next := by
  obtain ⟨hindex, _, hod, hdn, _⟩ := History.lawful_iff.mp hl
  unfold History.startAt
  cases c
  case now => exact ⟨hindex.1, Nat.le_refl _⟩
  case offset o => exact History.oldest_le_clampOffset hindex.1 o
  case continue_ =>
    dsimp only
    split
    · exact ⟨hod, hdn⟩
    · exact ⟨hindex.1, Nat.le_refl _⟩

theorem History.Lawful.applyFollow (hl : h.Lawful) (d : DeliverySettings) (now : Nat) (wasOn : Bool) (c : StartChoice) :
    (h.applyFollow d now wasOn c).Lawful := by
  unfold History.applyFollow
  split
  · exact hl.delivering (hl.startAt wasOn c).1 (hl.startAt wasOn c).2
  · exact hl.delivering (History.lawful_iff.mp hl).2.2.1 (History.lawful_iff.mp hl).2.2.2.1

theorem History.Lawful.applyMask (hl : h.Lawful) (m : Half) : (h.applyMask m).Lawful := by
  refine hl.reindexed (fun hi => hi.of_offsets (lost := h.lost) (b := h.eventPending) ?_) rfl rfl rfl rfl
  simp

end

end Sys2Proof.Machine
end


section
/-! PROOFS. What growing a ring takes from the pool: the lowest free pages, then the least recently used VALID entries' (R60, R64,
R65). -/

namespace Sys2Proof.Machine

set_option Elab.async false

/-- The pages that requests are given, in their order. -/
def State.supply (s : State) : List Nat := s.free ++ s.lru

/-- The pool after `k` requests. -/
def State.poolWithout (s : State) (k : Nat) : State :=
  { s with
    free := s.free.drop k
    lru := s.lru.drop (k - s.free.length)
    entries := s.entries.filter (fun e => !(s.lru.take (k - s.free.length)).contains e.page) }

/-- Pages join the tail of a ring. -/
def State.addRing (s : State) (n : NodeId) (l : List Nat) : State := s.mapHist n (fun h => { h with ring := h.ring ++ l })

section
variable (s : State) (n : NodeId)

@[simp] theorem State.poolWithout_zero : s.poolWithout 0 = s := by simp [State.poolWithout]

@[simp] theorem State.supply_poolWithout (k : Nat) : (s.poolWithout k).supply = s.supply.drop k := by
  simp [State.supply, State.poolWithout, List.drop_append]

theorem State.poolWithout_add (j k : Nat) : (s.poolWithout j).poolWithout k = s.poolWithout (j + k) := by
  have hsum : j + k - s.free.length = (j - s.free.length) + (k - (s.free.length - j)) := by omega
  simp only [State.poolWithout, List.drop_drop, List.length_drop, List.filter_filter, hsum, List.take_add,
    List.contains_eq_mem, List.mem_append, Bool.decide_or, Bool.not_or]
  congr 2
  funext e
  exact Bool.and_comm _ _

@[simp] theorem State.addRing_nil : s.addRing n [] = s := by
  simp only [State.addRing, State.mapHist, List.append_nil]
  exact s.setNd_nd n

theorem State.addRing_append (l k : List Nat) : (s.addRing n l).addRing n k = s.addRing n (l ++ k) := by
  simp [State.addRing, State.mapHist]

@[simp] theorem State.addRing_poolWithout (l : List Nat) (k : Nat) :
    (s.addRing n l).poolWithout k = (s.poolWithout k).addRing n l := rfl

@[simp] theorem State.addRing_supply (l : List Nat) : (s.addRing n l).supply = s.supply := rfl

@[simp] theorem State.addRing_set (l : List Nat) (m : NodeId) : (s.addRing n l).set m = s.set m := rfl

theorem State.addRing_nd_same (l : List Nat) :
    (s.addRing n l).nd n = { s.nd n with hist := { (s.nd n).hist with ring := (s.nd n).hist.ring ++ l } } :=
  s.nd_setNd_same n _

theorem State.addRing_nd_ne (l : List Nat) {m : NodeId} (h : m ≠ n) : (s.addRing n l).nd m = s.nd m := s.nd_setNd_ne _ h

/-- One request of a ring: what the pool has first joins the tail. -/
theorem State.growOne_eq : State.growOne n s = (s.poolWithout 1).addRing n (s.supply.take 1) := by
  have hnone : s.free ++ s.lru = [] → (s.poolWithout 1).addRing n (s.supply.take 1) = s := by
    intro h
    obtain ⟨hf, hl⟩ := List.append_eq_nil_iff.mp h
    have hpool : s.poolWithout 1 = s := by cases s; subst hf hl; simp [State.poolWithout]
    rw [hpool, State.supply, h, List.take_nil, State.addRing_nil]
  unfold State.growOne
  rcases s.getPage_cases with ⟨p, ps, hf, he⟩ | ⟨p, ps, hf, hl, he⟩ | ⟨hf, hl, he⟩
  · rw [he]; simp [State.addRing, State.poolWithout, State.supply, hf]
  · have hpage (e : Entry) : (e.page != p) = !decide (e.page = p) := by
      rw [bne, Bool.beq_eq_decide_eq]
    rw [he]; simp [State.addRing, State.poolWithout, State.supply, hf, hl, hpage]
  · rw [he, hnone (by rw [hf, hl]; rfl)]

theorem State.times_growOne_eq (k : Nat) : times k (State.growOne n) s = (s.poolWithout k).addRing n (s.supply.take k) := by
  induction k generalizing s with
  | zero => simp [times]
  | succ k ih =>
    rw [times, ih, s.growOne_eq n, State.addRing_poolWithout, State.addRing_append, State.poolWithout_add, State.addRing_supply,
      State.supply_poolWithout, Nat.add_comm 1 k]
    congr 1
    rw [Nat.add_comm k 1, List.take_add]

/-- The pages a ring below its min wants. -/
def State.wants (s : State) (n : NodeId) : Nat := (s.set n).quota.min - (s.nd n).hist.ring.length

/-- A ring below its min takes what it wants from the pool, as far as that goes. -/
theorem State.growRing_eq : s.growRing n = (s.poolWithout (s.wants n)).addRing n (s.supply.take (s.wants n)) :=
  s.times_growOne_eq n _

end

end Sys2Proof.Machine
end


section
/-! PROOFS. Start-up gives every ring its min pages from the lowest free ones, N0 first (R71, R191). -/

namespace Sys2Proof.Machine

set_option Elab.async false

section
variable {s t : State} {ps : List Part}

theorem State.Changes.ring_eq (hc : s.Changes ps t) (n : NodeId) (hp : Part.ring ∉ ps := by simp) :
    (t.nd n).hist.ring = (s.nd n).hist.ring := hc .ring hp n

theorem State.Changes.quota_eq (hc : s.Changes ps t) (n : NodeId) (hp : Part.quota ∉ ps := by simp) :
    (t.set n).quota = (s.set n).quota := hc .quota hp n

theorem State.Changes.delivery_eq (hc : s.Changes ps t) (n : NodeId) (hp : Part.delivery ∉ ps := by simp) :
    (t.set n).delivery = (s.set n).delivery := hc .delivery hp n

theorem State.Changes.free_eq (hc : s.Changes ps t) (hp : Part.free ∉ ps := by simp) : t.free = s.free := hc .free hp

theorem State.Changes.entries_eq (hc : s.Changes ps t) (hp : Part.entries ∉ ps := by simp) : t.entries = s.entries :=
  hc .entries hp

theorem State.Changes.lru_eq (hc : s.Changes ps t) (hp : Part.lru ∉ ps := by simp) : t.lru = s.lru := hc .lru hp

theorem State.Changes.held_eq (hc : s.Changes ps t) (hp : Part.reset ∉ ps := by simp) : t.held = s.held := (hc .reset hp).1

end

/-- No entry holds a page, and these pages are free and these on the LRU list. -/
def State.PoolIs (f l : List Nat) (s : State) : Prop := s.free = f ∧ s.entries = [] ∧ s.lru = l

section
variable {s t : State} {f l : List Nat} {n : NodeId}

theorem State.PoolIs.of_changes (h : s.PoolIs f l) {ps : List Part} (hc : s.Changes ps t) (hf : Part.free ∉ ps := by simp)
    (he : Part.entries ∉ ps := by simp) (hl : Part.lru ∉ ps := by simp) : t.PoolIs f l := by
  obtain ⟨hfree, hentries, hlru⟩ := h
  exact ⟨(hc.free_eq hf).trans hfree, (hc.entries_eq he).trans hentries, (hc.lru_eq hl).trans hlru⟩

theorem State.PoolIs.freeWhere (h : s.PoolIs f l) (g : Entry → Bool) : (s.freeWhere g).PoolIs f l := by
  simpa [State.freeWhere, h.2.1] using h

theorem State.PoolIs.setEntry (h : s.PoolIs f l) (p : Nat) (st : EntryState) : (s.setEntry p st).PoolIs f l := by
  obtain ⟨hfree, hentries, hlru⟩ := h
  exact ⟨hfree, by simp [State.setEntry, hentries], hlru⟩

theorem State.PoolIs.returnFlushing (h : s.PoolIs f l) (n : NodeId) : (s.returnFlushing n).PoolIs f l :=
  State.PoolIs.of_changes (foldl_keeps (P := State.PoolIs f l) (fun _ p hs => hs.setEntry p .dirty) _ h)
    (State.mapCache_changes _ n _).1

theorem State.PoolIs.drainEnd (h : s.PoolIs f l) (n : NodeId) : (s.drainEnd n).PoolIs f l := by
  unfold State.drainEnd
  split
  · exact h
  · exact ite_keeps (P := State.PoolIs f l) (fun _ => (h.freeWhere _).of_changes (State.slotAbsent_changes _ n).1) (fun _ => h)

/-- Where there is no entry, a drain frees none. -/
theorem State.PoolIs.drain (h : s.PoolIs f l) (n : NodeId) : (s.drain n).PoolIs f l := by
  unfold State.drain
  split
  · exact h
  · refine ite_keeps (P := State.PoolIs f l) (fun _ => h) (fun _ => State.PoolIs.drainEnd ?_ n)
    have hleft := ((h.of_changes (s.slotTo_changes n .withdrawing).1).of_changes (State.leaveReady_changes _ n).1).freeWhere
      (fun e => e.node == n && e.state.isFilling)
    exact ite_keeps (P := State.PoolIs f l) (fun _ => hleft.returnFlushing n) (fun _ => hleft)

theorem State.PoolIs.debouncePg (h : s.PoolIs f l) (n : NodeId) : (s.debouncePg n).PoolIs f l :=
  debouncePg_keeps (P := State.PoolIs f l) (fun hc hp => hp.of_changes hc) (fun m _ hp => hp.drain m) h n

/-- The history with a ring that has joined the empty one. -/
theorem State.startNode_ring (h : s.PoolIs f l) (hring : (s.nd n).hist.ring = []) (hmin : (s.set n).quota.min ≤ f.length) :
    ((s.startNode n).nd n).hist.ring = f.take (s.set n).quota.min ∧ (s.startNode n).PoolIs (f.drop (s.set n).quota.min) l := by
  have hlined := s.startLine_changes n
  have hpool := h.of_changes hlined.1
  have hset : ((s.startLine n).set n).quota = (s.set n).quota := hlined.1.quota_eq n
  have hnone : ((s.startLine n).nd n).hist.ring = [] := (hlined.1.ring_eq n).trans hring
  have hwants : (s.startLine n).wants n = (s.set n).quota.min := by simp [State.wants, hset, hnone]
  have hgrown := (s.startLine n).growRing_eq n
  obtain ⟨hfree, hentries, hlru⟩ := hpool
  have htake : (s.startLine n).supply.take (s.set n).quota.min = f.take (s.set n).quota.min := by
    rw [State.supply, hfree, List.take_append_of_le_length hmin]
  have hring' : (((s.startLine n).growRing n).nd n).hist.ring = f.take (s.set n).quota.min := by
    rw [hgrown, State.addRing_nd_same, hwants, htake]
    exact congrArg (· ++ f.take (s.set n).quota.min) hnone
  have hpool' : ((s.startLine n).growRing n).PoolIs (f.drop (s.set n).quota.min) l := by
    rw [hgrown, hwants]
    refine ⟨?_, ?_, ?_⟩
    · simp [State.addRing, State.poolWithout, hfree]
    · simp [State.addRing, State.poolWithout, hentries]
    · simp [State.addRing, State.poolWithout, hlru, hfree, Nat.sub_eq_zero_of_le hmin]
  have hlive := ((s.startLine n).growRing n).startLive_changes n
  have hdebounced := (((s.startLine n).growRing n).startLive n).debouncePg_changes n
  exact ⟨((hdebounced.1.ring_eq n).trans (hlive.1.ring_eq n)).trans hring', (hpool'.of_changes hlive.1).debouncePg n⟩

/-- Start-up of another node leaves a node alone. -/
theorem State.startNode_nd_ne {m : NodeId} (hm : m ≠ n) : (s.startNode n).nd m = s.nd m ∧ (s.startNode n).set m = s.set m :=
  s.startNode_changes n |>.2 m hm

theorem State.startNode_quota (m : NodeId) : ((s.startNode n).set m).quota = (s.set m).quota :=
  (s.startNode_changes n).1.quota_eq m

/-- A node starts where the free pages from `a` on are left: its ring takes the first of them. -/
theorem State.startNode_range {a b k m : Nat} (h : s.PoolIs (List.range' a (k - a)) l) (hring : (s.nd n).hist.ring = [])
    (hmin : (s.set n).quota.min = m) (hb : b = a + m) (hk : b ≤ k) :
    ((s.startNode n).nd n).hist.ring = List.range' a m ∧ (s.startNode n).PoolIs (List.range' b (k - b)) l := by
  have hlen : m ≤ k - a := by omega
  obtain ⟨hgot, hleft⟩ := State.startNode_ring h hring (by rw [hmin, List.length_range']; exact hlen)
  rw [hmin, List.take_range'_of_length_ge hlen] at hgot
  rw [hmin, List.drop_range', Nat.mul_one, Nat.sub_sub, ← hb] at hleft
  exact ⟨hgot, hleft⟩

/-- The four rings after start-up, and what is left of the free pages. -/
theorem State.startNodes_rings {m : NodeId → Nat} {k : Nat} (h : s.PoolIs (List.range' 0 k) l)
    (hring : ∀ n, (s.nd n).hist.ring = []) (hm : ∀ n, (s.set n).quota.min = m n)
    (hk : m .n0 + m .n1 + m .n2 + m .n3 ≤ k) (ht : t = NodeId.all.foldl State.startNode s) :
    (t.nd .n0).hist.ring = List.range' 0 (m .n0) ∧ (t.nd .n1).hist.ring = List.range' (m .n0) (m .n1) ∧
      (t.nd .n2).hist.ring = List.range' (m .n0 + m .n1) (m .n2) ∧
      (t.nd .n3).hist.ring = List.range' (m .n0 + m .n1 + m .n2) (m .n3) ∧
      t.PoolIs (List.range' (m .n0 + m .n1 + m .n2 + m .n3) (k - (m .n0 + m .n1 + m .n2 + m .n3))) l := by
  have hnext {u : State} (n : NodeId) (hq : ∀ i, (u.set i).quota.min = m i) (i : NodeId) :
      ((u.startNode n).set i).quota.min = m i := by rw [State.startNode_quota]; exact hq i
  have hsame {u : State} {i n : NodeId} (hi : i ≠ n) {r : List Nat} (hr : (u.nd i).hist.ring = r) :
      ((u.startNode n).nd i).hist.ring = r := by rw [(State.startNode_nd_ne hi).1]; exact hr
  obtain ⟨hr0, hp0⟩ := State.startNode_range (n := .n0) (a := 0) (b := m .n0) h (hring _) (hm _) (Nat.zero_add _).symm (by omega)
  obtain ⟨hr1, hp1⟩ := State.startNode_range (n := .n1) hp0 (hsame (by simp) (hring _)) (hnext _ hm _) rfl (by omega)
  obtain ⟨hr2, hp2⟩ := State.startNode_range (n := .n2) hp1 (hsame (by simp) (hsame (by simp) (hring _)))
    (hnext _ (hnext _ hm) _) rfl (by omega)
  obtain ⟨hr3, hp3⟩ := State.startNode_range (n := .n3) hp2 (hsame (by simp) (hsame (by simp) (hsame (by simp) (hring _))))
    (hnext _ (hnext _ (hnext _ hm)) _) rfl hk
  rw [ht]
  simp only [NodeId.all, List.foldl_cons, List.foldl_nil]
  refine ⟨?_, ?_, ?_, hr3, hp3⟩
  · exact hsame (n := .n3) (by simp) (hsame (n := .n2) (by simp) (hsame (n := .n1) (by simp) hr0))
  · exact hsame (n := .n3) (by simp) (hsame (n := .n2) (by simp) hr1)
  · exact hsame (n := .n3) (by simp) hr2

end

/-- Stored settings and the defaults have every quota in its ranges. -/
theorem State.loaded_inRange (s : State) : s.loaded.1.inRange = true := by
  unfold State.loaded
  split
  · decide
  · split
    · next x hx =>
      unfold Image.good at hx
      split at hx
      · cases hx
      · split at hx
        · next hgood => cases hx; exact hgood.2
        · cases hx
    · decide

theorem Settings.quota_inRange {x : Settings} (h : x.inRange = true) (n : NodeId) :
    2 ≤ (x.nodes.get n).quota.min ∧ (x.nodes.get n).quota.min ≤ (x.nodes.get n).quota.max ∧ (x.nodes.get n).quota.max ≤ 160 := by
  simp only [Settings.inRange, NodeSettings.inRange, Quota.inRange, within, Bool.and_eq_true, decide_eq_true_eq] at h
  cases n <;> simp only [PerNode.get] <;> omega

/-- The quotas after START_UP. -/
theorem State.settled_quota (s : State) (b : BitVec 2) (n : NodeId) : 2 ≤ ((s.settled b).set n).quota.min ∧
    ((s.settled b).set n).quota.min ≤ ((s.settled b).set n).quota.max ∧ ((s.settled b).set n).quota.max ≤ 160 :=
  Settings.quota_inRange s.loaded_inRange n

end Sys2Proof.Machine
end


section
/-! PROOFS. A part held in reset: what its commands change. -/

namespace Sys2Proof.Machine

set_option Elab.async false

/-- The command begins or ends a part reset. -/
def resetsPart : Instr → Bool
  | .resetNAsserted | .powerOn | .startUp _ => true
  | _ => false

/-- The parts that a command can change while the part is held in reset: the pins and the link's receiver. -/
abbrev pinParts : List Part := [.link, .pauses, .current, .media, .power, .live]

section
variable {s : State} (h : s.held = true)

include h

theorem State.running_held (f : State → State) : s.running f = s := by simp [State.running, h]

/-- Neither an edge nor a character is decoded, no port takes anything, and no grant is made. -/
theorem State.idle_held (n : NodeId) :
    s.decodes n = false ∧ s.measures n = false ∧ s.connected n = false ∧ s.portFree n = false ∧ s.mayGrant = false := by
  simp [State.decodes, State.measures, State.connected, State.portFree, State.mayGrant, h]

/-- Held in reset, neither a request is taken nor an expiry due. -/
theorem State.run_held {i : Instr} (hi : resetsPart i = false) : s.Changes pinParts (s.run i) := by
  have hgiven {α : Type} {o : Option α} {f : α → State} : s.Changes pinParts (s.given o f) := by
    rw [State.given_held h]; exact .refl s _
  have hrunning {f : State → State} : s.Changes pinParts (s.running f) := by
    rw [State.running_held h]; exact .refl s _
  have hnot {c : Bool} {t u : State} (hc : c = false) (hu : s.Changes pinParts u) : s.Changes pinParts (if c then t else u) := by
    rw [if_neg (by simp [hc])]; exact hu
  have hsame : s.Changes pinParts s := .refl s _
  cases hr : requestOf i with
  | some f =>
    rw [run_request hr, State.serve_not_taken]
    · exact hsame
    · by_contra htaken
      have hlistening := State.takes_listening (Bool.not_eq_false _ ▸ htaken)
      simp [h] at hlistening
  | none =>
    have hidle := State.idle_held h
    cases i
    case resetNAsserted | powerOn | startUp => simp [resetsPart] at hi
    case unknownKindFrame | linkFrameReceived | lrtsAsserted | linkByteReceived | lrtsDeasserted | vbusPresent | vbusAbsent |
        hbInputChange => exact (s.run_changes _).mono
    case saveWriteEnd | linkGapTimeout | frameSent | idleGapSignal | pacerDelayExpiry | lockIdleWaitEnd | txCharacterSent |
        txBreakEnd | txIdleTimeEnd | blockDelivery | blockAccept | fetchTimeout | storeTimeout | pgAccepted | settleExpiry |
        pressEnd | awaitUpExpiry | awaitDownExpiry | holdEnd | cutCheckExpiry | dwellExpiry | pulseEnd | graceExpiry |
        timeoutExpiry | warnExpiry | stableDeadlineExpiry | hbLevelAccepted => exact hgiven
    case rxBreakEnd | newEntryRequest => exact hrunning
    case characterReceived n _ _ _ | breakRx n => exact hnot (hidle n).1 hsame
    case autobaudAcceptedEdge n _ _ => exact hnot (hidle n).2.1 hrunning
    case autobaudWindowComplete n _ => exact hnot (hidle n).2.1 hsame
    case usbBusReset n => exact hnot (hidle n).2.2.1 hsame
    case invalidCommand n | ready n | capacity n | eject n | sense n | read n _ _ | write n _ _ =>
      exact hnot (hidle n).2.2.2.1 hsame
    case arbiterGrant => exact hnot (hidle .n0).2.2.2.2 hsame
    case writeBlockReceived n d => exact hnot (by simp [(hidle n).2.2.1]) hsame
    case pgSenseChange n b =>
      have hpin : s.senseChange n b = s.mapPower n (fun p => { p with sense := b }) := by
        simp [State.senseChange, h]
      have hchanged : s.Changes pinParts (s.senseChange n b) := by
        rw [hpin]; exact (s.mapPower_changes_power n (fun p => { p with sense := b }) (fun _ => ⟨rfl, rfl, rfl, rfl⟩)).1.mono
      exact .ite hsame hchanged
    all_goals cases hr

end

end Sys2Proof.Machine
end


section
/-! PROOFS. The relations between the offsets, the mark, the index and the ring of every history hold at every step (O7). -/

namespace Sys2Proof.Machine

set_option Elab.async false

/-! ### A law that the arbiter's grants keep -/

section
variable {P : State → Prop}

/-- The parts that a grant writes but for a bulk notice. -/
abbrev noticeParts : List Part := [.link, .power, .live, .media, .events, .line]

theorem State.bulkPending_of_pickBulk {s : State} {b : Bulk} {n : NodeId} (h : s.pickBulk = some (b, n)) :
    s.bulkPending n b = true := by
  obtain ⟨c, _, hc⟩ := List.exists_of_findSome?_eq_some h
  obtain ⟨m, hm, heq⟩ := Option.map_eq_some_iff.mp hc
  cases heq
  have hfound := List.find?_some hm
  exact hfound

/-- A law that notices other than bulk ones leave alone: what is left to show is that a bulk notice keeps it. -/
theorem grant_keeps (hnotice : ∀ {s t : State}, s.Changes noticeParts t → P s → P t)
    (hbulk : ∀ n b s, P s → State.bulkPending s n b = true → P (State.buildBulk s n b)) {s : State} (h : P s) : P s.grant := by
  have hlink {s : State} (f : Link → Link) (h : P s) : P (s.mapLink f) := hnotice (s.mapLink_changes .n0 f).1.mono h
  have hgrant (k : Nat) : ∀ s, P s → P (State.grantNotice k s) := by
    induction k with
    | zero => exact fun s h => h
    | succ k ih =>
      intro s h
      unfold State.grantNotice
      split
      · next n j _ =>
        have hserved := hlink (fun l => l.stateServed n j) h
        refine ite_keeps (fun _ => ih _ (hnotice ?_ hserved)) (fun _ => hnotice (State.buildStateNotice_changes _ n j).1.mono hserved)
        exact (State.mapHist_changes_events _ n (fun h => { h with eventPending := false }) (fun _ => rfl)
          (fun _ hx => hx.of_offsets rfl)).1.mono
      · split
        · next b n hpick => exact hbulk n b _ (hlink _ h) (by
            have hpending := State.bulkPending_of_pickBulk hpick
            cases b <;> exact hpending)
        · exact h
  unfold State.grant
  split
  · exact hnotice (s.send_changes .n0 _ _).1.mono h
  · exact ite_keeps (fun _ => h) (fun _ => ite_keeps
      (fun _ => hnotice (State.send_changes _ .n0 _ _).1.mono (hlink _ h)) (fun _ => hgrant 5 s h))

end

/-! ### Every history of a part that runs -/

/-- The history's law of a part that runs: every history is lawful, and every ring has at least two pages and may keep them. -/
def State.RingsLaw (s : State) : Prop :=
  s.held = false ∧ ∀ n, (s.nd n).hist.Lawful ∧ 2 ≤ (s.nd n).hist.ring.length ∧ 2 ≤ (s.set n).quota.max

section
variable {s t : State}

theorem State.ringsLaw_of_historyLaw (h : s.HistoryLaw) (hheld : s.held = false) : s.RingsLaw :=
  ⟨hheld, fun n => ⟨(h.1 n).1, (h.1 n).2 hheld⟩⟩

theorem State.RingsLaw.historyLaw (h : s.RingsLaw) : s.HistoryLaw :=
  ⟨fun n => ⟨(h.2 n).1, fun _ => (h.2 n).2⟩, fun hheld => by rw [h.1] at hheld; cases hheld⟩

theorem State.RingsLaw.of_changes {ps : List Part} (h : s.RingsLaw) (hc : s.Changes ps t) (hreset : Part.reset ∉ ps := by simp)
    (hring : Part.ring ∉ ps := by simp) (hindex : Part.index ∉ ps := by simp) (hstream : Part.stream ∉ ps := by simp)
    (hquota : Part.quota ∉ ps := by simp) : t.RingsLaw := by
  refine ⟨(hc.held_eq hreset).trans h.1, fun n => ?_⟩
  obtain ⟨hlawful, hlength, hmax⟩ := h.2 n
  obtain ⟨ho, hn, hd, _⟩ := hc .stream hstream n
  rw [hc.ring_eq n hring, hc.quota_eq n hquota]
  exact ⟨hlawful.reindexed (hc .index hindex n) ho hd hn (hc.ring_eq n hring), hlength, hmax⟩

/-- A change of one history that keeps its law and two pages of its ring. -/
theorem State.RingsLaw.mapHist (h : s.RingsLaw) (n : NodeId) {f : History → History}
    (hf : (s.nd n).hist.Lawful → 2 ≤ (s.nd n).hist.ring.length →
      (f (s.nd n).hist).Lawful ∧ 2 ≤ (f (s.nd n).hist).ring.length) : (s.mapHist n f).RingsLaw := by
  refine ⟨h.1, fun m => ?_⟩
  obtain ⟨hlawful, hlength, hmax⟩ := h.2 m
  by_cases hm : m = n
  · subst hm
    rw [State.mapHist, State.nd_setNd_same]
    obtain ⟨hl, hr⟩ := hf hlawful hlength
    exact ⟨hl, hr, hmax⟩
  · rw [State.mapHist, State.nd_setNd_ne _ _ hm]
    exact ⟨hlawful, hlength, hmax⟩

theorem State.RingsLaw.recycle (h : s.RingsLaw) (n : NodeId) (hfull : (s.nd n).hist.full = true) : (s.recycle n).RingsLaw :=
  h.mapHist n (fun hl hr => ⟨(hl.recycle hr hfull _).1, by rw [(hl.recycle hr hfull _).2.1]; exact hr⟩)

theorem History.Lawful.not_full_grown {h : History} (hl : h.Lawful) (p : Nat) :
    ({ h with ring := h.ring ++ [p] } : History).full = false := by
  have hroom := (History.lawful_iff.mp hl).2.2.2.2
  have hpos : 0 < Config.pageBytes := by decide
  simp only [History.full, decide_eq_false_iff_not, List.length_append, List.length_singleton, Nat.mul_add]
  omega

/-- Whether a ring is full is read off its offsets and its pages. -/
theorem State.Changes.full_eq {ps : List Part} (hc : s.Changes ps t) (n : NodeId) (hring : Part.ring ∉ ps := by simp)
    (hstream : Part.stream ∉ ps := by simp) : (t.nd n).hist.full = (s.nd n).hist.full := by
  obtain ⟨ho, hn, _⟩ := hc .stream hstream n
  simp only [History.full, hc.ring_eq n hring, ho, hn]

/-- Room is made for one byte. -/
theorem State.RingsLaw.makeRoom (h : s.RingsLaw) (n : NodeId) :
    (s.makeRoom n).RingsLaw ∧ ((s.makeRoom n).nd n).hist.full = false := by
  obtain ⟨hlawful, hlength, _⟩ := h.2 n
  have hrecycled (hfull : (s.nd n).hist.full = true) : (s.recycle n).RingsLaw ∧ ((s.recycle n).nd n).hist.full = false := by
    refine ⟨h.recycle n hfull, ?_⟩
    rw [State.recycle, State.mapHist, State.nd_setNd_same]
    exact (hlawful.recycle hlength hfull _).2.2
  unfold State.makeRoom
  split
  · next hfull =>
    split
    · split
      · next p t hpage =>
        have hgot := (State.getPage_changes n hpage).1
        have ht : t.RingsLaw := h.of_changes hgot
        refine ⟨ht.mapHist n (fun hl hr => ⟨hl.grown p, by simp; omega⟩), ?_⟩
        rw [State.mapHist, State.nd_setNd_same]
        exact (ht.2 n).1.not_full_grown p
      · exact hrecycled hfull
    · exact hrecycled hfull
  · next hfull => exact ⟨h, Bool.not_eq_true _ ▸ hfull⟩

theorem State.RingsLaw.storeByte (h : s.RingsLaw) (n : NodeId) (b : Byte) (f p : Bool) : (s.storeByte n b f p).RingsLaw := by
  obtain ⟨hroom, hfull⟩ := h.makeRoom n
  have herror {u : State} (c : Bool) (k : EventKind) : u.Changes [.events] (if c then u.recordError n k else u) :=
    .ite (u.recordError_changes n k).1 (.refl u _)
  have hmarked := (herror f .framing).next (herror p .parity) (u := if p then
    (if f then (s.makeRoom n).recordError n .framing else s.makeRoom n).recordError n .parity else
    if f then (s.makeRoom n).recordError n .framing else s.makeRoom n) (rs := [.events])
  have hwritten := hmarked.next (State.writeHistory_changes _ n b).1 (rs := [.events, .mem])
  refine (hroom.of_changes hwritten).mapHist n (fun hl hr => ?_)
  have hroomy := (hwritten.full_eq n).trans hfull
  refine ⟨hl.stored hroomy _ _, ?_⟩
  rw [History.paceByte_eq]
  exact hr

/-! ### The pool -/

/-- One page given back by a ring of three pages or more. -/
theorem State.RingsLaw.shedOne (h : s.RingsLaw) {n : NodeId} (hr : 2 < (s.nd n).hist.ring.length) :
    (State.shedOne n s).RingsLaw ∧ ((State.shedOne n s).nd n).hist.ring.length + 1 = (s.nd n).hist.ring.length := by
  unfold State.shedOne
  split
  · next hnone =>
    unfold History.shedPage at hnone
    split at hnone
    · next hring => simp [hring] at hr
    · split at hnone <;> cases hnone
  · next p x hshed =>
    obtain ⟨hlawful, hlength⟩ := (h.2 n).1.shed hr _ hshed
    have hkept : (s.mapHist n (fun _ => x)).RingsLaw := h.mapHist n (fun _ _ => ⟨hlawful, by omega⟩)
    refine ⟨hkept.of_changes (State.givePage_changes _ n p).1, ?_⟩
    show ((s.mapHist n (fun _ => x)).nd n).hist.ring.length + 1 = _
    rw [State.mapHist, State.nd_setNd_same]
    exact hlength

theorem State.RingsLaw.times_shedOne (h : s.RingsLaw) {n : NodeId} {k : Nat} (hk : k + 2 ≤ (s.nd n).hist.ring.length) :
    (times k (State.shedOne n) s).RingsLaw := by
  induction k generalizing s with
  | zero => exact h
  | succ k ih =>
    obtain ⟨hlaw, hlength⟩ := h.shedOne (n := n) (by omega)
    exact ih hlaw (by omega)

theorem State.RingsLaw.shedRing (h : s.RingsLaw) (n : NodeId) : (s.shedRing n).RingsLaw := by
  obtain ⟨_, hlength, hmax⟩ := h.2 n
  exact h.times_shedOne (by omega)

theorem State.RingsLaw.growRing (h : s.RingsLaw) (n : NodeId) : (s.growRing n).RingsLaw := by
  refine times_keeps (P := State.RingsLaw) (fun u hu => ?_) _ h
  unfold State.growOne
  split
  · exact hu
  · next p v hpage =>
    exact (hu.of_changes (State.getPage_changes n hpage).1).mapHist n (fun hl hr => ⟨hl.grown p, by simp; omega⟩)

/-- The quotas of each node after POOL_SET. -/
theorem State.setQuotas_set (q : PerNode Quota) (n : NodeId) : (s.setQuotas q).set n = { s.set n with quota := q.get n } := by
  cases n <;> rfl

theorem PerNode.validQuotas_iff {q : PerNode Quota} : q.validQuotas = true ↔
    ∀ n, 2 ≤ (q.get n).min ∧ (q.get n).min ≤ (q.get n).max ∧ (q.get n).max ≤ 160 := by
  simp only [PerNode.validQuotas, Quota.inRange, within, Bool.and_eq_true, decide_eq_true_eq]
  constructor
  · intro h n
    cases n <;> simp only [PerNode.get] <;> omega
  · intro h
    have h0 := h .n0
    have h1 := h .n1
    have h2 := h .n2
    have h3 := h .n3
    simp only [PerNode.get] at h0 h1 h2 h3
    omega

theorem State.RingsLaw.setQuotas (h : s.RingsLaw) {q : PerNode Quota} (hq : q.validQuotas = true) : (s.setQuotas q).RingsLaw := by
  refine ⟨h.1, fun n => ?_⟩
  obtain ⟨hlawful, hlength, _⟩ := h.2 n
  obtain ⟨hmin, hmax, _⟩ := PerNode.validQuotas_iff.mp hq n
  rw [State.setQuotas_set]
  exact ⟨hlawful, hlength, Nat.le_trans hmin hmax⟩

theorem State.RingsLaw.setPool (h : s.RingsLaw) (p : List Byte) : (s.setPool p).state.RingsLaw := by
  rw [State.setPool_state]
  refine ite_keeps (P := State.RingsLaw) (fun hq => ?_) (fun _ => h)
  exact foldl_keeps (P := State.RingsLaw) (fun _ n hu => hu.growRing n) _
    (foldl_keeps (P := State.RingsLaw) (fun _ n hu => hu.shedRing n) _ (h.setQuotas hq))

/-! ### Delivery -/

theorem State.RingsLaw.setDelivery (h : s.RingsLaw) (n : NodeId) (p : List Byte) : (s.setDelivery n p).state.RingsLaw := by
  unfold State.setDelivery
  split
  · next d c _ _ =>
    have hset := h.of_changes (s.mapSet_changes n (fun x => { x with delivery := d }) [.delivery]).1
    have hgap : (if d.gap = (s.set n).delivery.gap then s.mapSet n (fun x => { x with delivery := d }) else
        (State.restartIdleGap (s.mapSet n (fun x => { x with delivery := d })) n).mapHist n
          (fun h => { h with lineIdle := false })).RingsLaw :=
      ite_keeps (P := State.RingsLaw) (fun _ => hset) (fun _ => (hset.of_changes (State.restartIdleGap_changes _ n).1).mapHist n
        (fun hl hr => ⟨hl, hr⟩))
    refine hgap.mapHist n (fun hl hr => ⟨(hl.applyMask d.mask).applyFollow d _ _ c, ?_⟩)
    unfold History.applyFollow
    split <;> exact hr
  · exact h

theorem State.RingsLaw.buildData (h : s.RingsLaw) (n : NodeId) : (s.buildData n).RingsLaw := by
  refine State.RingsLaw.mapHist (h.of_changes (s.sendNotice_changes .n0 n _ _).1) n (fun hl hr => ⟨?_, hr⟩)
  obtain ⟨_, _, hod, hdn, _⟩ := History.lawful_iff.mp hl
  refine hl.delivering (Nat.le_trans hod (Nat.le_add_right _ _)) ?_
  show (s.nd n).hist.deliver + min 512 ((s.nd n).hist.next - (s.nd n).hist.deliver) ≤ (s.nd n).hist.next
  have hdn' : (s.nd n).hist.deliver ≤ (s.nd n).hist.next := hdn
  omega

theorem State.RingsLaw.buildBulk (h : s.RingsLaw) (n : NodeId) (b : Bulk) : (s.buildBulk n b).RingsLaw := by
  cases b
  case data => exact h.buildData n
  case fetch => exact (h.of_changes (s.sendNotice_changes .n0 n _ _).1).of_changes (State.fetchesSent_changes _ n _).1
  case writeOut =>
    show (s.buildWriteOut n).RingsLaw
    unfold State.buildWriteOut
    split
    · exact h
    · exact (h.of_changes (s.sendNotice_changes .n0 n _ _).1).of_changes (State.writeOutHead_changes _ n _).1

/-! ### Resets -/

/-- A fresh history is lawful. -/
theorem History.lawful_fresh (ring : List Nat) : (History.fresh ring).Lawful := by
  simp [History.Lawful, History.fresh]

theorem State.partReset_historyLaw (s : State) (c : ResetCause) (d : Bool) : (s.partReset c d).HistoryLaw := by
  have hfresh (n : NodeId) : ((s.partReset c d).nd n).hist = .fresh [] := by cases n <;> rfl
  exact ⟨fun n => ⟨hfresh n ▸ History.lawful_fresh [], fun hheld => by cases hheld⟩, fun _ => ⟨rfl, rfl, rfl, hfresh⟩⟩

/-- START_UP takes straps and settings, starts the nodes, and makes PART_READY pending. -/
theorem State.startUp_started (s : State) (b : BitVec 2) : ∃ u, u = NodeId.all.foldl State.startNode (s.settled b) ∧
    (s.settled b).Changes startNodeParts u ∧ s.startUp b = u.mapLink (fun l => { l with readyPending := true }) := by
  refine ⟨_, rfl, ?_, s.startUp_eq b⟩
  exact .foldl (fun u n => (u.startNode_changes n).1) _ _

/-- What START_UP leaves of settings and state as it has taken them. -/
theorem State.settled_changes_startUp (s : State) (b : BitVec 2) :
    (s.settled b).Changes (.link :: startNodeParts) (s.startUp b) := by
  obtain ⟨u, _, hfold, hstart⟩ := s.startUp_started b
  rw [hstart]
  exact hfold.next (u.mapLink_changes .n0 _).1 (List.subset_cons_self _ _) (by simp)

/-- What START_UP leaves of the rings. -/
theorem State.startUp_rings {l : List Nat} (hpool : s.PoolIs (List.range' 0 Config.pages) l) (hring : ∀ n, (s.nd n).hist.ring = [])
    (b : BitVec 2) {m : NodeId → Nat} (hm : ∀ n, ((s.settled b).set n).quota.min = m n) :
    (((s.startUp b).nd .n0).hist.ring = List.range' 0 (m .n0) ∧ ((s.startUp b).nd .n1).hist.ring = List.range' (m .n0) (m .n1) ∧
      ((s.startUp b).nd .n2).hist.ring = List.range' (m .n0 + m .n1) (m .n2) ∧
      ((s.startUp b).nd .n3).hist.ring = List.range' (m .n0 + m .n1 + m .n2) (m .n3)) ∧
      (s.startUp b).PoolIs (List.range' (m .n0 + m .n1 + m .n2 + m .n3)
        (Config.pages - (m .n0 + m .n1 + m .n2 + m .n3))) l := by
  obtain ⟨u, hfold, _, hstart⟩ := s.startUp_started b
  have hsum (n : NodeId) : m n ≤ 160 := by
    have hrange := s.settled_quota b n
    rw [hm] at hrange
    omega
  have h0 := hsum .n0
  have h1 := hsum .n1
  have h2 := hsum .n2
  have h3 := hsum .n3
  obtain ⟨hr0, hr1, hr2, hr3, hleft⟩ := State.startNodes_rings (s := s.settled b) (k := Config.pages) hpool hring hm
    (by simp only [Config.pages]; omega) hfold
  rw [hstart]
  exact ⟨⟨hr0, hr1, hr2, hr3⟩, hleft⟩

theorem State.startUp_ringsLaw (h : s.HistoryLaw) (hheld : s.held = true) (b : BitVec 2) : (s.startUp b).RingsLaw := by
  obtain ⟨hfree, hentries, hlru, hfresh⟩ := h.2 hheld
  have hquota := s.settled_quota b
  have hstarted := s.settled_changes_startUp b
  have hrings := (State.startUp_rings ⟨hfree, hentries, hlru⟩ (fun n => congrArg History.ring (hfresh n)) b (fun _ => rfl)).1
  have hlength (n : NodeId) : 2 ≤ ((s.startUp b).nd n).hist.ring.length := by
    obtain ⟨hr0, hr1, hr2, hr3⟩ := hrings
    have hmin := (hquota n).1
    cases n
    · rw [hr0, List.length_range']; exact hmin
    · rw [hr1, List.length_range']; exact hmin
    · rw [hr2, List.length_range']; exact hmin
    · rw [hr3, List.length_range']; exact hmin
  refine ⟨hstarted.held_eq, fun n => ⟨?_, hlength n, ?_⟩⟩
  · have hsettled : ((s.settled b).nd n).hist = .fresh [] := hfresh n
    obtain ⟨ho, hn, hd, _⟩ := hstarted .stream (by simp) n
    have hindex := hstarted .index (by simp) n
    rw [hsettled] at ho hn hd hindex
    refine History.lawful_iff.mpr ⟨hindex (History.lawful_iff.mp (History.lawful_fresh [])).1, ?_, ?_, ?_, ?_⟩
    · rw [ho]; rfl
    · rw [ho, hd]; exact Nat.le_refl _
    · rw [hn, hd]; exact Nat.le_refl _
    · rw [hn, ho]; exact Nat.zero_le _
  · rw [hstarted.quota_eq]
    exact Nat.le_trans (hquota n).1 (hquota n).2.1

/-! ### Every command -/

theorem State.RingsLaw.frameSent (h : s.RingsLaw) (x : Sending) : (s.frameSent x).HistoryLaw := by
  have hlink {u : State} (hu : u.RingsLaw) (f : Link → Link) : (u.mapLink f).RingsLaw := hu.of_changes (u.mapLink_changes .n0 f).1
  unfold State.frameSent State.replySent State.noticeSent
  dsimp only
  split
  · split
    · split
      · exact State.partReset_historyLaw _ _ _
      · exact (hlink h _).historyLaw
    · exact (hlink (hlink h _) _).historyLaw
  · exact (hlink h _).historyLaw

/-- Every command but a reset keeps the histories of a part that runs. -/
theorem State.RingsLaw.run (h : s.RingsLaw) {i : Instr} (hi : resetsPart i = false) : (s.run i).HistoryLaw := by
  have hchanged {u : State} {ps : List Part} (hc : s.Changes ps u) (hreset : Part.reset ∉ ps := by simp)
      (hring : Part.ring ∉ ps := by simp) (hindex : Part.index ∉ ps := by simp) (hstream : Part.stream ∉ ps := by simp)
      (hquota : Part.quota ∉ ps := by simp) : u.HistoryLaw := (h.of_changes hc hreset hring hindex hstream hquota).historyLaw
  cases i
  case resetNAsserted | powerOn | startUp => cases hi
  case poolSet tag node p =>
    exact (partRequest_keeps (P := State.RingsLaw) (fun hc h => h.of_changes hc) (fun s h => h.setPool p) h _ _ _ _ _).historyLaw
  case conDeliverySet tag node p =>
    exact (nodeRequest_keeps (P := State.RingsLaw) (fun hc h => h.of_changes hc) (fun n s h => h.setDelivery n p) h _ _ _ _ _).historyLaw
  case arbiterGrant =>
    exact (ite_keeps (P := State.RingsLaw) (fun _ => grant_keeps (P := State.RingsLaw) (fun hc h => h.of_changes hc)
      (fun n b s h _ => h.buildBulk n b) h) (fun _ => h)).historyLaw
  case frameSent => exact State.given_keeps (P := State.HistoryLaw) h.historyLaw (fun x _ => h.frameSent x)
  case characterReceived n d p b =>
    exact (ite_keeps (P := State.RingsLaw) (fun _ => receiveCharacter_keeps (P := State.RingsLaw) (fun hc h => h.of_changes hc)
      (fun n s h => h.of_changes (s.drain_changes n).1) (fun n b f p s h => h.storeByte n b f p) h n d p b) (fun _ => h)).historyLaw
  case idleGapSignal n =>
    refine (State.given_keeps (P := State.RingsLaw) h (fun e _ => ?_)).historyLaw
    exact ((h.of_changes (s.toCycle_changes n e).1).of_changes (State.mapLine_changes _ n _).1).mapHist n (fun hl hr => ⟨hl, hr⟩)
  case pacerDelayExpiry n =>
    refine (State.given_keeps (P := State.RingsLaw) h (fun e _ => ?_)).historyLaw
    exact (h.of_changes (s.toTick_changes n e).1).mapHist n (fun hl hr => ⟨hl, hr⟩)
  all_goals exact hchanged (s.run_changes _)

/-- Histories that are the same stay lawful, and fresh in reset. -/
theorem State.HistoryLaw.of_changes {ps : List Part} (h : s.HistoryLaw) (hc : s.Changes ps t) (hreset : Part.reset ∉ ps := by simp)
    (hring : Part.ring ∉ ps := by simp) (hstream : Part.stream ∉ ps := by simp) (hevents : Part.events ∉ ps := by simp)
    (hmark : Part.mark ∉ ps := by simp) (hquota : Part.quota ∉ ps := by simp) (hfree : Part.free ∉ ps := by simp)
    (hentries : Part.entries ∉ ps := by simp) (hlru : Part.lru ∉ ps := by simp) : t.HistoryLaw := by
  have hsame (n : NodeId) : (t.nd n).hist = (s.nd n).hist := by
    obtain ⟨ho, hn, hd, hg, hp, hl⟩ := hc .stream hstream n
    obtain ⟨hi, hlost, he⟩ := hc .events hevents n
    have hm : (t.nd n).hist.mark = (s.nd n).hist.mark := hc .mark hmark n
    have hr := hc.ring_eq n hring
    generalize (t.nd n).hist = x at *
    generalize (s.nd n).hist = y at *
    cases x
    cases y
    simp_all
  unfold State.HistoryLaw at h ⊢
  simp only [hsame, hc.quota_eq _ hquota, hc.held_eq hreset, hc.free_eq hfree, hc.entries_eq hentries, hc.lru_eq hlru]
  exact h

theorem State.HistoryLaw.run (h : s.HistoryLaw) (i : Instr) : (s.run i).HistoryLaw := by
  by_cases hi : resetsPart i = true
  · cases i
    case resetNAsserted | powerOn => exact State.partReset_historyLaw _ _ _
    case startUp b => exact ite_keeps (P := State.HistoryLaw) (fun hheld => (State.startUp_ringsLaw h hheld b).historyLaw) (fun _ => h)
    all_goals cases hi
  · have hi := Bool.not_eq_true _ ▸ hi
    cases hheld : s.held with
    | true => exact h.of_changes (State.run_held hheld hi)
    | false => exact (State.ringsLaw_of_historyLaw h hheld).run hi

/-- The first half of O7. -/
theorem State.HistoryLaw.step (h : s.HistoryLaw) (hst : step s = .next t) : t.HistoryLaw :=
  step_keeps_of_run (P := State.HistoryLaw) (fun hc h => h.of_changes hc) (fun i _ h => h.run i) h hst

end

end Sys2Proof.Machine
end


section
/-! PROOFS. What a shrinking ring gives back, page by page: its spare pages, newest first, then its oldest (R29, R67). -/

namespace Sys2Proof.Machine

set_option Elab.async false

section
variable (mask boot : Half) (follow : Bool)

/-- What `k` pages given back one after another leave of a history, after the pages. -/
def History.shedPages (mask boot : Half) (follow : Bool) : Nat → History → List Nat × History
  | 0, h => ([], h)
  | k + 1, h =>
    match h.shedPage mask boot follow with
    | none => ([], h)
    | some (p, x) => (p :: (History.shedPages mask boot follow k x).1, (History.shedPages mask boot follow k x).2)

/-- The pages of the ring that hold bytes. -/
def History.used (h : History) : Nat := (h.next - h.oldest + 511) / 512

variable {mask boot follow} {h : History}

theorem History.shedPages_of_ring_nil (hr : h.ring = []) (k : Nat) : h.shedPages mask boot follow k = ([], h) := by
  cases k with
  | zero => rfl
  | succ k => simp [History.shedPages, History.shedPage, hr]

theorem History.shedPages_add (a b : Nat) (h : History) : h.shedPages mask boot follow (a + b) =
    ((h.shedPages mask boot follow a).1 ++ ((h.shedPages mask boot follow a).2.shedPages mask boot follow b).1,
      ((h.shedPages mask boot follow a).2.shedPages mask boot follow b).2) := by
  induction a generalizing h with
  | zero => simp [History.shedPages]
  | succ a ih =>
    rw [Nat.add_right_comm]
    cases hs : h.shedPage mask boot follow with
    | none =>
      have hnil : h.ring = [] := by
        unfold History.shedPage at hs
        split at hs
        · assumption
        · split at hs <;> cases hs
      simp [History.shedPages_of_ring_nil hnil]
    | some r =>
      obtain ⟨p, x⟩ := r
      simp [History.shedPages, hs, ih x]

/-- A ring with a page that holds no byte gives its newest page back. -/
theorem History.shedPage_spare (hu : h.used < h.ring.length) : ∃ p, h.ring = h.ring.dropLast ++ [p] ∧
    h.shedPage mask boot follow = some (p, { h with ring := h.ring.dropLast }) := by
  have hspare : h.hasSpare = true := by
    refine decide_eq_true ?_
    simp only [History.used, Config.pageBytes] at hu ⊢
    omega
  have hne : h.ring ≠ [] := by intro hr; simp [hr] at hu
  refine ⟨h.ring.getLast hne, (List.dropLast_append_getLast hne).symm, ?_⟩
  unfold History.shedPage
  split
  · next hr => exact absurd hr hne
  · next p ps hr =>
    rw [if_pos hspare]
    simp only [hr]

/-- Spare pages go newest first, and nothing but the ring changes. -/
theorem History.shedPages_spare {k : Nat} (hk : h.used + k ≤ h.ring.length) :
    (h.shedPages mask boot follow k).1.Perm (h.ring.drop (h.ring.length - k)) ∧
      (h.shedPages mask boot follow k).2 = { h with ring := h.ring.take (h.ring.length - k) } := by
  induction k generalizing h with
  | zero => simp [History.shedPages]
  | succ k ih =>
    obtain ⟨p, hp, hstep⟩ := History.shedPage_spare (mask := mask) (boot := boot) (follow := follow) (h := h) (by omega)
    have hlen : h.ring.dropLast.length = h.ring.length - 1 := List.length_dropLast
    obtain ⟨hpages, hleft⟩ := ih (h := { h with ring := h.ring.dropLast })
      (by simp only [hlen]; simp only [History.used] at hk ⊢; omega)
    have hrest : h.ring.length - 1 - k = h.ring.length - (k + 1) := by omega
    simp only [hlen, hrest] at hpages hleft
    simp only [History.shedPages, hstep, hleft]
    constructor
    · have hdrop {m : Nat} (hm : m ≤ h.ring.dropLast.length) : h.ring.drop m = h.ring.dropLast.drop m ++ [p] := by
        rw [← List.drop_append_of_le_length hm, ← hp]
      rw [hdrop (by omega)]
      exact (hpages.cons p).trans (List.perm_append_singleton p _).symm
    · rw [List.dropLast_eq_take, List.take_take, Nat.min_eq_left (by omega)]

/-- The mark outlives the pages below it. -/
theorem History.discardOldestPage_mark (h : History) : (h.discardOldestPage mask boot follow).mark =
    h.mark.filter (fun m => decide (h.oldest + Config.pageBytes ≤ m)) := by
  have hjump (x : History) : (x.jump follow).mark = x.mark := by unfold History.jump; split <;> rfl
  have hlose : (h.loseMark mask boot).mark = h.mark.filter (fun m => decide (h.oldest + Config.pageBytes ≤ m)) := by
    unfold History.loseMark
    split
    · next hm => rw [hm]; rfl
    · next m hm =>
      rw [hm]
      split
      · next hlost => simp [Option.filter, Nat.not_le.mpr hlost]
      · next hkept => simp [Option.filter, Nat.not_lt.mp hkept, hm]
  rw [History.discardOldestPage, hjump]
  exact hlose

/-- A ring whose pages all hold bytes gives its oldest page back. -/
theorem History.shedPage_oldest (hu : h.ring.length ≤ h.used) {p : Nat} {ps : List Nat} (hr : h.ring = p :: ps) :
    h.shedPage mask boot follow = some (p, { h.discardOldestPage mask boot follow with ring := ps }) := by
  have hspare : h.hasSpare = false := by
    refine decide_eq_false ?_
    rw [hr] at hu ⊢
    simp only [History.used, Config.pageBytes, List.length_cons] at hu ⊢
    omega
  unfold History.shedPage
  simp [hr, hspare]

/-- What the oldest pages take with them: their bytes, a mark in them, and a delivery not past them. -/
theorem History.shedPages_oldest {k : Nat} (hk : k ≤ h.ring.length) (hu : h.ring.length ≤ h.used) (hpos : 0 < k) :
    (h.shedPages mask boot follow k).1 = h.ring.take k ∧
      (h.shedPages mask boot follow k).2.ring = h.ring.drop k ∧
      (h.shedPages mask boot follow k).2.oldest = h.oldest + 512 * k ∧
      (h.shedPages mask boot follow k).2.next = h.next ∧
      (h.shedPages mask boot follow k).2.mark = h.mark.filter (fun m => decide (h.oldest + 512 * k ≤ m)) ∧
      (h.shedPages mask boot follow k).2.deliver = max h.deliver (h.oldest + 512 * k) := by
  induction k generalizing h with
  | zero => cases hpos
  | succ k ih =>
    cases hr : h.ring with
    | nil => simp [hr] at hk
    | cons p ps =>
      have hstep := History.shedPage_oldest (mask := mask) (boot := boot) (follow := follow) hu hr
      obtain ⟨_, holdest, hnext, hdeliver⟩ := h.discardOldestPage_fields mask boot follow
      have hmark := h.discardOldestPage_mark (mask := mask) (boot := boot) (follow := follow)
      rw [hr] at hk hu
      simp only [History.shedPages, hstep]
      generalize hx : ({ h.discardOldestPage mask boot follow with ring := ps } : History) = x
      have hxr : x.ring = ps := by rw [← hx]
      have hxo : x.oldest = h.oldest + 512 := by rw [← hx]; exact holdest
      have hxn : x.next = h.next := by rw [← hx]; exact hnext
      have hxd : x.deliver = max h.deliver (h.oldest + 512) := by rw [← hx]; exact hdeliver
      have hxm : x.mark = h.mark.filter (fun m => decide (h.oldest + 512 ≤ m)) := by rw [← hx]; exact hmark
      cases k with
      | zero => simp [History.shedPages, hxr, hxo, hxn, hxd, hxm]
      | succ k =>
        obtain ⟨h1, h2, h3, h4, h5, h6⟩ := ih (h := x) (by simp [hxr] at hk ⊢; omega)
          (by simp only [History.used, hxr, hxo, hxn, List.length_cons] at hu ⊢; omega) (by omega)
        rw [h1, h2, h3, h4, h5, h6, hxr, hxo, hxn, hxd, hxm]
        refine ⟨by simp, by simp, by omega, rfl, ?_, by omega⟩
        rw [Option.filter_filter]
        congr 1
        funext m
        rw [← Bool.decide_and]
        exact decide_eq_decide.mpr (by omega)

/-- The pages whose bytes a ring above `m` pages gives up. -/
def History.lostTo (h : History) (m : Nat) : Nat := if m < h.ring.length then h.used - m else 0

/-- The pages that a ring above `m` pages keeps. -/
def History.keptTo (h : History) (m : Nat) : List Nat := (h.ring.take (max m h.used)).drop (h.lostTo m)

/-- The pages that a ring above `m` pages gives back. -/
def History.backTo (h : History) (m : Nat) : List Nat := h.ring.drop (max m h.used) ++ h.ring.take (h.lostTo m)

theorem History.Lawful.used_le (hl : h.Lawful) : h.used ≤ h.ring.length := by
  have hroom := (History.lawful_iff.mp hl).2.2.2.2
  simp only [History.used, Config.pageBytes] at hroom ⊢
  omega

theorem History.lostTo_pos {m : Nat} (hpos : 0 < h.lostTo m) : m < h.used ∧ h.lostTo m = h.used - m := by
  unfold History.lostTo at hpos ⊢
  split at hpos
  · next hm => rw [if_pos hm]; omega
  · cases hpos

theorem History.Lawful.length_keptTo (hl : h.Lawful) (m : Nat) : (h.keptTo m).length = min m h.ring.length := by
  have hu := hl.used_le
  simp only [History.keptTo, History.lostTo, List.length_drop, List.length_take]
  split <;> omega

/-- What a ring above `m` pages gives back, and what it keeps. -/
theorem History.Lawful.shedTo (hl : h.Lawful) (m : Nat) {r : List Nat × History}
    (hr : r = h.shedPages mask boot follow (h.ring.length - m)) :
    r.1.Perm (h.backTo m) ∧ r.2.ring = h.keptTo m ∧ r.2.oldest = h.oldest + 512 * h.lostTo m ∧ r.2.next = h.next ∧
      r.2.mark = h.mark.filter (fun k => decide (h.oldest + 512 * h.lostTo m ≤ k)) ∧
      r.2.deliver = max h.deliver (h.oldest + 512 * h.lostTo m) ∧
      (h.lostTo m = 0 → r.2 = { h with ring := r.2.ring }) := by
  have hu := hl.used_le
  obtain ⟨⟨_, hbounds, _⟩, _, hod, _, _⟩ := History.lawful_iff.mp hl
  have hmark : h.mark.filter (fun k => decide (h.oldest ≤ k)) = h.mark := by
    cases hm : h.mark with
    | none => rfl
    | some k => simp [Option.filter, (hbounds k hm).1]
  have hdeliver : max h.deliver h.oldest = h.deliver := Nat.max_eq_left hod
  have hsplit : h.ring.length - m = (h.ring.length - max m h.used) + h.lostTo m := by
    unfold History.lostTo; split <;> omega
  obtain ⟨hspare, hleft⟩ := History.shedPages_spare (mask := mask) (boot := boot) (follow := follow) (h := h)
    (k := h.ring.length - max m h.used) (by omega)
  have hmin : h.ring.length - (h.ring.length - max m h.used) = min (max m h.used) h.ring.length := by omega
  rw [hmin, ← List.drop_eq_drop_min] at hspare
  rw [hmin, ← List.take_eq_take_min] at hleft
  rw [hsplit, History.shedPages_add, hleft] at hr
  rcases Nat.eq_zero_or_pos (h.lostTo m) with hz | hpos
  · simp only [hz, History.shedPages, List.append_nil] at hr
    rw [hr]
    simp only [hz, History.backTo, History.keptTo, Nat.mul_zero, Nat.add_zero, List.take_zero, List.append_nil, List.drop_zero,
      hmark, hdeliver, implies_true, and_true]
    exact hspare
  · have hlost := History.lostTo_pos hpos
    have hmax : max m h.used = h.used := by omega
    have hlen : (h.ring.take (max m h.used)).length = h.used := by rw [List.length_take]; omega
    obtain ⟨h1, h2, h3, h4, h5, h6⟩ := History.shedPages_oldest (mask := mask) (boot := boot) (follow := follow)
      (h := { h with ring := h.ring.take (max m h.used) }) (k := h.lostTo m) (by simp only [hlen]; omega)
      (by simp only [hlen]; exact Nat.le_refl _) hpos
    rw [hr]
    refine ⟨?_, h2, h3, h4, h5, h6, fun hz => by omega⟩
    rw [h1, List.take_take, Nat.min_eq_left (by omega)]
    exact hspare.append_right _

end

end Sys2Proof.Machine
end


section
/-! PROOFS. A ring below its min always reaches it: of the 1,024 pages the entries that cannot be evicted hold at most 384, which
leaves four rings the 640 pages that their quotas can ask for (R61, R64, R100); and so every ring stays within its quota (O7). -/

namespace Sys2Proof.Machine

set_option Elab.async false

/-! ### Shedding -/

section
variable (s : State) (n : NodeId)

/-- Pages given back one after another. -/
def State.givePages (s : State) (l : List Nat) : State := { s with free := l.foldl (fun f p => insertPage p f) s.free }

theorem insertPages_perm (l f : List Nat) : (l.foldl (fun f p => insertPage p f) f).Perm (f ++ l) := by
  induction l generalizing f with
  | nil => simp
  | cons p l ih =>
    exact (ih (insertPage p f)).trans (((insertPage_perm p f).append_right l).trans List.perm_middle.symm)

theorem insertPages_sorted {l f : List Nat} (hf : f.Pairwise (· < ·)) (hl : (f ++ l).Nodup) :
    (l.foldl (fun f p => insertPage p f) f).Pairwise (· < ·) := by
  induction l generalizing f with
  | nil => exact hf
  | cons p l ih =>
    have hp : p ∉ f := fun hmem => List.disjoint_of_nodup_append hl hmem List.mem_cons_self
    refine ih (insertPage_sorted hf hp) ?_
    exact (List.perm_middle.trans ((insertPage_perm p f).symm.append_right l)).nodup_iff.mp hl

/-- What the ring of a node gives back on its way down to `k` pages fewer. -/
def State.shed (s : State) (n : NodeId) (k : Nat) : List Nat × History :=
  (s.nd n).hist.shedPages (s.set n).delivery.mask (s.nd n).power.boot (s.set n).delivery.follow k

theorem State.times_shedOne_eq (k : Nat) :
    times k (State.shedOne n) s = (s.mapHist n (fun _ => (s.shed n k).2)).givePages (s.shed n k).1 := by
  induction k generalizing s with
  | zero =>
    show s = s.setNd n (s.nd n)
    rw [State.setNd_nd]
  | succ k ih =>
    rw [times, ih]
    cases hpage : (s.nd n).hist.shedPage (s.set n).delivery.mask (s.nd n).power.boot (s.set n).delivery.follow with
    | none =>
      have hring : (s.nd n).hist.ring = [] := by
        unfold History.shedPage at hpage
        split at hpage
        · assumption
        · split at hpage <;> cases hpage
      have hstay : State.shedOne n s = s := by simp [State.shedOne, hpage]
      rw [hstay, State.shed, State.shed, History.shedPages_of_ring_nil hring, History.shedPages_of_ring_nil hring]
    | some r =>
      obtain ⟨p, x⟩ := r
      have hgive : State.shedOne n s = (s.mapHist n (fun _ => x)).givePage p := by simp [State.shedOne, hpage]
      have hnode : ((s.mapHist n (fun _ => x)).givePage p).nd n = { s.nd n with hist := x } := s.nd_setNd_same n _
      have hshed : ((s.mapHist n (fun _ => x)).givePage p).shed n k = x.shedPages (s.set n).delivery.mask (s.nd n).power.boot
          (s.set n).delivery.follow k := by rw [State.shed, hnode]; rfl
      have hagain (y : History) : ((s.mapHist n (fun _ => x)).givePage p).mapHist n (fun _ => y) =
          (s.mapHist n (fun _ => y)).givePage p := by simp [State.mapHist, State.givePage, State.setNd, State.nd]
      rw [hgive, hshed, State.shed, History.shedPages, hpage, hagain]
      rfl

/-- History `x` is what a ring above `m` pages leaves of `h` (R29). -/
def History.ShedTo (h : History) (m : Nat) (x : History) : Prop :=
  x.ring = h.keptTo m ∧ x.oldest = h.oldest + 512 * h.lostTo m ∧ x.next = h.next ∧
    x.mark = h.mark.filter (fun k => decide (h.oldest + 512 * h.lostTo m ≤ k)) ∧
    x.deliver = max h.deliver (h.oldest + 512 * h.lostTo m) ∧ (h.lostTo m = 0 → x = { h with ring := x.ring })

/-- A ring above its max. -/
theorem State.shedRing_eq (hl : (s.nd n).hist.Lawful) : ∃ l x, l.Perm ((s.nd n).hist.backTo (s.set n).quota.max) ∧
    (s.nd n).hist.ShedTo (s.set n).quota.max x ∧ s.shedRing n = (s.mapHist n (fun _ => x)).givePages l := by
  obtain ⟨hback, hkept⟩ := hl.shedTo (mask := (s.set n).delivery.mask) (boot := (s.nd n).power.boot)
    (follow := (s.set n).delivery.follow) (s.set n).quota.max rfl
  exact ⟨_, _, hback, hkept, s.times_shedOne_eq n _⟩

/-- The rings `ns` have been through the shedding pass. -/
structure State.Shed (s : State) (ns : List NodeId) (t : State) : Prop where
  pages : t.free.Perm (s.free ++ ns.flatMap (fun n => (s.nd n).hist.backTo (s.set n).quota.max))
  sorted : s.free.Pairwise (· < ·) → (s.free ++ ns.flatMap (fun n => (s.nd n).hist.backTo (s.set n).quota.max)).Nodup →
    t.free.Pairwise (· < ·)
  rest : t = { s with free := t.free, nodes := t.nodes }
  node : ∀ n, t.nd n = { s.nd n with hist := (t.nd n).hist }
  went : ∀ n ∈ ns, (s.nd n).hist.ShedTo (s.set n).quota.max (t.nd n).hist
  stayed : ∀ n, n ∉ ns → t.nd n = s.nd n

theorem State.Shed.next {s t : State} {ns : List NodeId} (h : s.Shed ns t) {n : NodeId} (hn : n ∉ ns)
    (hl : (s.nd n).hist.Lawful) : s.Shed (ns ++ [n]) (t.shedRing n) := by
  have hnode := h.stayed n hn
  have hset : t.set n = s.set n := by rw [h.rest]; rfl
  obtain ⟨l, x, hback, hkept, heq⟩ := t.shedRing_eq n (by rw [hnode]; exact hl)
  rw [hnode, hset] at hback hkept
  have hpages : (t.free ++ l).Perm (s.free ++ (ns ++ [n]).flatMap (fun n => (s.nd n).hist.backTo (s.set n).quota.max)) := by
    rw [List.flatMap_append, List.flatMap_singleton, ← List.append_assoc]
    exact h.pages.append hback
  have hnd (m : NodeId) : ((t.shedRing n).nd m) = if m = n then { s.nd n with hist := x } else t.nd m := by
    rw [heq]
    show (t.mapHist n (fun _ => x)).nd m = _
    split
    · next hm => rw [hm, State.mapHist, State.nd_setNd_same, hnode]
    · next hm => rw [State.mapHist, State.nd_setNd_ne _ _ hm]
  refine ⟨?_, fun hs hnodup => ?_, ?_, fun m => ?_, fun m hm => ?_, fun m hm => ?_⟩
  · rw [heq]
    exact (insertPages_perm l _).trans hpages
  · rw [heq]
    refine insertPages_sorted (h.sorted hs ?_) (hpages.nodup_iff.mpr hnodup)
    rw [List.flatMap_append, ← List.append_assoc] at hnodup
    exact hnodup.of_append_left
  · rw [heq]
    conv_lhs => rw [h.rest]
    rfl
  · rw [hnd m]
    split
    · next hm => rw [hm]
    · exact h.node m
  · rw [hnd m]
    split
    · next hmn => rw [hmn]; exact hkept
    · next hmn => exact h.went m (by simpa [hmn] using hm)
  · rw [List.mem_append, List.mem_singleton, not_or] at hm
    rw [hnd m, if_neg hm.2]
    exact h.stayed m hm.1

/-- The shedding pass. -/
theorem State.shed_all (hl : ∀ n, (s.nd n).hist.Lawful) : s.Shed NodeId.all (NodeId.all.foldl State.shedRing s) := by
  have hstart : s.Shed [] s :=
    ⟨by simp, fun hs _ => hs, rfl, fun _ => rfl, fun _ hn => by simp at hn, fun _ _ => rfl⟩
  have hdone := (((hstart.next (n := .n0) (by simp) (hl _)).next (n := .n1) (by simp) (hl _)).next (n := .n2) (by simp) (hl _)).next
    (n := .n3) (by simp) (hl _)
  simp only [NodeId.all, List.foldl_cons, List.foldl_nil]
  exact hdone

/-! ### Growing -/

theorem State.wants_addRing_ne {m : NodeId} (h : m ≠ n) (l : List Nat) : (s.addRing n l).wants m = s.wants m := by
  rw [State.wants, State.addRing_nd_ne _ _ _ h]; rfl

@[simp] theorem State.wants_poolWithout (k : Nat) : (s.poolWithout k).wants n = s.wants n := rfl

/-- The growth pass: the four rings take what they want, N0 first. -/
theorem State.grow_all : NodeId.all.foldl State.growRing s =
    ((((s.poolWithout (s.wants .n0 + s.wants .n1 + s.wants .n2 + s.wants .n3)).addRing .n0 (s.supply.take (s.wants .n0))).addRing
      .n1 ((s.supply.drop (s.wants .n0)).take (s.wants .n1))).addRing
      .n2 ((s.supply.drop (s.wants .n0 + s.wants .n1)).take (s.wants .n2))).addRing
      .n3 ((s.supply.drop (s.wants .n0 + s.wants .n1 + s.wants .n2)).take (s.wants .n3)) := by
  have hne {i j : NodeId} (h : i ≠ j) (t : State) (l : List Nat) : (t.addRing j l).wants i = t.wants i := t.wants_addRing_ne j h l
  simp only [NodeId.all, List.foldl_cons, List.foldl_nil, State.growRing_eq]
  simp only [hne (show NodeId.n1 ≠ .n0 by simp), hne (show NodeId.n2 ≠ .n0 by simp), hne (show NodeId.n2 ≠ .n1 by simp),
    hne (show NodeId.n3 ≠ .n0 by simp), hne (show NodeId.n3 ≠ .n1 by simp), hne (show NodeId.n3 ≠ .n2 by simp),
    State.addRing_poolWithout, State.poolWithout_add, State.addRing_supply, State.supply_poolWithout, State.wants_poolWithout]

end

/-! ### The pages that can be had -/

/-- The pages of the four rings together. -/
def State.ringCount (s : State) : Nat :=
  (s.nd .n0).hist.ring.length + (s.nd .n1).hist.ring.length + (s.nd .n2).hist.ring.length + (s.nd .n3).hist.ring.length

/-- Every entry is VALID, FILLING or unstored. -/
theorem length_entries_eq (es : List Entry) : es.length = es.countP (fun e => e.state.isValid) +
    ((es.countP (fun e => e.node == .n0 && e.state.isFilling) + es.countP (fun e => e.node == .n0 && e.state.isUnstored)) +
      (es.countP (fun e => e.node == .n1 && e.state.isFilling) + es.countP (fun e => e.node == .n1 && e.state.isUnstored)) +
      (es.countP (fun e => e.node == .n2 && e.state.isFilling) + es.countP (fun e => e.node == .n2 && e.state.isUnstored)) +
      (es.countP (fun e => e.node == .n3 && e.state.isFilling) + es.countP (fun e => e.node == .n3 && e.state.isUnstored))) := by
  induction es with
  | nil => rfl
  | cons e es ih =>
    simp only [List.length_cons, List.countP_cons, ih]
    obtain ⟨p, n, lba, st⟩ := e
    have hone : (if st.isValid then 1 else 0) + ((if st.isFilling then 1 else 0) + (if st.isUnstored then 1 else 0)) = 1 := by
      cases st <;> rfl
    cases n <;> simp <;> omega

variable {s : State}

/-- The LRU list holds as many pages as there are VALID entries. -/
theorem State.length_lru (h : s.CacheLaw) : s.lru.length = s.entries.countP (fun e => e.state.isValid) := by
  obtain ⟨hpages, _, hlru, hmem, _⟩ := h
  rw [List.countP_eq_length_filter, ← List.length_map (f := Entry.page)]
  refine List.Perm.length_eq ((List.perm_ext_iff_of_nodup hlru (hpages.sublist (List.filter_sublist.map _))).mpr fun p => ?_)
  rw [hmem p]
  simp only [List.mem_map, List.mem_filter]
  constructor
  · rintro ⟨e, he, hp, hv⟩
    exact ⟨e, ⟨he, by rw [hv]; rfl⟩, hp⟩
  · rintro ⟨e, ⟨he, hv⟩, hp⟩
    refine ⟨e, he, hp, ?_⟩
    cases hst : e.state <;> simp_all [EntryState.isValid]

/-- The rings hold, or can have, 640 pages (R61, R100). -/
theorem State.supply_suffices (hp : s.PageLaw) (hc : s.CacheLaw) : 640 ≤ s.supply.length + s.ringCount := by
  have htotal := hp.1.length_eq
  have hrings : s.ringPages.length = s.ringCount := by
    simp [State.ringPages, State.ringCount, NodeId.all, Nat.add_assoc]
  have hentries := length_entries_eq s.entries
  obtain ⟨_, _, _, _, hnodes⟩ := id hc
  have hcap (n : NodeId) : s.entries.countP (fun e => e.node == n && e.state.isFilling) +
      s.entries.countP (fun e => e.node == n && e.state.isUnstored) ≤ 96 := by
    obtain ⟨_, _, _, _, hfilling, hunstored, _⟩ := hnodes n
    simp only [State.fillingCount, State.unstoredCount, State.countEntries, Config.fillingCap, Config.dirtyCap] at hfilling hunstored
    omega
  have h0 := hcap .n0
  have h1 := hcap .n1
  have h2 := hcap .n2
  have h3 := hcap .n3
  simp only [List.length_append, List.length_range', Config.pages, hrings, State.entryPages, List.length_map] at htotal
  rw [State.supply, List.length_append, State.length_lru hc]
  omega

end Sys2Proof.Machine
end


section
/-! PROOFS. Every ring stays between its min and its max (O7). -/

namespace Sys2Proof.Machine

set_option Elab.async false

/-- Every quota lies in its ranges (R61). -/
def State.QuotasInRange (s : State) : Prop :=
  ∀ n, 2 ≤ (s.set n).quota.min ∧ (s.set n).quota.min ≤ (s.set n).quota.max ∧ (s.set n).quota.max ≤ 160

section
variable {s t : State}

theorem History.Lawful.length_backTo {h : History} (hl : h.Lawful) (m : Nat) :
    (h.backTo m).length + (h.keptTo m).length = h.ring.length := by
  have hu := hl.used_le
  have hk := hl.length_keptTo m
  rw [hk, History.backTo, List.length_append, List.length_drop, List.length_take]
  unfold History.lostTo
  split <;> omega

/-- After the shedding pass no ring is above its max, and no page is lost. -/
theorem State.Shed.lengths (h : s.Shed NodeId.all t) (hl : ∀ n, (s.nd n).hist.Lawful) :
    (∀ n, (t.nd n).hist.ring.length = min (s.set n).quota.max (s.nd n).hist.ring.length) ∧
      t.supply.length + t.ringCount = s.supply.length + s.ringCount := by
  have hkept (n : NodeId) : (t.nd n).hist.ring = (s.nd n).hist.keptTo (s.set n).quota.max := (h.went n (by cases n <;> simp [NodeId.all])).1
  refine ⟨fun n => by rw [hkept n]; exact (hl n).length_keptTo _, ?_⟩
  have hfree := h.pages.length_eq
  have hlru : t.lru = s.lru := by rw [h.rest]
  simp only [NodeId.all, List.flatMap_cons, List.flatMap_nil, List.length_append, List.length_nil] at hfree
  have h0 := (hl .n0).length_backTo (s.set .n0).quota.max
  have h1 := (hl .n1).length_backTo (s.set .n1).quota.max
  have h2 := (hl .n2).length_backTo (s.set .n2).quota.max
  have h3 := (hl .n3).length_backTo (s.set .n3).quota.max
  simp only [State.supply, State.ringCount, List.length_append, hlru, hkept, hfree]
  omega

theorem State.Shed.set_eq (h : s.Shed NodeId.all t) (n : NodeId) : t.set n = s.set n := by rw [h.rest]; rfl

/-- The pool has what the rings want after the shedding pass. -/
theorem State.Shed.wants_fit (h : s.Shed NodeId.all t) (hl : ∀ n, (s.nd n).hist.Lawful) (hq : s.QuotasInRange)
    (hpages : 640 ≤ s.supply.length + s.ringCount) :
    t.wants .n0 + t.wants .n1 + t.wants .n2 + t.wants .n3 ≤ t.supply.length := by
  obtain ⟨hlength, hsum⟩ := h.lengths hl
  have hone (n : NodeId) : t.wants n + (t.nd n).hist.ring.length ≤ 160 := by
    obtain ⟨_, hmin, hmax⟩ := hq n
    rw [State.wants, h.set_eq n, hlength n]
    omega
  have h0 := hone .n0
  have h1 := hone .n1
  have h2 := hone .n2
  have h3 := hone .n3
  rw [← hsum] at hpages
  simp only [State.ringCount] at hpages
  omega

/-- The rings of a state whose growth pass has what it wants. -/
theorem State.grow_all_rings (hfit : s.wants .n0 + s.wants .n1 + s.wants .n2 + s.wants .n3 ≤ s.supply.length) (n : NodeId) :
    ((NodeId.all.foldl State.growRing s).nd n).hist.ring.length = (s.nd n).hist.ring.length + s.wants n := by
  have hne {i j : NodeId} (h : i ≠ j) (u : State) (l : List Nat) : (u.addRing j l).nd i = u.nd i := u.addRing_nd_ne j l h
  have htake {a b : Nat} (h : a + b ≤ s.supply.length) : ((s.supply.drop a).take b).length = b := by
    rw [List.length_take, List.length_drop]; omega
  rw [s.grow_all]
  cases n
  · rw [hne (by simp), hne (by simp), hne (by simp), State.addRing_nd_same]
    simp only [List.length_append, List.length_take]
    rw [Nat.min_eq_left (by omega)]; rfl
  · rw [hne (by simp), hne (by simp), State.addRing_nd_same, hne (by simp)]
    simp only [List.length_append, htake (show s.wants .n0 + s.wants .n1 ≤ s.supply.length by omega)]; rfl
  · rw [hne (by simp), State.addRing_nd_same, hne (by simp), hne (by simp)]
    simp only [List.length_append, htake (show s.wants .n0 + s.wants .n1 + s.wants .n2 ≤ s.supply.length by omega)]; rfl
  · rw [State.addRing_nd_same, hne (by simp), hne (by simp), hne (by simp)]
    simp only [List.length_append, htake hfit]; rfl

/-- A ring above its max comes down to it, and one below its min comes up to it. -/
theorem State.applyQuotas_rings (hl : ∀ n, (s.nd n).hist.Lawful) (hq : s.QuotasInRange)
    (hpages : 640 ≤ s.supply.length + s.ringCount) (n : NodeId) : (s.applyQuotas.nd n).hist.ring.length =
      max (s.set n).quota.min (min (s.set n).quota.max (s.nd n).hist.ring.length) := by
  have hshed := s.shed_all hl
  rw [State.applyQuotas, State.grow_all_rings (hshed.wants_fit hl hq hpages) n, State.wants, hshed.set_eq n, (hshed.lengths hl).1 n]
  omega

/-! ### The quota law -/

theorem State.QuotaLaw.of_changes {ps : List Part} (h : s.QuotaLaw) (hc : s.Changes ps t) (hreset : Part.reset ∉ ps := by simp)
    (hring : Part.ring ∉ ps := by simp) (hquota : Part.quota ∉ ps := by simp) : t.QuotaLaw := by
  intro n
  rw [hc.quota_eq n hquota, hc.ring_eq n hring, hc.held_eq hreset]
  exact h n

theorem State.QuotaLaw.setPool (hp : s.PageLaw) (hc : s.CacheLaw) (hh : s.HistoryLaw) (h : s.QuotaLaw) (p : List Byte) :
    (s.setPool p).state.QuotaLaw := by
  rw [State.setPool_state]
  refine ite_keeps (P := State.QuotaLaw) (fun hvalid => ?_) (fun _ => h)
  have hq : (s.setQuotas (quotasOf p)).QuotasInRange := fun n => by
    rw [State.setQuotas_set]; exact PerNode.validQuotas_iff.mp hvalid n
  have hrings := State.applyQuotas_rings (s := s.setQuotas (quotasOf p)) (fun n => (hh.1 n).1) hq (State.supply_suffices hp hc)
  intro n
  obtain ⟨hlo, hmin, hmax⟩ := hq n
  rw [(State.applyQuotas_changes _).quota_eq n]
  refine ⟨hlo, hmin, hmax, fun _ => ?_⟩
  rw [hrings n]
  omega

/-- A change of one ring that keeps it within its quota. -/
theorem State.QuotaLaw.mapHist (h : s.QuotaLaw) (n : NodeId) {f : History → History}
    (hf : s.held = false → (s.set n).quota.min ≤ (s.nd n).hist.ring.length → (s.nd n).hist.ring.length ≤ (s.set n).quota.max →
      (s.set n).quota.min ≤ (f (s.nd n).hist).ring.length ∧ (f (s.nd n).hist).ring.length ≤ (s.set n).quota.max) :
    (s.mapHist n f).QuotaLaw := by
  intro m
  obtain ⟨hlo, hmin, hmax, hring⟩ := h m
  refine ⟨hlo, hmin, hmax, fun hheld => ?_⟩
  by_cases hm : m = n
  · subst hm
    rw [State.mapHist, State.nd_setNd_same]
    exact hf hheld (hring hheld).1 (hring hheld).2
  · rw [State.mapHist, State.nd_setNd_ne _ _ hm]
    exact hring hheld

theorem History.recycle_length {h : History} (mask boot : Half) (follow : Bool) : (h.recycle mask boot follow).ring.length = h.ring.length := by
  cases hr : h.ring with
  | nil => simp [History.recycle, hr]
  | cons p ps => simp [History.recycle, hr]

theorem State.QuotaLaw.storeByte (h : s.QuotaLaw) (n : NodeId) (b : Byte) (f p : Bool) : (s.storeByte n b f p).QuotaLaw := by
  have hrecycled : (s.recycle n).QuotaLaw := h.mapHist n (fun _ hlo hhi => by rw [History.recycle_length]; exact ⟨hlo, hhi⟩)
  have hroom : (s.makeRoom n).QuotaLaw := by
    unfold State.makeRoom
    refine ite_keeps (P := State.QuotaLaw) (fun _ => ?_) (fun _ => h)
    split
    · next hbelow =>
      split
      · next p t hpage =>
        have hgot := (State.getPage_changes n hpage).1
        refine State.QuotaLaw.mapHist (h.of_changes hgot) n (fun _ hlo _ => ?_)
        rw [hgot.ring_eq n, hgot.quota_eq n] at *
        simp only [List.length_append, List.length_singleton]
        omega
      · exact hrecycled
    · exact hrecycled
  have herror {u : State} (hu : u.QuotaLaw) (c : Bool) (k : EventKind) : (if c then u.recordError n k else u).QuotaLaw :=
    ite_keeps (fun _ => hu.of_changes (u.recordError_changes n k).1) (fun _ => hu)
  refine State.QuotaLaw.mapHist ((herror (herror hroom f .framing) p .parity).of_changes (State.writeHistory_changes _ n b).1) n
    (fun _ hlo hhi => ?_)
  rw [History.paceByte_eq]
  exact ⟨hlo, hhi⟩

theorem State.partReset_quotaLaw (s : State) (c : ResetCause) (d : Bool) : (s.partReset c d).QuotaLaw := by
  intro n
  obtain ⟨hlo, hmin, hmax⟩ := Settings.quota_inRange (x := .default) (by decide) n
  exact ⟨hlo, hmin, hmax, fun hheld => by cases hheld⟩

theorem State.startUp_quotaLaw (h : s.HistoryLaw) (hheld : s.held = true) (b : BitVec 2) : (s.startUp b).QuotaLaw := by
  obtain ⟨hfree, hentries, hlru, hfresh⟩ := h.2 hheld
  have hstarted := s.settled_changes_startUp b
  obtain ⟨hr0, hr1, hr2, hr3⟩ :=
    (State.startUp_rings ⟨hfree, hentries, hlru⟩ (fun n => congrArg History.ring (hfresh n)) b (fun _ => rfl)).1
  intro n
  obtain ⟨hlo, hmin, hmax⟩ := s.settled_quota b n
  rw [hstarted.quota_eq n]
  refine ⟨hlo, hmin, hmax, fun _ => ?_⟩
  cases n
  · rw [hr0, List.length_range']; exact ⟨Nat.le_refl _, hmin⟩
  · rw [hr1, List.length_range']; exact ⟨Nat.le_refl _, hmin⟩
  · rw [hr2, List.length_range']; exact ⟨Nat.le_refl _, hmin⟩
  · rw [hr3, List.length_range']; exact ⟨Nat.le_refl _, hmin⟩

/-! ### Laws of the pages and the entries, by the parts they read -/

theorem State.PageLaw.of_changes {ps : List Part} (h : s.PageLaw) (hc : s.Changes ps t) (hring : Part.ring ∉ ps := by simp)
    (hfree : Part.free ∉ ps := by simp) (hentries : Part.entries ∉ ps := by simp) (hlru : Part.lru ∉ ps := by simp) :
    t.PageLaw := by
  simp only [State.PageLaw, State.ringPages, State.entryPages, hc.ring_eq _ hring, hc.free_eq hfree, hc.entries_eq hentries,
    hc.lru_eq hlru] at h ⊢
  exact h

theorem State.CacheLaw.of_changes {ps : List Part} (h : s.CacheLaw) (hc : s.Changes ps t) (hentries : Part.entries ∉ ps := by simp)
    (hlru : Part.lru ∉ ps := by simp) (hcache : Part.cache ∉ ps := by simp) (hslot : Part.slot ∉ ps := by simp)
    (hcurrent : Part.current ∉ ps := by simp) : t.CacheLaw := by
  have hcache' (n : NodeId) : (t.nd n).cache = (s.nd n).cache := hc .cache hcache n
  have hslot' (n : NodeId) : (t.nd n).media.slot = (s.nd n).media.slot := hc .slot hslot n
  have hcurrent' (n : NodeId) : (t.nd n).media.current = (s.nd n).media.current := hc .current hcurrent n
  simp only [State.CacheLaw, State.entryPages, State.Lists, State.Numbered, State.seqOf, State.tagged, State.fillingCount,
    State.unstoredCount, State.countEntries, State.SlotLaw, State.CommandLaw, State.slotReady, State.slot, State.entryFor,
    hc.entries_eq hentries, hc.lru_eq hlru, hcache', hslot', hcurrent'] at h ⊢
  exact h

/-! ### Every command -/

/-- A law that the link cannot break is kept by a request where carrying it out keeps it. -/
theorem State.serve_keeps {P : State → Prop} (hlink : ∀ {s t : State}, s.Changes [.link] t → P s → P t) {f : Frame} {c : State → Carried}
    (h : P s) (hc : P (c s.takeFrame).state) : P (s.serve f c) := by
  have hrefused (a : Answer) : P (s.takeFrame.reply f a) :=
    hlink (State.reply_changes _ f a) (hlink s.takeFrame_changes h)
  unfold State.serve Carried.settle
  split
  · split
    · split
      · split
        · exact hlink (State.reply_changes _ _ _) hc
        · exact hc
      · exact hrefused _
    · exact hrefused _
  · exact h

theorem State.QuotaLaw.run (hp : s.PageLaw) (hc : s.CacheLaw) (hh : s.HistoryLaw) (h : s.QuotaLaw) (i : Instr) :
    (s.run i).QuotaLaw := by
  cases i
  case poolSet tag node p =>
    rw [run_request (f := ⟨0x04, tag, node, p⟩) rfl]
    have htaken := s.takeFrame_changes
    exact State.serve_keeps (P := State.QuotaLaw) (fun hc h => h.of_changes hc) h
      (State.QuotaLaw.setPool (hp.of_changes htaken) (hc.of_changes htaken) (hh.of_changes htaken) (h.of_changes htaken) p)
  case characterReceived n d p b =>
    exact ite_keeps (P := State.QuotaLaw) (fun _ => receiveCharacter_keeps (P := State.QuotaLaw) (fun hc h => h.of_changes hc)
      (fun n s h => h.of_changes (s.drain_changes n).1) (fun n b f p s h => h.storeByte n b f p) h n d p b) (fun _ => h)
  case frameSent =>
    refine State.given_keeps (P := State.QuotaLaw) h (fun x _ => ?_)
    have hlink {u : State} (hu : u.QuotaLaw) (f : Link → Link) : (u.mapLink f).QuotaLaw := hu.of_changes (u.mapLink_changes .n0 f).1
    unfold State.frameSent State.replySent State.noticeSent
    dsimp only
    split
    · split
      · exact ite_keeps (P := State.QuotaLaw) (fun _ => State.partReset_quotaLaw _ _ _) (fun _ => hlink h _)
      · exact hlink (hlink h _) _
    · exact hlink h _
  case resetNAsserted | powerOn => exact State.partReset_quotaLaw _ _ _
  case startUp b => exact ite_keeps (P := State.QuotaLaw) (fun hheld => State.startUp_quotaLaw hh hheld b) (fun _ => h)
  all_goals exact h.of_changes (s.run_changes _)

/-- Settles O7: the offsets, the mark and the index by what each operation of the History Buffer leaves; the quotas by the pages
that the pool can always give. -/
theorem stepKeepsHistoryLaw : Obligations.StepKeepsHistoryLaw := by
  refine ⟨fun s t h hst => h.step hst, fun s t hp hc hh h hst => ?_⟩
  cases hq : s.pending with
  | nil =>
    rw [step_nil hq] at hst
    cases hst
    exact h.of_changes s.cycle_changes
  | cons i is =>
    rw [step_cons hq] at hst
    rw [eq_run_of_exec hst]
    have hpending : s.Changes [.pending] { s with pending := is } := by
      intro p hp; cases p <;> simp_all [State.SamePart, State.nd, State.set]
    exact State.QuotaLaw.run (hp.of_changes hpending) (hc.of_changes hpending) (hh.of_changes hpending) (h.of_changes hpending) i

end

end Sys2Proof.Machine
end


section
/-! PROOFS. The pacer agrees with follow, with what is pending and with its timer at every step (O34). -/

namespace Sys2Proof.Machine

set_option Elab.async false

/-! ### One history -/

/-- A row of the table of R39. -/
def History.Paced (d : DeliverySettings) (h : History) : Prop :=
  match h.pacer with
  | .idle => d.follow = true → h.next = h.deliver
  | .collecting e => d.follow = true ∧ h.deliver < h.next ∧ h.next < h.deliver + d.count ∧ (e = none ↔ d.delay = 0)
  | .due => d.follow = true ∧ h.deliver < h.next

section
variable {h x : History} {d : DeliverySettings} {mask boot : Half}

theorem History.Paced.of_idle (hp : h.pacer = .idle) (hd : d.follow = true → h.next = h.deliver) : h.Paced d := by
  simpa [History.Paced, hp] using hd

theorem History.Paced.of_due (hp : h.pacer = .due) (hf : d.follow = true) (hd : h.deliver < h.next) : h.Paced d := by
  simpa [History.Paced, hp] using ⟨hf, hd⟩

theorem History.Paced.of_collecting {e : Option Nat} (hp : h.pacer = .collecting e) (hf : d.follow = true)
    (hd : h.deliver < h.next) (hc : h.next < h.deliver + d.count) (he : e = none ↔ d.delay = 0) : h.Paced d := by
  simp only [History.Paced, hp]
  exact ⟨hf, hd, hc, he⟩

theorem History.Paced.of_collectFrom {now : Nat} (hp : h.pacer = collectFrom d now) (hf : d.follow = true) (hd : h.deliver < h.next)
    (hc : h.next < h.deliver + d.count) : h.Paced d := by
  have htimer : (if d.delay = 0 then none else some (now + d.delay)) = none ↔ d.delay = 0 := by split <;> simp_all
  exact .of_collecting hp hf hd hc htimer

/-- The row is read off the pacer and what is pending. -/
theorem History.Paced.congr (hp : h.Paced d) (hpacer : x.pacer = h.pacer) (hn : x.next = h.next) (hd : x.deliver = h.deliver) :
    x.Paced d := by
  simpa [History.Paced, hpacer, hn, hd] using hp

/-- With follow off the pacer is IDLE. -/
theorem History.Paced.idle_of_not_follow (hp : h.Paced d) (hf : d.follow = false) : h.pacer = .idle := by
  unfold History.Paced at hp
  split at hp
  · assumption
  · simp [hf] at hp
  · simp [hf] at hp

theorem History.paced_paceAnew (hf : d.follow = true) (hle : h.deliver ≤ h.next) (now : Nat) : (h.paceAnew d now).Paced d := by
  have hpending : h.undelivered = h.next - h.deliver := rfl
  by_cases hnone : h.undelivered = 0
  · refine .of_idle (by simp [History.paceAnew, hnone]) (fun _ => ?_)
    show h.next = h.deliver
    omega
  · have hsome : h.deliver < h.next := by omega
    by_cases hdue : d.count ≤ h.undelivered ∨ h.lineIdle = true
    · refine .of_due ?_ hf hsome
      rcases hdue with hdue | hdue
      · simp [History.paceAnew, hnone, hdue]
      · simp [History.paceAnew, hnone, hdue]
    · obtain ⟨hcount, hidle⟩ := not_or.mp hdue
      refine .of_collectFrom (now := now) (by simp [History.paceAnew, hnone, hcount, hidle]) hf hsome ?_
      show h.next < h.deliver + d.count
      omega

theorem History.Paced.applyFollow (hl : h.Lawful) (now : Nat) (wasOn : Bool) (c : StartChoice) : (h.applyFollow d now wasOn c).Paced d := by
  unfold History.applyFollow
  split
  · next hf => exact History.paced_paceAnew hf (hl.startAt wasOn c).2 now
  · next hf => exact .of_idle rfl (fun hon => absurd hon hf)

theorem History.Paced.stored (hp : h.Paced d) (hle : h.deliver ≤ h.next) (now : Nat) :
    (History.paceByte d now { h with next := h.next + 1, lineIdle := false }).Paced d := by
  unfold History.paceByte
  cases hf : d.follow with
  | false =>
    have hidle := hp.idle_of_not_follow hf
    exact .of_idle hidle (fun hon => by rw [hf] at hon; cases hon)
  | true =>
    have hsome : h.deliver < h.next + 1 := by omega
    unfold History.Paced at hp
    rw [if_pos rfl]
    split at hp
    · next hpacer =>
      simp only [hpacer, History.undelivered]
      by_cases hcount : d.count ≤ h.next + 1 - h.deliver
      · exact .of_due (if_pos hcount) hf hsome
      · exact .of_collectFrom (now := now) (if_neg hcount) hf hsome (by show h.next + 1 < h.deliver + d.count; omega)
    · next e hpacer =>
      simp only [hpacer, History.undelivered]
      by_cases hcount : d.count ≤ h.next + 1 - h.deliver
      · exact .of_due (if_pos hcount) hf hsome
      · have hroom : h.next + 1 < h.deliver + d.count := by omega
        exact .of_collecting (if_neg hcount) hf hsome hroom hp.2.2.2
    · next hpacer =>
      simp only [hpacer]
      exact .of_due rfl hf hsome

theorem History.loseMark_stream : (h.loseMark mask boot).pacer = h.pacer ∧ (h.loseMark mask boot).deliver = h.deliver := by
  unfold History.loseMark
  split
  · exact ⟨rfl, rfl⟩
  · split <;> simp

/-- A delivery that is passed jumps to what is left, and is DUE. -/
theorem History.Paced.discardOldestPage (hp : h.Paced d) (hleft : h.oldest + Config.pageBytes < h.next) :
    (h.discardOldestPage mask boot d.follow).Paced d := by
  obtain ⟨_, holdest, hnext, hdeliver⟩ := h.discardOldestPage_fields mask boot d.follow
  have hpacer : (h.discardOldestPage mask boot d.follow).pacer =
      if h.deliver < h.oldest + Config.pageBytes ∧ d.follow = true then .due else h.pacer := by
    unfold History.discardOldestPage History.jump History.prune
    simp only [History.loseMark_oldest, History.loseMark_stream.1, History.loseMark_stream.2]
    split <;> simp_all
  cases hf : d.follow with
  | false =>
    rw [hf] at hpacer hnext hdeliver
    refine .of_idle ?_ (fun hon => by rw [hf] at hon; cases hon)
    simpa [hp.idle_of_not_follow hf] using hpacer
  | true =>
    rw [hf] at hpacer hnext hdeliver
    by_cases hpassed : h.deliver < h.oldest + Config.pageBytes
    · refine .of_due (by simpa [hpassed] using hpacer) hf ?_
      rw [hnext, hdeliver]
      omega
    · refine hp.congr (by simpa [hpassed] using hpacer) hnext ?_
      rw [hdeliver]
      omega

theorem History.Paced.recycle (hp : h.Paced d) (hr : 2 ≤ h.ring.length) (hfull : h.full = true) :
    (h.recycle mask boot d.follow).Paced d := by
  have hf := of_decide_eq_true hfull
  have hleft : h.oldest + Config.pageBytes < h.next := by
    simp only [Config.pageBytes] at hf ⊢
    omega
  unfold History.recycle
  split
  · exact hp
  · exact (hp.discardOldestPage hleft).congr rfl rfl rfl

theorem History.Paced.shed (hp : h.Paced d) (hr : 2 < h.ring.length) {p : Nat}
    (hs : h.shedPage mask boot d.follow = some (p, x)) : x.Paced d := by
  unfold History.shedPage at hs
  split at hs
  · cases hs
  · split at hs
    · cases hs; exact hp.congr rfl rfl rfl
    · next hspare =>
      cases hs
      have hsp := of_decide_eq_false (Bool.not_eq_true _ ▸ hspare)
      have hleft : h.oldest + Config.pageBytes < h.next := by
        simp only [Config.pageBytes] at hsp ⊢
        omega
      exact (hp.discardOldestPage hleft).congr rfl rfl rfl

theorem History.Paced.lineIdleSignal (hp : h.Paced d) : h.lineIdleSignal.Paced d := by
  unfold History.lineIdleSignal
  unfold History.Paced at hp
  split at hp
  · next hpacer => exact .of_idle (by simp [hpacer]) hp
  · next e hpacer => exact .of_due (by simp [hpacer]) hp.1 hp.2.1
  · next hpacer => exact .of_due (by simp [hpacer]) hp.1 hp.2

end

/-! ### The four histories -/

section
variable {s t : State}

theorem State.pacerLaw_iff : s.PacerLaw ↔ ∀ n, (s.nd n).hist.Paced (s.set n).delivery := by
  unfold State.PacerLaw History.Paced
  rfl

/-- Of a part that runs: its histories are lawful, and their pacers too. -/
def State.PacersLaw (s : State) : Prop := s.RingsLaw ∧ s.PacerLaw

theorem State.PacerLaw.of_changes {ps : List Part} (h : s.PacerLaw) (hc : s.Changes ps t) (hstream : Part.stream ∉ ps := by simp)
    (hdelivery : Part.delivery ∉ ps := by simp) : t.PacerLaw := by
  rw [State.pacerLaw_iff] at h ⊢
  intro n
  obtain ⟨_, hn, hd, _, hp, _⟩ := hc .stream hstream n
  rw [hc.delivery_eq n hdelivery]
  exact (h n).congr hp hn hd

theorem State.PacersLaw.of_changes {ps : List Part} (h : s.PacersLaw) (hc : s.Changes ps t) (hreset : Part.reset ∉ ps := by simp)
    (hring : Part.ring ∉ ps := by simp) (hindex : Part.index ∉ ps := by simp) (hstream : Part.stream ∉ ps := by simp)
    (hquota : Part.quota ∉ ps := by simp) (hdelivery : Part.delivery ∉ ps := by simp) : t.PacersLaw :=
  ⟨h.1.of_changes hc hreset hring hindex hstream hquota, h.2.of_changes hc hstream hdelivery⟩

/-- A change of one history that keeps its row. -/
theorem State.PacerLaw.mapHist (h : s.PacerLaw) (n : NodeId) {f : History → History}
    (hf : (s.nd n).hist.Paced (s.set n).delivery → (f (s.nd n).hist).Paced (s.set n).delivery) : (s.mapHist n f).PacerLaw := by
  rw [State.pacerLaw_iff] at h ⊢
  intro m
  by_cases hm : m = n
  · subst hm
    rw [State.mapHist, State.nd_setNd_same]
    exact hf (h m)
  · rw [State.mapHist, State.nd_setNd_ne _ _ hm]
    exact h m

theorem State.PacersLaw.makeRoom (h : s.PacersLaw) (n : NodeId) : (s.makeRoom n).PacerLaw := by
  have hrecycled (hfull : (s.nd n).hist.full = true) : (s.recycle n).PacerLaw :=
    h.2.mapHist n (fun hp => hp.recycle (h.1.2 n).2.1 hfull)
  unfold State.makeRoom
  split
  · next hfull =>
    split
    · split
      · next p t hpage =>
        exact (h.2.of_changes (State.getPage_changes n hpage).1).mapHist n (fun hp => hp.congr rfl rfl rfl)
      · exact hrecycled hfull
    · exact hrecycled hfull
  · exact h.2

/-- A byte is stored: room is made, its marks are recorded and it is written, and then next_offset advances. -/
theorem State.storeByte_stages (s : State) (n : NodeId) (b : Byte) (f p : Bool) : ∃ u,
    (s.makeRoom n).ChangesAt n [.events, .mem] u ∧ s.storeByte n b f p = u.mapHist n (fun h =>
      History.paceByte (s.set n).delivery s.clock.ticks { h with next := h.next + 1, lineIdle := false }) := by
  refine ⟨_, ?_, rfl⟩
  have herror {u : State} (h : (s.makeRoom n).ChangesAt n [.events] u) (c : Bool) (k : EventKind) :
      (s.makeRoom n).ChangesAt n [.events] (if c then u.recordError n k else u) :=
    .ite (h.next (State.recordError_changes _ n _) (List.Subset.refl _)) h
  exact (herror (herror (.refl _ n _) f .framing) p .parity).next (State.writeHistory_changes _ n b)

theorem State.PacersLaw.storeByte (h : s.PacersLaw) (n : NodeId) (b : Byte) (f p : Bool) : (s.storeByte n b f p).PacersLaw := by
  refine ⟨h.1.storeByte n b f p, ?_⟩
  obtain ⟨u, hstages, heq⟩ := s.storeByte_stages n b f p
  have hdelivery : (u.set n).delivery = (s.set n).delivery :=
    (hstages.1.delivery_eq n).trans ((s.makeRoom_changes n).1.delivery_eq n)
  have hle := (History.lawful_iff.mp (((h.1.makeRoom n).1.of_changes hstages.1).2 n).1).2.2.2.1
  rw [heq]
  refine ((h.makeRoom n).of_changes hstages.1).mapHist n (fun hp => ?_)
  rw [hdelivery] at hp ⊢
  exact hp.stored hle _

/-! ### The pool -/

theorem State.PacersLaw.shedOne (h : s.PacersLaw) {n : NodeId} (hr : 2 < (s.nd n).hist.ring.length) :
    (State.shedOne n s).PacerLaw := by
  unfold State.shedOne
  split
  · exact h.2
  · next p x hshed =>
    exact (h.2.mapHist n (fun hp => hp.shed hr hshed)).of_changes (State.givePage_changes _ n p).1

theorem State.PacersLaw.times_shedOne (h : s.PacersLaw) {n : NodeId} {k : Nat} (hk : k + 2 ≤ (s.nd n).hist.ring.length) :
    (times k (State.shedOne n) s).PacersLaw := by
  induction k generalizing s with
  | zero => exact h
  | succ k ih =>
    obtain ⟨hlaw, hlength⟩ := h.1.shedOne (n := n) (by omega)
    exact ih ⟨hlaw, h.shedOne (by omega)⟩ (by omega)

theorem State.PacersLaw.shedRing (h : s.PacersLaw) (n : NodeId) : (s.shedRing n).PacersLaw := by
  obtain ⟨_, hlength, hmax⟩ := h.1.2 n
  exact h.times_shedOne (by omega)

theorem State.PacersLaw.setPool (h : s.PacersLaw) (p : List Byte) : (s.setPool p).state.PacersLaw := by
  refine ⟨h.1.setPool p, ?_⟩
  rw [State.setPool_state]
  refine ite_keeps (P := State.PacerLaw) (fun hq => ?_) (fun _ => h.2)
  have hset : (s.setQuotas (quotasOf p)).PacersLaw := ⟨h.1.setQuotas hq, h.2.of_changes (s.setQuotas_changes _)⟩
  have hshed := foldl_keeps (P := State.PacersLaw) (fun _ n hu => hu.shedRing n) NodeId.all hset
  exact hshed.2.of_changes (State.Changes.foldl (fun s n => (s.growRing_changes n).1) _ _)

/-! ### Delivery -/

/-- New settings of one node place its pacer anew, and leave the others. -/
theorem State.PacersLaw.applyDelivery (h : s.PacersLaw) (n : NodeId) (d : DeliverySettings) (c : StartChoice) :
    (s.applyDelivery n d c).PacerLaw := by
  have hchanges := (s.applyDelivery_changes n d c).2
  rw [State.pacerLaw_iff]
  intro m
  by_cases hm : m = n
  · subst hm
    unfold State.applyDelivery
    dsimp only
    rw [State.mapHist, State.nd_setNd_same, State.set_setNd]
    have hset : ((if d.gap = (s.set m).delivery.gap then s.mapSet m (fun x => { x with delivery := d }) else
        (State.restartIdleGap (s.mapSet m (fun x => { x with delivery := d })) m).mapHist m
          (fun h => { h with lineIdle := false })).set m).delivery = d := by
      have hset : ((s.mapSet m (fun x => { x with delivery := d })).set m).delivery = d := by rw [State.set_mapSet_same]
      split
      · exact hset
      · exact ((State.restartIdleGap_changes _ m).1.delivery_eq m).trans hset
    rw [hset]
    refine History.Paced.applyFollow (History.Lawful.applyMask ?_ d.mask) _ _ _
    split
    · exact (h.1.2 m).1
    · have hmoved : ((s.mapSet m (fun x => { x with delivery := d })).restartIdleGap m).RingsLaw :=
        (h.1.of_changes (s.mapSet_changes m (fun x => { x with delivery := d }) [.delivery]).1).of_changes
          (State.restartIdleGap_changes _ m).1
      rw [State.mapHist, State.nd_setNd_same]
      exact (hmoved.2 m).1
  · obtain ⟨hnd, hset⟩ := hchanges m hm
    rw [hnd, hset]
    exact State.pacerLaw_iff.mp h.2 m

theorem State.PacersLaw.setDelivery (h : s.PacersLaw) (n : NodeId) (p : List Byte) : (s.setDelivery n p).state.PacersLaw := by
  refine ⟨h.1.setDelivery n p, ?_⟩
  unfold State.setDelivery
  split
  · next d c _ _ => exact h.applyDelivery n d c
  · exact h.2

theorem State.PacersLaw.buildBulk (h : s.PacersLaw) {n : NodeId} {b : Bulk} (hb : s.bulkPending n b = true) :
    (s.buildBulk n b).PacersLaw := by
  refine ⟨h.1.buildBulk n b, ?_⟩
  cases b
  case fetch => exact (h.2.of_changes (s.sendNotice_changes .n0 n _ _).1).of_changes (State.fetchesSent_changes _ n _).1
  case writeOut =>
    show (s.buildWriteOut n).PacerLaw
    unfold State.buildWriteOut
    split
    · exact h.2
    · exact (h.2.of_changes (s.sendNotice_changes .n0 n _ _).1).of_changes (State.writeOutHead_changes _ n _).1
  case data =>
    have hdue : (s.nd n).hist.pacer = .due := by simpa [State.bulkPending] using hb
    have hrow := State.pacerLaw_iff.mp h.2 n
    have hfollow : (s.set n).delivery.follow = true := by
      simp only [History.Paced, hdue] at hrow
      exact hrow.1
    refine State.PacerLaw.mapHist (h.2.of_changes (s.sendNotice_changes .n0 n _ _).1) n (fun _ => ?_)
    refine History.paced_paceAnew hfollow ?_ _
    have hdn := (History.lawful_iff.mp (h.1.2 n).1).2.2.2.1
    show (s.nd n).hist.deliver + min 512 ((s.nd n).hist.next - (s.nd n).hist.deliver) ≤ (s.nd n).hist.next
    omega

/-! ### Every command -/

theorem State.partReset_pacerLaw (s : State) (c : ResetCause) (d : Bool) : (s.partReset c d).PacerLaw := by
  have hfresh (n : NodeId) : ((s.partReset c d).nd n).hist = .fresh [] := by cases n <;> rfl
  rw [State.pacerLaw_iff]
  exact fun n => .of_idle (by rw [hfresh]; rfl) (fun _ => by rw [hfresh]; rfl)

theorem State.startUp_pacerLaw (h : s.HistoryLaw) (hheld : s.held = true) (b : BitVec 2) : (s.startUp b).PacerLaw := by
  obtain ⟨_, _, _, hfresh⟩ := h.2 hheld
  refine State.PacerLaw.of_changes (s := s.settled b) ?_ (s.settled_changes_startUp b)
  have hsettled (n : NodeId) : ((s.settled b).nd n).hist = .fresh [] := hfresh n
  rw [State.pacerLaw_iff]
  exact fun n => .of_idle (by rw [hsettled]; rfl) (fun _ => by rw [hsettled]; rfl)

theorem State.PacerLaw.frameSent (h : s.PacerLaw) (x : Sending) : (s.frameSent x).PacerLaw := by
  have hlink {u : State} (hu : u.PacerLaw) (f : Link → Link) : (u.mapLink f).PacerLaw := hu.of_changes (u.mapLink_changes .n0 f).1
  unfold State.frameSent State.replySent State.noticeSent
  dsimp only
  split
  · split
    · exact ite_keeps (P := State.PacerLaw) (fun _ => State.partReset_pacerLaw _ _ _) (fun _ => hlink h _)
    · exact hlink (hlink h _) _
  · exact hlink h _

/-- Every command but a reset keeps the pacers of a part that runs. -/
theorem State.PacersLaw.run (h : s.PacersLaw) {i : Instr} (hi : resetsPart i = false) : (s.run i).PacerLaw := by
  cases i
  case resetNAsserted | powerOn | startUp => cases hi
  case poolSet tag node p =>
    exact (partRequest_keeps (P := State.PacersLaw) (fun hc h => h.of_changes hc) (fun s h => h.setPool p) h _ _ _ _ _).2
  case conDeliverySet tag node p =>
    exact (nodeRequest_keeps (P := State.PacersLaw) (fun hc h => h.of_changes hc) (fun n s h => h.setDelivery n p) h _ _ _ _ _).2
  case arbiterGrant =>
    exact (ite_keeps (P := State.PacersLaw) (fun _ => grant_keeps (P := State.PacersLaw) (fun hc h => h.of_changes hc)
      (fun n b s h hb => h.buildBulk hb) h) (fun _ => h)).2
  case frameSent => exact State.given_keeps (P := State.PacerLaw) h.2 (fun x _ => h.2.frameSent x)
  case characterReceived n d p b =>
    exact (ite_keeps (P := State.PacersLaw) (fun _ => receiveCharacter_keeps (P := State.PacersLaw) (fun hc h => h.of_changes hc)
      (fun n s h => h.of_changes (s.drain_changes n).1) (fun n b f p s h => h.storeByte n b f p) h n d p b) (fun _ => h)).2
  case idleGapSignal n =>
    refine State.given_keeps (P := State.PacerLaw) h.2 (fun e _ => ?_)
    exact ((h.2.of_changes (s.toCycle_changes n e).1).of_changes (State.mapLine_changes _ n _).1).mapHist n (fun hp => hp.lineIdleSignal)
  case pacerDelayExpiry n =>
    refine State.given_keeps (P := State.PacerLaw) h.2 (fun e he => ?_)
    refine (h.2.of_changes (s.toTick_changes n e).1).mapHist n (fun hp => ?_)
    cases hpacer : (s.nd n).hist.pacer with
    | idle => rw [hpacer] at he; cases he
    | due => rw [hpacer] at he; cases he
    | collecting e' =>
      have hrow := State.pacerLaw_iff.mp h.2 n
      simp only [History.Paced, hpacer] at hrow
      exact .of_due rfl hrow.1 hrow.2.1
  all_goals exact h.2.of_changes (s.run_changes _)

theorem State.PacerLaw.run (hh : s.HistoryLaw) (h : s.PacerLaw) (i : Instr) : (s.run i).PacerLaw := by
  by_cases hi : resetsPart i = true
  · cases i
    case resetNAsserted | powerOn => exact State.partReset_pacerLaw _ _ _
    case startUp b => exact ite_keeps (P := State.PacerLaw) (fun hheld => State.startUp_pacerLaw hh hheld b) (fun _ => h)
    all_goals cases hi
  · have hi := Bool.not_eq_true _ ▸ hi
    cases hheld : s.held with
    | true => exact h.of_changes (State.run_held hheld hi)
    | false => exact State.PacersLaw.run ⟨State.ringsLaw_of_historyLaw hh hheld, h⟩ hi

/-- Settles O34: each row of the table of R39 by what a stored byte, a page given up, a delivery and new settings leave. -/
theorem stepKeepsPacerLaw : Obligations.StepKeepsPacerLaw := by
  intro s t hh h hst
  exact (step_keeps_of_run (P := fun s => s.HistoryLaw ∧ s.PacerLaw)
    (fun hc h => ⟨h.1.of_changes hc, h.2.of_changes hc⟩) (fun i s h => ⟨h.1.run i, State.PacerLaw.run h.1 h.2 i⟩) ⟨hh, h⟩ hst).2

end

end Sys2Proof.Machine
end


section
/-! PROOFS. Every page lies in exactly one of the free list, one ring and one entry at every step (O6): what each operation of
the pool and of the entries does with pages. -/

namespace Sys2Proof.Machine

set_option Elab.async false

/-- The law of the pages, with the pages of `l` out of their places. -/
def State.InHand (l : List Nat) (s : State) : Prop :=
  (l ++ s.free ++ s.ringPages ++ s.entryPages).Perm (List.range' 0 Config.pages) ∧
    s.free.Pairwise (· < ·) ∧ s.lru.Nodup ∧ ∀ p ∈ s.lru, p ∈ s.entryPages

section
variable {s t : State} {l : List Nat} {p : Nat} {n : NodeId}

theorem State.pageLaw_iff : s.PageLaw ↔ s.InHand [] := by
  simp [State.PageLaw, State.InHand]

theorem State.InHand.of_changes {ps : List Part} (h : s.InHand l) (hc : s.Changes ps t) (hring : Part.ring ∉ ps := by simp)
    (hfree : Part.free ∉ ps := by simp) (hentries : Part.entries ∉ ps := by simp) (hlru : Part.lru ∉ ps := by simp) :
    t.InHand l := by
  simp only [State.InHand, State.ringPages, State.entryPages, hc.ring_eq _ hring, hc.free_eq hfree, hc.entries_eq hentries,
    hc.lru_eq hlru] at h ⊢
  exact h

/-- Every place of a page counts once. -/
theorem State.InHand.count_eq (h : s.InHand l) (q : Nat) :
    l.count q + s.free.count q + s.ringPages.count q + s.entryPages.count q = (List.range' 0 Config.pages).count q := by
  rw [← h.1.count_eq q]
  simp [List.count_append, Nat.add_assoc]

theorem count_range'_le_one (q : Nat) : (List.range' 0 Config.pages).count q ≤ 1 :=
  List.nodup_iff_count_le_one.mp List.nodup_range' q

/-- A page in hand has no other place. -/
theorem State.InHand.not_mem (h : s.InHand l) (hp : p ∈ l) : p ∉ s.free ∧ p ∉ s.entryPages ∧ p ∉ s.lru := by
  have hone := h.count_eq p
  have hle := count_range'_le_one p
  have hpos := List.count_pos_iff.mpr hp
  have hfree : p ∉ s.free := fun hm => by have := List.count_pos_iff.mpr hm; omega
  have hentries : p ∉ s.entryPages := fun hm => by have := List.count_pos_iff.mpr hm; omega
  exact ⟨hfree, hentries, fun hm => hentries (h.2.2.2 p hm)⟩

theorem State.InHand.nodup_entryPages (h : s.InHand l) : s.entryPages.Nodup := by
  refine List.nodup_iff_count_le_one.mpr fun q => ?_
  have := h.count_eq q
  have := count_range'_le_one q
  omega

/-- A rearrangement of the places is enough: the free list stays in order, and the LRU list names entries. -/
theorem State.InHand.rearranged {k : List Nat} (h : s.InHand l)
    (hcount : ∀ q, k.count q + t.free.count q + t.ringPages.count q + t.entryPages.count q =
      l.count q + s.free.count q + s.ringPages.count q + s.entryPages.count q)
    (hsorted : t.free.Pairwise (· < ·)) (hlru : t.lru.Nodup) (hmem : ∀ p ∈ t.lru, p ∈ t.entryPages) : t.InHand k := by
  refine ⟨List.perm_iff_count.mpr fun q => ?_, hsorted, hlru, hmem⟩
  rw [← h.count_eq q, ← hcount q]
  simp [List.count_append, Nat.add_assoc]

/-- The ring pages when one ring changes. -/
theorem State.count_ringPages (q : Nat) : s.ringPages.count q = (s.nd .n0).hist.ring.count q + (s.nd .n1).hist.ring.count q +
    (s.nd .n2).hist.ring.count q + (s.nd .n3).hist.ring.count q := by
  simp [State.ringPages, NodeId.all, List.count_append, Nat.add_assoc]

theorem State.count_ringPages_mapHist (f : History → History) (q : Nat) :
    (s.mapHist n f).ringPages.count q + (s.nd n).hist.ring.count q =
      s.ringPages.count q + (f (s.nd n).hist).ring.count q := by
  have hne {m : NodeId} (hm : m ≠ n) : (s.mapHist n f).nd m = s.nd m := s.nd_setNd_ne _ hm
  have hsame : (s.mapHist n f).nd n = { s.nd n with hist := f (s.nd n).hist } := s.nd_setNd_same n _
  rw [State.count_ringPages, State.count_ringPages]
  cases n
  · rw [hsame, hne (m := .n1) (by simp), hne (m := .n2) (by simp), hne (m := .n3) (by simp)]; dsimp only; omega
  · rw [hsame, hne (m := .n0) (by simp), hne (m := .n2) (by simp), hne (m := .n3) (by simp)]; dsimp only; omega
  · rw [hsame, hne (m := .n0) (by simp), hne (m := .n1) (by simp), hne (m := .n3) (by simp)]; dsimp only; omega
  · rw [hsame, hne (m := .n0) (by simp), hne (m := .n1) (by simp), hne (m := .n2) (by simp)]; dsimp only; omega

/-- A history that changes, by the pages that its ring gains or loses. -/
theorem State.InHand.mapHist {k : List Nat} (h : s.InHand l) {f : History → History}
    (hf : ∀ q, k.count q + (f (s.nd n).hist).ring.count q = l.count q + (s.nd n).hist.ring.count q) : (s.mapHist n f).InHand k := by
  refine h.rearranged (fun q => ?_) h.2.1 h.2.2.1 h.2.2.2
  have hring := State.count_ringPages_mapHist (s := s) (n := n) f q
  have hgone := hf q
  show k.count q + s.free.count q + (s.mapHist n f).ringPages.count q + s.entryPages.count q = _
  omega

/-! ### The pool -/

theorem State.InHand.takeFree (h : s.InHand []) (ht : s.takeFree = some (p, t)) : t.InHand [p] := by
  unfold State.takeFree at ht
  split at ht
  · cases ht
  · next q qs hfree =>
    cases ht
    have hsorted := h.2.1
    rw [hfree] at hsorted
    refine h.rearranged (fun x => ?_) (List.pairwise_cons.mp hsorted).2 h.2.2.1 h.2.2.2
    show [p].count x + qs.count x + s.ringPages.count x + s.entryPages.count x = _
    rw [hfree, List.count_cons, List.count_cons]
    simp only [List.count_nil]
    omega

/-- An entry whose page is evicted leaves the table. -/
theorem count_filter_page (es : List Entry) (q x : Nat) : ((es.filter (fun e => e.page != q)).map Entry.page).count x =
    if x = q then 0 else (es.map Entry.page).count x := by
  induction es with
  | nil => simp
  | cons e es ih =>
    by_cases he : e.page = q
    · rw [List.filter_cons_of_neg (by simp [he]), ih, List.map_cons, List.count_cons, he]
      split
      · rfl
      · next hx => rw [if_neg (by simpa using Ne.symm hx)]; rfl
    · rw [List.filter_cons_of_pos (by simp [he]), List.map_cons, List.map_cons, List.count_cons, List.count_cons, ih]
      split
      · next hx => rw [if_neg (by simpa [hx] using he)]
      · rfl

/-- The entry's page leaves the table with it, and no other. -/
theorem State.count_removed {q : Nat} (hq : s.entryPages.count q = 1) (x : Nat) :
    [q].count x + ((s.entries.filter (fun e => e.page != q)).map Entry.page).count x = s.entryPages.count x := by
  rw [count_filter_page]
  by_cases hx : x = q
  · rw [hx, hq]; simp
  · have hqx : ¬q = x := fun h => hx h.symm
    simp [hx, hqx, State.entryPages]

theorem State.InHand.getPage (h : s.InHand []) (hg : s.getPage = some (p, t)) : t.InHand [p] := by
  rcases s.getPage_cases with ⟨q, qs, hfree, he⟩ | ⟨q, qs, hfree, hlru, he⟩ | ⟨hfree, hlru, he⟩
  · rw [he] at hg
    cases hg
    exact h.takeFree (by simp [State.takeFree, hfree])
  · rw [he] at hg
    cases hg
    have hnodup := h.2.2.1
    have hmem := h.2.2.2
    rw [hlru] at hnodup hmem
    obtain ⟨hnot, hrest⟩ := List.nodup_cons.mp hnodup
    have hpage : s.entryPages.count p = 1 :=
      List.count_eq_one_of_mem h.nodup_entryPages (hmem p List.mem_cons_self)
    refine h.rearranged (fun x => ?_) h.2.1 hrest (fun x hx => ?_)
    · show [p].count x + s.free.count x + s.ringPages.count x + ((s.entries.filter (fun e => e.page != p)).map Entry.page).count x = _
      have hremoved := State.count_removed hpage x
      simp only [List.count_nil]
      omega
    · obtain ⟨e, he, hx'⟩ := List.mem_map.mp (hmem x (List.mem_cons_of_mem _ hx))
      refine List.mem_map.mpr ⟨e, List.mem_filter.mpr ⟨he, ?_⟩, hx'⟩
      rw [hx']
      exact bne_iff_ne.mpr (fun hxp => hnot (hxp ▸ hx))
  · rw [he] at hg
    cases hg

theorem State.InHand.givePage (h : s.InHand [p]) : (s.givePage p).InHand [] := by
  obtain ⟨hfree, _, _⟩ := h.not_mem (List.mem_singleton_self p)
  refine h.rearranged (fun q => ?_) (insertPage_sorted h.2.1 hfree) h.2.2.1 h.2.2.2
  show [].count q + (insertPage p s.free).count q + s.ringPages.count q + s.entryPages.count q = _
  rw [(insertPage_perm p s.free).count_eq q, List.count_cons, List.count_cons]
  simp only [List.count_nil]
  omega

/-- A page in hand becomes the page of a new entry. -/
theorem State.InHand.insertEntry (h : s.InHand [p]) {e : Entry} (he : e.page = p) :
    ({ s with entries := insertEntry e s.entries } : State).InHand [] := by
  have hperm : ((Machine.insertEntry e s.entries).map Entry.page).Perm (p :: s.entryPages) := by
    have hmap := (insertEntry_perm e s.entries).map Entry.page
    rwa [List.map_cons, he] at hmap
  refine h.rearranged (fun q => ?_) h.2.1 h.2.2.1 (fun q hq => hperm.mem_iff.mpr (List.mem_cons_of_mem _ (h.2.2.2 q hq)))
  show [].count q + s.free.count q + s.ringPages.count q + ((Machine.insertEntry e s.entries).map Entry.page).count q = _
  rw [hperm.count_eq q, List.count_cons, List.count_cons]
  simp only [List.count_nil]
  omega

theorem State.InHand.newFilling (h : s.InHand [p]) (n : NodeId) (lba : Nat) : (s.newFilling n lba p).InHand [] :=
  (h.insertEntry (e := ⟨p, n, lba, .filling none⟩) rfl).of_changes (State.mapCache_changes _ n _).1

theorem State.InHand.newDirty (h : s.InHand [p]) (n : NodeId) (lba : Nat) : (s.newDirty n lba p).InHand [] :=
  (h.insertEntry (e := ⟨p, n, lba, .dirty⟩) rfl).of_changes (State.mapCache_changes _ n _).1

/-! ### Entries -/

/-- Entries that change otherwise than in their pages. -/
theorem State.InHand.entries (h : s.InHand l) {es : List Entry} (hpages : es.map Entry.page = s.entryPages) :
    ({ s with entries := es } : State).InHand l := by
  have heq : ({ s with entries := es } : State).entryPages = s.entryPages := hpages
  refine h.rearranged (fun q => ?_) h.2.1 h.2.2.1 (by rw [heq]; exact h.2.2.2)
  rw [heq]; rfl

theorem State.entryPages_setEntry (s : State) (p : Nat) (st : EntryState) : (s.setEntry p st).entries.map Entry.page = s.entryPages := by
  have hkeys := congrArg (List.map Prod.fst) (s.setEntry_keys p st)
  simpa [List.map_map, Function.comp_def, State.entryPages] using hkeys

theorem State.InHand.setEntry (h : s.InHand l) (p : Nat) (st : EntryState) : (s.setEntry p st).InHand l :=
  h.entries (s.entryPages_setEntry p st)

/-- A change of the LRU list that names entries, each once. -/
theorem State.InHand.setLru (h : s.InHand l) {k : List Nat} (hk : k.Nodup) (hmem : ∀ p ∈ k, p ∈ s.entryPages) :
    ({ s with lru := k } : State).InHand l := ⟨h.1, h.2.1, hk, hmem⟩

theorem State.InHand.useEntry (h : s.InHand l) (hp : p ∈ s.entryPages) : (s.useEntry p).InHand l := by
  refine h.setLru ?_ (fun q hq => ?_)
  · refine List.nodup_append.mpr ⟨h.2.2.1.filter _, List.nodup_singleton p, fun x hx y hy => ?_⟩
    rw [List.mem_singleton.mp hy]
    exact (mem_without.mp hx).2
  · rcases List.mem_append.mp hq with hq | hq
    · exact h.2.2.2 q (mem_without.mp hq).1
    · rw [List.mem_singleton.mp hq]; exact hp

theorem State.InHand.makeDirty (h : s.InHand l) (n : NodeId) (p : Nat) : (s.makeDirty n p).InHand l := by
  have hset := h.setEntry p .dirty
  exact (hset.setLru (k := without p s.lru) (hset.2.2.1.filter _) (fun q hq => hset.2.2.2 q (mem_without.mp hq).1)).of_changes
    (State.mapCache_changes _ n _).1

theorem State.InHand.makeValid (h : s.InHand l) (n : NodeId) (hp : p ∈ s.entryPages) : (s.makeValid n p).InHand l := by
  have hset := h.setEntry p .valid
  have hmem : p ∈ (s.setEntry p .valid).entryPages := by rw [State.entryPages, s.entryPages_setEntry]; exact hp
  exact (hset.useEntry hmem).of_changes (State.mapCache_changes _ n _).1

/-- An entry that is freed gives its page back. -/
theorem State.InHand.freeEntry (h : s.InHand []) {e : Entry} (he : e.page ∈ s.entryPages) : (s.freeEntry e).InHand [] := by
  have hpage : s.entryPages.count e.page = 1 := List.count_eq_one_of_mem h.nodup_entryPages he
  refine State.InHand.givePage (State.InHand.of_changes (s := { s with
      entries := s.entries.filter (fun f => f.page != e.page)
      lru := without e.page s.lru }) ?_ (State.mapCache_changes _ e.node _).1)
  refine h.rearranged (fun x => ?_) h.2.1 (h.2.2.1.filter _) (fun x hx => ?_)
  · show [e.page].count x + s.free.count x + s.ringPages.count x +
      ((s.entries.filter (fun f => f.page != e.page)).map Entry.page).count x = _
    have hremoved := State.count_removed hpage x
    simp only [List.count_nil]
    omega
  · obtain ⟨hmem, hne⟩ := mem_without.mp hx
    obtain ⟨f, hf, hfx⟩ := List.mem_map.mp (h.2.2.2 x hmem)
    exact List.mem_map.mpr ⟨f, List.mem_filter.mpr ⟨hf, by rw [hfx]; simpa using hne⟩, hfx⟩

/-- Entries that are freed one after another, each once. -/
theorem State.InHand.freeEntries (h : s.InHand []) {es : List Entry} (hes : (es.map Entry.page).Nodup)
    (hmem : ∀ e ∈ es, e.page ∈ s.entryPages) : (es.foldl State.freeEntry s).InHand [] := by
  induction es generalizing s with
  | nil => exact h
  | cons e es ih =>
    rw [List.map_cons, List.nodup_cons] at hes
    refine ih (h.freeEntry (hmem e List.mem_cons_self)) hes.2 (fun f hf => ?_)
    obtain ⟨x, hx, hxf⟩ := List.mem_map.mp (hmem f (List.mem_cons_of_mem _ hf))
    refine List.mem_map.mpr ⟨x, List.mem_filter.mpr ⟨hx, ?_⟩, hxf⟩
    rw [hxf]
    simpa using fun hfe => hes.1 (List.mem_map.mpr ⟨f, hf, hfe⟩)

theorem State.InHand.freeWhere (h : s.InHand []) (f : Entry → Bool) : (s.freeWhere f).InHand [] :=
  h.freeEntries (h.nodup_entryPages.sublist (List.filter_sublist.map _))
    (fun e he => List.mem_map.mpr ⟨e, (List.mem_filter.mp he).1, rfl⟩)

end

end Sys2Proof.Machine
end


section
/-! PROOFS. Every page lies in exactly one of the free list, one ring and one entry at every step (O6): the operations put together. -/

namespace Sys2Proof.Machine

set_option Elab.async false

section
variable {s t : State}

/-- The entry that a search finds is one of the table. -/
theorem State.page_mem_of_entryFor {n : NodeId} {lba : Nat} {e : Entry} (h : s.entryFor n lba = some e) : e.page ∈ s.entryPages :=
  List.mem_map.mpr ⟨e, List.mem_of_find?_eq_some h, rfl⟩

theorem State.page_mem_of_tagged {p : Nat} {e : Entry} (h : s.tagged p = some e) : p ∈ s.entryPages ∧ e.page = p := by
  have hp : e.page = p := by simpa using List.find?_some h
  exact ⟨List.mem_map.mpr ⟨e, List.mem_of_find?_eq_some h, hp⟩, hp⟩

theorem State.page_mem_of_fillable {n : NodeId} {tag lba : Nat} {e : Entry} (h : s.fillable n tag lba = some e) :
    e.page ∈ s.entryPages := by
  unfold State.fillable at h
  split at h
  · next f hf =>
    split at h
    · cases h
      obtain ⟨hmem, hp⟩ := State.page_mem_of_tagged hf
      rw [hp]; exact hmem
    · cases h
  · cases h

/-- The law of the pages, and what is the same for all of its uses. -/
theorem State.InHand.changed (h : s.InHand []) {ps : List Part} (hc : s.Changes ps t) (hring : Part.ring ∉ ps := by simp)
    (hfree : Part.free ∉ ps := by simp) (hentries : Part.entries ∉ ps := by simp) (hlru : Part.lru ∉ ps := by simp) :
    t.InHand [] := h.of_changes hc hring hfree hentries hlru

/-! ### Rings -/

theorem State.InHand.addPage {p : Nat} (h : s.InHand [p]) (n : NodeId) :
    (s.mapHist n (fun x => { x with ring := x.ring ++ [p] })).InHand [] :=
  h.mapHist (fun q => by simp [List.count_append]; omega)

theorem State.InHand.growRing (h : s.InHand []) (n : NodeId) : (s.growRing n).InHand [] := by
  refine times_keeps (P := State.InHand []) (fun u hu => ?_) _ h
  unfold State.growOne
  split
  · exact hu
  · next p v hpage => exact (hu.getPage hpage).addPage n

theorem History.shedPage_ring {h x : History} {mask boot : Half} {follow : Bool} {p : Nat}
    (hs : h.shedPage mask boot follow = some (p, x)) (q : Nat) : [p].count q + x.ring.count q = h.ring.count q := by
  unfold History.shedPage at hs
  split at hs
  · cases hs
  · next r rs hring =>
    split at hs
    · cases hs
      have hsplit := List.dropLast_append_getLast (show r :: rs ≠ [] by simp)
      rw [hring]
      conv_rhs => rw [← hsplit]
      rw [List.count_append, Nat.add_comm]
    · cases hs
      rw [hring, List.count_cons]
      simp [List.count_cons, Nat.add_comm]

theorem State.InHand.shedRing (h : s.InHand []) (n : NodeId) : (s.shedRing n).InHand [] := by
  refine times_keeps (P := State.InHand []) (fun u hu => ?_) _ h
  unfold State.shedOne
  split
  · exact hu
  · next p x hshed =>
    exact (hu.mapHist (k := [p]) (f := fun _ => x) (fun q => by simpa using History.shedPage_ring hshed q)).givePage

theorem State.InHand.setPool (h : s.InHand []) (p : List Byte) : (s.setPool p).state.InHand [] := by
  rw [State.setPool_state]
  refine ite_keeps (P := State.InHand []) (fun _ => ?_) (fun _ => h)
  exact foldl_keeps (P := State.InHand []) (fun _ n hu => hu.growRing n) _
    (foldl_keeps (P := State.InHand []) (fun _ n hu => hu.shedRing n) _ (h.changed (s.setQuotas_changes _)))

theorem State.InHand.recycle (h : s.InHand []) (n : NodeId) : (s.recycle n).InHand [] := by
  refine h.mapHist (fun q => ?_)
  unfold History.recycle
  split
  · rfl
  · next p ps hring => simp [hring, List.count_append, List.count_cons]

theorem State.InHand.storeByte (h : s.InHand []) (n : NodeId) (b : Byte) (f p : Bool) : (s.storeByte n b f p).InHand [] := by
  have hroom : (s.makeRoom n).InHand [] := by
    unfold State.makeRoom
    refine ite_keeps (P := State.InHand []) (fun _ => ite_keeps (P := State.InHand []) (fun _ => ?_) (fun _ => h.recycle n)) (fun _ => h)
    split
    · next p t hpage => exact (h.getPage hpage).addPage n
    · exact h.recycle n
  obtain ⟨u, hstages, heq⟩ := s.storeByte_stages n b f p
  rw [heq]
  refine (hroom.changed hstages.1).mapHist (fun q => ?_)
  rw [History.paceByte_eq]

/-! ### Media -/

theorem State.InHand.serveRequests (h : s.InHand []) (n : NodeId) (k : Nat) : (State.serveRequests k n s).InHand [] := by
  induction k generalizing s with
  | zero => exact h
  | succ k ih =>
    unfold State.serveRequests
    rcases s.serveRequest_cases n with hnone | ⟨c, lba, p, t, _, _, _, hpage, hsome⟩
    · rw [hnone]; exact h
    · rw [hsome]
      exact ih (((h.getPage hpage).newFilling n lba).changed (State.mapCommand_changes _ n _).1)

theorem State.InHand.serveRequest (h : s.InHand []) {n : NodeId} (hs : s.serveRequest n = some t) : t.InHand [] := by
  have hone := h.serveRequests n 1
  simpa [State.serveRequests, hs] using hone

theorem State.InHand.fillList (h : s.InHand []) (n : NodeId) : (s.fillList n).InHand [] :=
  (h.changed (s.joinBlocks_changes n).1).serveRequests n _

theorem State.InHand.readAhead (h : s.InHand []) (n : NodeId) (k lba : Nat) : (State.readAhead k n lba s).InHand [] := by
  induction k generalizing s lba with
  | zero => exact h
  | succ k ih =>
    unfold State.readAhead
    split
    · exact h
    · refine ite_keeps (P := State.InHand []) (fun _ => h) (fun _ => ite_keeps (P := State.InHand []) (fun _ => ih h _) (fun _ =>
        ite_keeps (P := State.InHand []) (fun _ => ih h _) (fun _ => ite_keeps (P := State.InHand []) (fun _ => h) (fun _ => ?_))))
      split
      · exact h
      · next p t htake => exact ih ((h.takeFree htake).newFilling n lba) _

theorem State.InHand.delivered (h : s.InHand []) (n : NodeId) (c : Command) (bytes : List Byte) : (s.delivered n c bytes).InHand [] := by
  have hmedia (f : Media → Media) {u : State} (hu : u.InHand []) : (u.mapMedia n f).InHand [] :=
    hu.changed (u.mapMedia_changes n f [.slot, .current, .media]).1
  unfold State.delivered
  dsimp only
  refine ite_keeps (P := State.InHand []) (fun _ => hmedia _ ?_) (fun _ => (hmedia _ h).fillList n)
  have hended : (State.endCommand (s.mapMedia n (fun m => { m with current := some { c with finished := c.finished + 1, list := c.list.tail } }))
      n .good (.block bytes)).InHand [] := hmedia _ (hmedia _ h)
  exact ite_keeps (P := State.InHand []) (fun _ => hended.readAhead n _ _) (fun _ => hended)

theorem State.InHand.deliverFront (h : s.InHand []) (n : NodeId) (c : Command) (b : BlockPlace) : (s.deliverFront n c b).InHand [] := by
  unfold State.deliverFront
  refine ite_keeps (P := State.InHand []) (fun _ => h.delivered n c _) (fun _ => ?_)
  split
  · exact (h.changed (s.mapCommand_changes n _).1).serveRequests n _
  · next e he =>
    split
    · exact h.changed (s.mapCommand_changes n _).1
    · exact (h.useEntry (State.page_mem_of_entryFor he)).delivered n c _
    · exact h.delivered n c _
    · exact h.delivered n c _

theorem State.InHand.acceptNew (h : s.InHand []) (n : NodeId) (lba : Nat) (bytes : List Byte) : (s.acceptNew n lba bytes).InHand [] := by
  unfold State.acceptNew
  refine ite_keeps (P := State.InHand []) (fun _ => h) (fun _ => ?_)
  split
  · exact h
  · next p t hpage =>
    exact ((State.InHand.of_changes (h.getPage hpage) (t.placeBlock_changes n lba p bytes).1).newDirty n lba).changed
      (State.accepted_changes _ n).1

theorem State.InHand.acceptFront (h : s.InHand []) (n : NodeId) (lba : Nat) (bytes : List Byte) : (s.acceptFront n lba bytes).InHand [] := by
  have hplaced (p : Nat) := h.changed (s.placeBlock_changes n lba p bytes).1
  unfold State.acceptFront
  split
  · exact h.acceptNew n lba bytes
  · split
    · exact (hplaced _).changed (State.accepted_changes _ n).1
    · exact ((hplaced _).setEntry _ _).changed (State.accepted_changes _ n).1
    · exact ite_keeps (P := State.InHand []) (fun _ => h) (fun _ => ((hplaced _).makeDirty n _).changed (State.accepted_changes _ n).1)

theorem State.InHand.requestEntry (h : s.InHand []) (n : NodeId) : (s.requestEntry n).InHand [] := by
  unfold State.requestEntry
  split
  · next hserved => exact h.serveRequest hserved
  · split
    · exact h
    · exact ite_keeps (P := State.InHand []) (fun _ => h.acceptNew n _ _) (fun _ => h)

theorem State.InHand.setEntries (h : s.InHand []) (ps : List Nat) (st : State → EntryState) :
    (ps.foldl (fun s p => s.setEntry p (st s)) s).InHand [] :=
  foldl_keeps (P := State.InHand []) (fun u p hu => hu.setEntry p (st u)) ps h

theorem State.InHand.returnFlushing (h : s.InHand []) (n : NodeId) : (s.returnFlushing n).InHand [] :=
  (h.setEntries (s.nd n).cache.outstanding (fun _ => .dirty)).changed (State.mapCache_changes _ n _).1

theorem State.InHand.drainEnd (h : s.InHand []) (n : NodeId) : (s.drainEnd n).InHand [] := by
  unfold State.drainEnd
  split
  · exact h
  · exact ite_keeps (P := State.InHand []) (fun _ => (h.freeWhere _).changed (State.slotAbsent_changes _ n).1) (fun _ => h)

theorem State.InHand.drain (h : s.InHand []) (n : NodeId) : (s.drain n).InHand [] := by
  unfold State.drain
  split
  · exact h
  · refine ite_keeps (P := State.InHand []) (fun _ => h) (fun _ => State.InHand.drainEnd ?_ n)
    have hleft := ((h.changed (s.slotTo_changes n .withdrawing).1).changed (State.leaveReady_changes _ n).1).freeWhere
      (fun e => e.node == n && e.state.isFilling)
    exact ite_keeps (P := State.InHand []) (fun _ => hleft.returnFlushing n) (fun _ => hleft)

theorem State.InHand.detach (h : s.InHand []) (n : NodeId) (p : List Byte) : (s.detach n p).state.InHand [] := by
  unfold State.detach
  split
  · exact h
  · exact h
  · exact h.drain n
  · exact ((h.changed (s.leaveReady_changes n).1).freeWhere _).changed (State.slotAbsent_changes _ n).1

theorem State.InHand.takeFill (h : s.InHand []) (n : NodeId) (p : List Byte) : (s.takeFill n p).state.InHand [] := by
  have hfill {e : Entry} (he : e.page ∈ s.entryPages) (data : List Byte) : (s.fill n e data).InHand [] := by
    have hvalid : ((({ s with mem := s.mem.writePage e.page data } : State)).makeValid n e.page).InHand [] :=
      State.InHand.makeValid (s := { s with mem := s.mem.writePage e.page data }) h n he
    exact ite_keeps (P := State.InHand []) (fun _ => hvalid.changed (State.mapCommand_changes _ n _).1) (fun _ => hvalid)
  unfold State.takeFill
  dsimp only
  split
  · exact h
  · split
    · exact h
    · next e he => exact hfill (State.page_mem_of_fillable he) _

theorem State.InHand.failFill (h : s.InHand []) {e : Entry} (he : e.page ∈ s.entryPages) (st : NodeStatus) :
    (s.failFill e st).InHand [] := by
  have hfreed := h.freeEntry he
  exact ite_keeps (P := State.InHand []) (fun _ => hfreed.changed (State.endCommand_changes _ e.node st _).1) (fun _ => hfreed)

theorem State.InHand.takeFillFail (h : s.InHand []) (n : NodeId) (p : List Byte) : (s.takeFillFail n p).state.InHand [] := by
  unfold State.takeFillFail
  dsimp only
  split
  · exact h
  · split
    · exact h
    · next e he => exact h.failFill (State.page_mem_of_fillable he) _

theorem State.InHand.storeTimesOut (h : s.InHand []) (n : NodeId) : (s.storeTimesOut n).InHand [] := by
  unfold State.storeTimesOut
  split
  · exact h
  · split
    · exact (h.changed (s.slotTo_changes n .faulted).1).changed (State.leaveReady_changes _ n).1
    · exact h.returnFlushing n
    · exact h

theorem State.InHand.resolve (h : s.InHand []) (n : NodeId) (k : Nat) : (s.resolve n k).InHand [] := by
  have hfront : ∀ u : State, u.InHand [] → (State.resolveFront n u).InHand [] := by
    intro u hu
    unfold State.resolveFront
    split
    · exact hu
    · next p _ _ =>
      split
      · exact hu
      · next e he =>
        have hp := (State.page_mem_of_tagged he).1
        split
        · exact ite_keeps (P := State.InHand []) (fun _ => hu.makeDirty n p)
            (fun _ => (hu.makeValid n hp).changed (State.storedBlock_changes _ n _).1)
        · exact hu
  have hresolved := times_keeps (P := State.InHand []) hfront k h
  have hoverdue : (State.overdue (times k (State.resolveFront n) s) n).InHand [] := by
    unfold State.overdue
    split
    · exact ite_keeps (P := State.InHand []) (fun _ => hresolved.storeTimesOut n) (fun _ => hresolved)
    · exact hresolved
  exact (hoverdue.changed (State.writeTest_changes _ n).1).drainEnd n

theorem State.InHand.takeStored (h : s.InHand []) (n : NodeId) (p : List Byte) : (s.takeStored n p).state.InHand [] := by
  unfold State.takeStored
  split
  · exact h
  · exact h
  · exact h
  · exact h.resolve n _

theorem State.InHand.setExtents (h : s.InHand []) (n : NodeId) (p : List Byte) : (s.setExtents n p).state.InHand [] := by
  have hslot (f : Medium → Medium) : (s.mapSlot n f).InHand [] := h.changed (s.mapSlot_changes n f).1
  have hzero (old l : List Range) : (s.setZero n old l).InHand [] :=
    (((hslot _).freeWhere _).changed (State.mapCommand_changes _ n _).1).serveRequests n _
  unfold State.setExtents State.takeProtect State.takeZero
  dsimp only
  split
  · exact h
  · split
    · exact h
    · split
      · split
        · exact h
        · exact hslot _
      · split
        · exact h
        · split
          · exact h
          · exact hzero _ _

theorem State.InHand.recoverMedia (h : s.InHand []) (n : NodeId) : (s.recoverMedia n).state.InHand [] := by
  unfold State.recoverMedia
  split
  · exact (h.changed (s.slotTo_changes n .ready).1).returnFlushing n
  · exact h

theorem State.InHand.takeCommand (h : s.InHand []) (n : NodeId) (w : Bool) (lba count : Nat) : (s.takeCommand n w lba count).InHand [] := by
  have htold : (s.tellChanged n).InHand [] := h.changed (s.tellChanged_changes n).1
  unfold State.takeCommand
  split
  · exact htold
  · exact h.changed (s.answer_changes n _ _).1
  · exact State.InHand.fillList (h.changed (s.mapMedia_changes n _ [.slot, .current, .media]).1) n

theorem State.InHand.buildBulk (h : s.InHand []) (n : NodeId) (b : Bulk) : (s.buildBulk n b).InHand [] := by
  have hsent (k : Byte) (p : List Byte) : (s.sendNotice n k p).InHand [] := h.changed (s.sendNotice_changes n n k p).1
  cases b
  case fetch => exact ((hsent _ _).setEntries _ _).changed (State.mapCache_changes _ n _).1
  case data => exact State.InHand.mapHist (hsent _ _) (fun _ => rfl)
  case writeOut =>
    show (s.buildWriteOut n).InHand []
    unfold State.buildWriteOut
    split
    · exact h
    · exact ((hsent _ _).setEntry _ _).changed (State.mapCache_changes _ n _).1

/-! ### Every command -/

theorem State.partReset_inHand (s : State) (c : ResetCause) (d : Bool) : (s.partReset c d).InHand [] := by
  refine ⟨?_, List.pairwise_lt_range', List.nodup_nil, fun _ hp => by cases hp⟩
  show ([] ++ List.range' 0 Config.pages ++ [] ++ []).Perm _
  simp

theorem State.InHand.startNode (h : s.InHand []) (n : NodeId) : (s.startNode n).InHand [] :=
  debouncePg_keeps (P := State.InHand []) (fun hc h => h.changed hc) (fun m _ h => h.drain m)
    ((((h.changed (s.startLine_changes n).1).growRing n).changed (State.startLive_changes _ n).1)) n

theorem State.InHand.startUp (h : s.InHand []) (b : BitVec 2) : (s.startUp b).InHand [] := by
  obtain ⟨u, hfold, _, hstart⟩ := s.startUp_started b
  rw [hstart, hfold]
  exact (foldl_keeps (P := State.InHand []) (fun _ n hu => hu.startNode n) NodeId.all (s := s.settled b) h).changed
    (State.mapLink_changes _ .n0 _).1

theorem State.InHand.frameSent (h : s.InHand []) (x : Sending) : (s.frameSent x).InHand [] := by
  have hlink {u : State} (hu : u.InHand []) (f : Link → Link) : (u.mapLink f).InHand [] := hu.changed (u.mapLink_changes .n0 f).1
  unfold State.frameSent State.replySent State.noticeSent
  dsimp only
  split
  · split
    · exact ite_keeps (P := State.InHand []) (fun _ => State.partReset_inHand _ _ _) (fun _ => hlink h _)
    · exact hlink (hlink h _) _
  · exact hlink h _

theorem State.InHand.run (h : s.InHand []) (i : Instr) : (s.run i).InHand [] := by
  have hdrain : ∀ n u, State.InHand [] u → (State.drain u n).InHand [] := fun n u hu => hu.drain n
  have hquiet {u v : State} (hc : u.Changes quietParts v) (hu : u.InHand []) : v.InHand [] := hu.changed hc
  have hnode {carry : NodeId → State → Carried} (hcarry : ∀ n u, State.InHand [] u → (carry n u).state.InHand [])
      (kind tag node : Byte) (p : List Byte) (ok : Bool) : (nodeRequest kind tag node p ok carry s).InHand [] :=
    nodeRequest_keeps (P := State.InHand []) (fun hc h => h.changed hc) hcarry h kind tag node p ok
  have htick (k : Nat) : (s.toTick k).InHand [] := h.changed (s.toTick_changes .n0 k).1
  cases i
  case poolSet tag node p =>
    exact partRequest_keeps (P := State.InHand []) (fun hc h => h.changed hc) (fun s h => h.setPool p) h _ _ _ _ _
  case medDetach tag node p => exact hnode (fun n u hu => hu.detach n p) _ _ _ _ _
  case medFill tag node p => exact hnode (fun n u hu => hu.takeFill n p) _ _ _ _ _
  case medFillFail tag node p => exact hnode (fun n u hu => hu.takeFillFail n p) _ _ _ _ _
  case medStored tag node p => exact hnode (fun n u hu => hu.takeStored n p) _ _ _ _ _
  case medExtentsSet tag node p => exact hnode (fun n u hu => hu.setExtents n p) _ _ _ _ _
  case medRecover tag node p => exact hnode (fun n u hu => hu.recoverMedia n) _ _ _ _ _
  case arbiterGrant =>
    exact ite_keeps (P := State.InHand []) (fun _ => grant_keeps (P := State.InHand []) (fun hc h => h.changed hc)
      (fun n b s h _ => h.buildBulk n b) h) (fun _ => h)
  case frameSent => exact State.given_keeps (P := State.InHand []) h (fun x _ => h.frameSent x)
  case resetNAsserted | powerOn => exact State.partReset_inHand _ _ _
  case startUp b => exact ite_keeps (P := State.InHand []) (fun _ => h.startUp b) (fun _ => h)
  case characterReceived n d p b =>
    exact ite_keeps (P := State.InHand []) (fun _ => receiveCharacter_keeps (P := State.InHand []) hquiet hdrain
      (fun n b f p s h => h.storeByte n b f p) h n d p b) (fun _ => h)
  case eject n =>
    have hanswered {u : State} (hu : u.InHand []) (st : NodeStatus) : (u.answer n st).InHand [] := hu.changed (u.answer_changes n st _).1
    refine ite_keeps (P := State.InHand []) (fun _ => ?_) (fun _ => h)
    unfold State.answerEject
    split
    · exact hanswered h _
    · exact ite_keeps (P := State.InHand []) (fun _ => hanswered (h.drain n) _) (fun _ => hanswered h _)
  case read n lba count => exact ite_keeps (P := State.InHand []) (fun _ => h.takeCommand n _ _ _) (fun _ => h)
  case write n lba count => exact ite_keeps (P := State.InHand []) (fun _ => h.takeCommand n _ _ _) (fun _ => h)
  case newEntryRequest n => exact ite_keeps (P := State.InHand []) (fun _ => h) (fun _ => h.requestEntry n)
  case blockAccept n => exact State.given_keeps (P := State.InHand []) h (fun x _ => h.acceptFront n x.1 x.2)
  case blockDelivery n => exact State.given_keeps (P := State.InHand []) h (fun x _ => h.deliverFront n x.1 x.2)
  case fetchTimeout p =>
    refine State.given_keeps (P := State.InHand []) h (fun x hx => ?_)
    refine (htick x.2).failFill (e := x.1) ?_ .timedOut
    unfold State.sentFetch at hx
    split at hx
    · cases hx
    · next e he =>
      split at hx
      · split at hx
        · cases hx
          obtain ⟨hmem, hp⟩ := State.page_mem_of_tagged he
          rw [hp]; exact hmem
        · cases hx
      · cases hx
  case storeTimeout n => exact State.given_keeps (P := State.InHand []) h (fun d _ => (htick d).storeTimesOut n)
  case pgSenseChange n b => exact ite_keeps (P := State.InHand []) (fun _ => h) (fun _ => senseChange_keeps (P := State.InHand []) hquiet hdrain h n b)
  case pgAccepted n => exact State.given_keeps (P := State.InHand []) h (fun e _ => acceptPg_keeps (P := State.InHand []) hquiet hdrain (htick e) n)
  case pulseEnd n => exact State.given_keeps (P := State.InHand []) h (fun a _ => pulseEnds_keeps (P := State.InHand []) hquiet hdrain (htick _) n a)
  all_goals exact h.changed (s.run_changes _)

/-- Settles O6: a page that is taken, given back or evicted goes from one place to one other. -/
theorem stepKeepsPageLaw : Obligations.StepKeepsPageLaw := by
  intro s t h hst
  rw [State.pageLaw_iff] at h ⊢
  exact step_keeps_of_run (P := State.InHand []) (fun hc h => h.changed hc) (fun i _ h => h.run i) h hst

end

end Sys2Proof.Machine
end


section
/-! PROOFS. The step and the state after reset (O1, O11), the grants of replies and of PART_READY (O22), and the timers of the
pacer (O31). -/

namespace Sys2Proof.Machine

set_option Elab.async false

/-! ### The step (O1) -/

/-- Settles O1: by the step's two cases; a cycle counts unless the part is held in reset. -/
theorem stepRunsTheFrontCommand : Obligations.StepRunsTheFrontCommand := by
  refine ⟨fun c cs s => step_cons rfl, fun s hp hheld => ?_, fun s hp hheld htick => ?_⟩
  · rw [step_nil hp, State.cycle, if_pos hheld]
  · rw [step_nil hp, State.cycle, if_neg (by simp [hheld])]
    simp only [Clock.advance]
    have hdiv : (s.clock.tickCycles + 1) / s.cfg.fref = if s.clock.tickCycles + 1 = s.cfg.fref then 1 else 0 := by
      split
      · next h => rw [h]; exact Nat.div_self (by omega)
      · exact Nat.div_eq_of_lt (by omega)
    have hmod : (s.clock.tickCycles + 1) % s.cfg.fref =
        if s.clock.tickCycles + 1 = s.cfg.fref then 0 else s.clock.tickCycles + 1 := by
      split
      · next h => rw [h]; exact Nat.mod_self _
      · exact Nat.mod_eq_of_lt (by omega)
    rw [hdiv, hmod]
    split <;> rfl

/-! ### The state after reset (O11) -/

/-- Settles O11: law by law, on the one state. -/
theorem resetMeetsTheLaws : Obligations.ResetMeetsTheLaws := by
  refine ⟨rfl, State.pageLaw_of_runs (k := 32) (by decide +kernel) rfl (by decide) List.nodup_nil (by intro p h; cases h),
    ⟨fun n => ?_, nofun⟩, fun n => ?_, fun n => ?_, fun n => ?_, ?_, fun n => ?_, State.cacheLaw_of_check (by decide +kernel)⟩
  · cases n <;> (unfold History.Lawful; decide +kernel)
  · cases n <;> decide +kernel
  · cases n <;> rfl
  · cases n <;> decide +kernel
  · unfold Link.Lawful; decide +kernel
  · cases n <;> (intro _; rfl)

/-! ### Replies and PART_READY (O22) -/

theorem State.mayGrant_eq_true_iff (s : State) :
    s.mayGrant = true ↔ s.held = false ∧ s.link.sending = none ∧ s.link.lrts = true := by
  simp [State.mayGrant, and_assoc]

theorem exec_arbiterGrant {s : State} (h : s.mayGrant = true) : exec .arbiterGrant s = .next s.grant :=
  congrArg Host.Outcome.next (if_pos h)

theorem exec_arbiterGrant_refused {s : State} (h : s.mayGrant = false) : exec .arbiterGrant s = .next s :=
  congrArg Host.Outcome.next (if_neg (by simp [h]))

theorem exec_lrtsDeasserted {s : State} (h : s.link.lrts = true) : exec .lrtsDeasserted s = .next s.lrtsFalls :=
  congrArg Host.Outcome.next (if_pos h)

theorem State.grant_ready (s : State) (hr : s.link.replies = []) (hd : s.link.restart = none)
    (hp : s.link.readyPending = true) :
    s.grant = (s.mapLink (fun l => { l with readyPending := false })).send
      { kind := 0x40, tag := 0, node := 0xFF, payload := s.readyPayload } false := by
  simp only [State.grant, hr, hd, hp, Option.isSome_none, Bool.false_eq_true, if_false, if_true]

theorem State.grant_notice (s : State) (hr : s.link.replies = []) (hd : s.link.restart = none)
    (hp : s.link.readyPending = false) : s.grant = s.grantNotice 5 := by
  simp only [State.grant, hr, hd, hp, Option.isSome_none, Bool.false_eq_true, if_false]

/-- Settles O22: the pause is the fall of LRTS on what stands on LTX, and the grants are the branches of the arbiter. -/
theorem grantsRepliesThenPartReady : Obligations.GrantsRepliesThenPartReady := by
  refine ⟨fun s h => congrArg Host.Outcome.next (if_neg (by simp [h])), fun s h hs => ?_, fun s x h hs hx => ?_,
    fun s => ⟨?_, ?_⟩, fun s => rfl, fun s h => ?_, fun s r rs h hr => ?_, fun s d h hr hd => ?_, fun s h hr hd hp => ?_⟩
  · simp only [exec_lrtsDeasserted h, State.lrtsFalls, State.mapLink, Link.lrtsFalls, hs, Option.map_none]
  · refine ⟨?_, fun k => ?_, fun k h1 h2 h3 => Sending.pause_within h1 h2 h3⟩
    · simp only [exec_lrtsDeasserted h, State.lrtsFalls, State.mapLink, Link.lrtsFalls, hs, Option.map_some]
    · obtain ⟨-, -, hone, hkeep, hmost⟩ := Sending.pause_sent k x hx
      exact ⟨_, rfl, hone, hkeep, hmost⟩
  · rintro (h | h) <;> cases hs : s.link.sending <;> simp_all [Link.ltx]
  · intro x h hs
    simp [Link.ltx, h, hs]
  · refine exec_arbiterGrant_refused (Bool.eq_false_iff.mpr fun hmay => ?_)
    obtain ⟨hheld, hsending, hlrts⟩ := s.mayGrant_eq_true_iff.mp hmay
    simp_all
  · simp only [exec_arbiterGrant h, State.grant, hr, State.send, State.mapLink]
  · simp only [exec_arbiterGrant h, State.grant, hr, hd, Option.isSome_some, if_true]
  · rw [exec_arbiterGrant h, s.grant_ready hr hd hp]
    rfl

/-! ### What an event changes -/

/-- An event in a running part, at cycle or tick that its timer names, is carried out. -/
theorem State.given_eq {α : Type} {s : State} (h : s.held = false) {o : Option α} {a : α} (ho : o = some a) (f : α → State) :
    s.given o f = f a := by
  rw [ho, State.given_some h]

/-- An event that cannot occur changes nothing. -/
theorem State.given_of_none {α : Type} {s : State} {o : Option α} (ho : o = none) (f : α → State) : s.given o f = s := by
  rw [ho, State.given_none]

theorem State.setNd_toTick_onlyNodeAndClock (s : State) (t : Nat) (n : NodeId) (x : Node) :
    s.OnlyNodeAndClock ((s.toTick t).setNd n x) n := by
  unfold State.OnlyNodeAndClock
  rw [State.nd_setNd_same]
  rfl

theorem State.setNd_toCycle_onlyNodeAndClock (s : State) (k : Nat) (n : NodeId) (x : Node) :
    s.OnlyNodeAndClock ((s.toCycle k).setNd n x) n := by
  unfold State.OnlyNodeAndClock
  rw [State.nd_setNd_same]
  rfl

/-! ### The pacer's timers (O31) -/

/-- The end of the idle-gap timer writes the timer, the line-idle flag and the pacer (R12, R41). -/
theorem State.idleGapEnds_eq (s : State) (n : NodeId) (e : Nat) :
    s.idleGapEnds n e = (s.toCycle e).setNd n { s.nd n with
      line := { (s.nd n).line with idleGap := none }
      hist := (s.nd n).hist.lineIdleSignal } := by
  simp [State.idleGapEnds, State.mapLine, State.mapHist]

/-- Settles O31: each timer's end in closed form. -/
theorem pacerTimersExpire : Obligations.PacerTimersExpire := by
  refine ⟨fun s n e hheld he => ?_, fun s n e hheld he => ?_, fun s n h => ?_, fun s n h => ?_⟩
  · refine ⟨s.idleGapEnds n e, congrArg Host.Outcome.next (State.given_eq hheld he _), ?_⟩
    rw [s.idleGapEnds_eq]
    refine ⟨Clock.toCycle_cycles _ _ _, s.setNd_toCycle_onlyNodeAndClock e n _, _, State.nd_setNd_same _ _ _, ?_, ?_⟩
    · rintro ⟨d, hd⟩
      simp [hd]
    · intro hne
      cases hp : (s.nd n).hist.pacer with
      | collecting d => exact absurd hp (hne d)
      | _ => rfl
  · refine ⟨s.pacerDelayEnds n e, congrArg Host.Outcome.next (State.given_eq hheld ?_ _), Clock.toTick_ticks _ _ _,
      s.setNd_toTick_onlyNodeAndClock e n _, State.nd_setNd_same _ _ _⟩
    rw [he]; rfl
  · refine congrArg Host.Outcome.next ?_
    rw [h, State.given_none]
  · refine congrArg Host.Outcome.next ?_
    have hnone : (s.nd n).hist.pacer.delayEnds = none := by
      cases hp : (s.nd n).hist.pacer with
      | collecting e =>
        cases e with
        | none => rfl
        | some e => exact absurd hp (h e)
      | _ => rfl
    rw [hnone, State.given_none]

end Sys2Proof.Machine
end


section
/-! PROOFS. The part reset (O12) and START_UP (O13). -/

namespace Sys2Proof.Machine

set_option Elab.async false

/-! ### A part reset -/

theorem State.partReset_nd (s : State) (c : ResetCause) (d : Bool) (n : NodeId) : (s.partReset c d).nd n = (s.nd n).inReset := by
  cases n <;> rfl

theorem State.partReset_inReset (s : State) (c : ResetCause) (d : Bool) : (s.partReset c d).InReset := by
  refine ⟨rfl, rfl, rfl, rfl, fun n => ?_⟩
  rw [State.partReset_nd]
  rfl

/-! ### Settings that stay -/

/-- The parts that hold settings. -/
abbrev settingParts : List Part := [.fref, .quota, .lineSet, .delivery, .watchSet, .timings, .liveSet, .tuning]

theorem State.Changes.set_eq {s t : State} {ps : List Part} (hc : s.Changes ps t) (n : NodeId)
    (hp : ∀ p ∈ settingParts, p ∉ ps := by simp) : t.set n = s.set n := by
  have hquota : (t.set n).quota = (s.set n).quota := hc.same .quota (hp _ (by simp)) n
  have hline : (t.set n).line = (s.set n).line := hc.same .lineSet (hp _ (by simp)) n
  have hdelivery : (t.set n).delivery = (s.set n).delivery := hc.same .delivery (hp _ (by simp)) n
  have hwatch : (t.set n).watch = (s.set n).watch := hc.same .watchSet (hp _ (by simp)) n
  obtain ⟨htimings, hchoices⟩ : (t.set n).timings = (s.set n).timings ∧ (t.set n).choices = (s.set n).choices :=
    hc.same .timings (hp _ (by simp)) n
  have hlive : (t.set n).live = (s.set n).live := hc.same .liveSet (hp _ (by simp)) n
  have htuning : (t.set n).tuning = (s.set n).tuning := hc.same .tuning (hp _ (by simp)) n
  generalize t.set n = x at *
  generalize s.set n = y at *
  cases x
  cases y
  simp_all

theorem State.Changes.cfg_eq {s t : State} {ps : List Part} (hc : s.Changes ps t)
    (hp : ∀ p ∈ settingParts, p ∉ ps := by simp) : t.cfg = s.cfg := by
  have hfref : t.cfg.fref = s.cfg.fref := hc.same .fref (hp _ (by simp))
  have hnodes : t.cfg.nodes = s.cfg.nodes := PerNode.ext_get fun n => hc.set_eq n hp
  generalize t.cfg = x at *
  generalize s.cfg = y at *
  cases x
  cases y
  simp_all

/-- The parts outside the nodes. -/
abbrev wholeParts : List Part :=
  settingParts ++ [.reset, .clock, .free, .entries, .lru, .mem, .link, .store, .pauses, .pending]

/-- An operation that writes parts of nodes alone changes the nodes. -/
theorem State.Changes.eq_nodes {s t : State} {ps : List Part} (hc : s.Changes ps t)
    (hp : ∀ p ∈ wholeParts, p ∉ ps := by simp) : t = { s with nodes := t.nodes } := by
  obtain ⟨hheld, hcause, hdefaults, hrate⟩ := hc.same .reset (hp _ (by simp))
  have hclock : t.clock = s.clock := hc.same .clock (hp _ (by simp))
  have hcfg : t.cfg = s.cfg := hc.cfg_eq fun p h => hp p (List.mem_append_left _ h)
  have hfree : t.free = s.free := hc.same .free (hp _ (by simp))
  have hentries : t.entries = s.entries := hc.same .entries (hp _ (by simp))
  have hlru : t.lru = s.lru := hc.same .lru (hp _ (by simp))
  have hmem : t.mem = s.mem := hc.same .mem (hp _ (by simp))
  have hlink : t.link = s.link := hc.same .link (hp _ (by simp))
  have hstore : t.store = s.store := hc.same .store (hp _ (by simp))
  have hpauses : t.pauses = s.pauses := hc.same .pauses (hp _ (by simp))
  have hpending : t.pending = s.pending := hc.same .pending (hp _ (by simp))
  rw [← hheld, ← hcause, ← hdefaults, ← hrate, ← hclock, ← hcfg, ← hfree, ← hentries, ← hlru, ← hmem, ← hlink, ← hstore,
    ← hpauses, ← hpending]

/-- Two states that differ in their nodes, and there in one alone. -/
theorem State.onlyNode_of_nodes {s t : State} {n : NodeId} (h : t = { s with nodes := t.nodes })
    (hn : ∀ m, m ≠ n → t.nd m = s.nd m) : s.OnlyNode t n := by
  have hnodes : t.nodes = s.nodes.set n (t.nd n) := by
    refine PerNode.ext_get fun m => ?_
    by_cases hm : m = n
    · rw [hm, PerNode.get_set_same]; rfl
    · rw [PerNode.get_set_ne _ _ hm]; exact hn m hm
  exact h.trans (congrArg (fun x => { s with nodes := x }) hnodes)

theorem State.ChangesAt.onlyNode {s t : State} {n : NodeId} {ps : List Part} (hc : s.ChangesAt n ps t)
    (hp : ∀ p ∈ wholeParts, p ∉ ps := by simp) : s.OnlyNode t n :=
  State.onlyNode_of_nodes (hc.1.eq_nodes hp) fun m hm => (hc.2 m hm).1

/-! ### The start of one node -/

section
variable {s : State} {n : NodeId}

/-- A node as step 4 of R191 leaves it before PG_SENSEn is debounced: its line and monitor follow the settings, and its ring has
taken pages. -/
def Node.begun (x : Node) (st : NodeSettings) (ring : List Nat) (filter : Nat) : Node :=
  { x with
    line := { x.line with autobaud := if st.line.rate = .auto then .hunting none else .fixed }
    hist := { x.hist with ring := x.hist.ring ++ ring }
    live := { x.live with monitor := if st.live.enable then .dormant else .disabled, hbFilter := some filter } }

/-- The state before PG_SENSEn is debounced: the ring's min pages are those that the pool has first. -/
def State.begun (s : State) (n : NodeId) : State :=
  (s.poolWithout (s.wants n)).setNd n
    ((s.nd n).begun (s.set n) (s.supply.take (s.wants n)) (s.clock.ticks + 1))

theorem State.startNode_eq (s : State) (n : NodeId) : s.startNode n = (s.begun n).debouncePg n := by
  have hline : s.startLine n = s.mapLine n (fun l =>
      { l with autobaud := if (s.set n).line.rate = .auto then .hunting none else .fixed }) := by
    unfold State.startLine
    cases (s.set n).line.rate <;> simp
  have hwants : (s.startLine n).wants n = s.wants n := by simp [State.wants, State.startLine]
  have hsupply : (s.startLine n).supply = s.supply := rfl
  have hbegun : ((s.startLine n).growRing n).startLive n = s.begun n := by
    rw [State.growRing_eq, hwants, hsupply, hline]
    have hpool (f : Line → Line) (k : Nat) : (s.mapLine n f).poolWithout k = (s.poolWithout k).mapLine n f := rfl
    have hnd (k : Nat) : (s.poolWithout k).nd n = s.nd n := rfl
    rw [hpool]
    simp only [State.startLive, State.mapLine, State.addRing, State.mapHist, State.mapLive, State.begun, Node.begun,
      State.setNd_setNd, State.nd_setNd_same, hnd]
    rfl
  rw [State.startNode, hbegun]

/-- Whether PG_SENSEn is debounced or accepted at once, its node's line, boot number and medium stay, and the monitor is disabled
where it was. -/
theorem State.debouncePg_settling (hpg : (s.nd n).power.pg = .settling) :
    ((s.debouncePg n).nd n).line = (s.nd n).line ∧ ((s.debouncePg n).nd n).power.boot = (s.nd n).power.boot ∧
      ((s.debouncePg n).nd n).media = (s.nd n).media ∧
      (((s.debouncePg n).nd n).live.monitor = .disabled ↔ (s.nd n).live.monitor = .disabled) := by
  have hunsettled : (s.nd n).power.unsettled = true := by simp [Power.unsettled, hpg]
  rw [State.debouncePg, if_pos hunsettled]
  split
  · rw [State.acceptPg, hpg]
    dsimp only
    rw [State.initialPg_says, State.nd_setNd_same]
    refine ⟨rfl, rfl, rfl, ?_⟩
    dsimp only [Live.followed]
    split
    · next h => cases hm : (s.nd n).live.monitor <;> simp_all [Monitor.active]
    · split
      · next h => simp_all
      · rfl
  · simp

/-- A node in reset has started as its settings say (R25, R166, R191). -/
theorem State.startNode_started (h : s.nd n = (s.nd n).inReset) :
    ((s.startNode n).nd n).line.autobaud = (if (s.set n).line.rate = .auto then .hunting none else .fixed) ∧
      (((s.startNode n).nd n).live.monitor = .disabled ↔ (s.set n).live.enable = false) ∧
      ((s.startNode n).nd n).power.boot = 0 ∧ ((s.startNode n).nd n).media.slot = none ∧
      ((s.startNode n).nd n).media.vbus = (s.nd n).media.vbus := by
  have hbegun : (s.begun n).nd n = (s.nd n).begun (s.set n) (s.supply.take (s.wants n)) (s.clock.ticks + 1) :=
    State.nd_setNd_same _ _ _
  have hpg : ((s.begun n).nd n).power.pg = .settling := by rw [hbegun, h]; rfl
  obtain ⟨hline, hboot, hmedia, hmonitor⟩ := State.debouncePg_settling hpg
  rw [State.startNode_eq, hline, hboot, hmedia, hmonitor, hbegun]
  refine ⟨rfl, ?_, ?_, ?_, rfl⟩
  · simp only [Node.begun]
    cases (s.set n).live.enable <;> simp
  · rw [h]; rfl
  · rw [h]; rfl

/-- A node's start leaves every setting. -/
theorem State.startNode_cfg (s : State) (n : NodeId) : (s.startNode n).cfg = s.cfg :=
  (s.startNode_changes n).1.cfg_eq

/-- The nodes that start before and after a node leave it and its settings alone. -/
theorem State.startNodes_nd (s : State) (n : NodeId) {t : State} (ht : t = NodeId.all.foldl State.startNode s) :
    ∃ u : State, u.nd n = s.nd n ∧ u.set n = s.set n ∧ t.nd n = (u.startNode n).nd n := by
  have hne {v : State} {a b : NodeId} (h : b ≠ a) := State.startNode_nd_ne (s := v) (n := a) h
  simp only [NodeId.all, List.foldl_cons, List.foldl_nil] at ht
  rw [ht]
  cases n
  · refine ⟨s, rfl, rfl, ?_⟩
    rw [(hne (by decide)).1, (hne (by decide)).1, (hne (by decide)).1]
  · refine ⟨s.startNode .n0, (hne (by decide)).1, (hne (by decide)).2, ?_⟩
    rw [(hne (by decide)).1, (hne (by decide)).1]
  · refine ⟨(s.startNode .n0).startNode .n1, (hne (by decide)).1.trans (hne (by decide)).1,
      (hne (by decide)).2.trans (hne (by decide)).2, ?_⟩
    rw [(hne (by decide)).1]
  · exact ⟨((s.startNode .n0).startNode .n1).startNode .n2,
      (hne (by decide)).1.trans ((hne (by decide)).1.trans (hne (by decide)).1),
      (hne (by decide)).2.trans ((hne (by decide)).2.trans (hne (by decide)).2), rfl⟩

end

/-! ### START_UP (O13) -/

/-- What START_UP takes before the nodes start, and what their start leaves of it. -/
theorem State.startUp_frame (s : State) (b : BitVec 2) :
    (s.startUp b).held = false ∧ (s.startUp b).restartDefaults = false ∧ (s.startUp b).cfg = s.loaded.1 ∧
      (s.startUp b).store = { s.store with source := s.loaded.2 } ∧
      (s.startUp b).link = { s.link with readyPending := true } ∧ (s.startUp b).linkRate = LinkRate.ofStraps b ∧
      (s.startUp b).clock = s.clock ∧ (s.startUp b).mem = s.mem ∧ (s.startUp b).pauses = s.pauses ∧
      (s.startUp b).pending = s.pending ∧ (s.startUp b).resetCause = s.resetCause := by
  have hc := s.settled_changes_startUp b
  obtain ⟨hheld, hcause, hdefaults, hrate⟩ := hc.same .reset (by simp)
  obtain ⟨u, -, hu, hstart⟩ := s.startUp_started b
  have hlink : u.link = s.link := hu.same .link (by simp)
  have hready : (s.startUp b).link = { s.link with readyPending := true } := by rw [hstart, ← hlink]; rfl
  exact ⟨hheld, hdefaults, hc.cfg_eq, hc.same .store (by simp), hready, hrate, hc.same .clock (by simp),
    hc.same .mem (by simp), hc.same .pauses (by simp), hc.same .pending (by simp), hcause⟩

theorem exec_startUp {s : State} (h : s.held = true) (b : BitVec 2) : exec (.startUp b) s = .next (s.startUp b) :=
  congrArg Host.Outcome.next (if_pos h)

/-- Settles O13: what is taken stays while the nodes start, each from its reset state and from the lowest free pages. -/
theorem startUpLoadsTheSettings : Obligations.StartUpLoadsTheSettings := by
  rintro s b ⟨hheld, hfree, hentries, hlru, hreset⟩
  obtain ⟨hrun, hdefaults, hcfg, hstore, hlink, hrate, hclock, hmem, hpauses, hpending, hcause⟩ := s.startUp_frame b
  have hring (n : NodeId) : (s.nd n).hist.ring = [] := by rw [hreset n]; rfl
  have hset (n : NodeId) : (s.startUp b).set n = (s.settled b).set n := (s.settled_changes_startUp b).set_eq n
  obtain ⟨⟨h0, h1, h2, h3⟩, hleft, hnone, -⟩ := State.startUp_rings (l := []) ⟨hfree, hentries, hlru⟩ hring b
    (m := fun n => ((s.startUp b).set n).quota.min) (fun n => by rw [hset])
  obtain ⟨u, hu, -, hstart⟩ := s.startUp_started b
  refine ⟨s.startUp b, exec_startUp hheld b, hrun, hdefaults, fun h => ?_, fun x h hx => ?_, fun h hx => ?_, hlink, hrate,
    hclock, hmem, hpauses, hpending, hnone, hcause, ⟨h0, h1, h2, h3, hleft⟩, fun n => ?_⟩
  · rw [hcfg, hstore, State.loaded, if_pos h]
    exact ⟨rfl, rfl⟩
  · rw [hcfg, hstore, State.loaded, if_neg (by simp [h]), hx]
    exact ⟨rfl, rfl⟩
  · rw [hcfg, hstore, State.loaded, if_neg (by simp [h]), hx]
    exact ⟨rfl, rfl⟩
  · obtain ⟨v, hv, hvset, hnode⟩ := State.startNodes_nd (s.settled b) n hu
    have hvreset : v.nd n = (v.nd n).inReset := by rw [hv]; exact hreset n
    obtain ⟨hline, hmonitor, hboot, hslot, hvbus⟩ := State.startNode_started hvreset
    have hnd : (s.startUp b).nd n = (v.startNode n).nd n := by rw [hstart, State.nd_mapLink, hnode]
    have hvbus' : (v.nd n).media.vbus = (s.nd n).media.vbus := by rw [hv]; rfl
    rw [hset, ← hvset]
    unfold State.slot
    rw [hnd]
    exact ⟨hline, hmonitor, hboot, hslot, hvbus.trans hvbus'⟩

/-! ### The state after reset (O12) -/

/-- A node in reset whose input pins read 0. -/
def Node.quiet : Node :=
  { line := .fresh, hist := .fresh [], watch := Place.fresh, media := .fresh false, cache := .fresh, power := .fresh false none,
    live := .fresh false none }

/-- The state after the start of a quiet node whose ring has taken the eight free pages from `k` on. -/
def State.quietStart (s : State) (n : NodeId) (k : Nat) : State :=
  ({ s with free := List.range' (k + 8) (1024 - (k + 8)) } : State).setNd n (.initial k)

/-- A quiet node starts with the defaults: its ring takes the eight free pages from `k` on (R71, R191). -/
theorem State.startNode_quiet {s : State} {n : NodeId} {k : Nat} (hcfg : s.cfg = .default)
    (hclock : s.clock = { cycles := 0, ticks := 0, tickCycles := 0 }) (hnd : s.nd n = .quiet) (hk : k + 8 ≤ 1024)
    (hfree : s.free = List.range' k (1024 - k)) (hentries : s.entries = []) (hlru : s.lru = []) :
    s.startNode n = s.quietStart n k := by
  have hset : s.set n = .default := by rw [State.set, hcfg]; cases n <;> rfl
  have hwants : s.wants n = 8 := by rw [State.wants, hset, hnd]; rfl
  have hsplit : List.range' k (1024 - k) = List.range' k 8 ++ List.range' (k + 8) (1024 - (k + 8)) := by
    have hsum : 1024 - k = 8 + (1024 - (k + 8)) := by omega
    rw [hsum, ← List.range'_append_1]
  have htake : s.supply.take 8 = List.range' k 8 := by
    rw [State.supply, hfree, hlru, List.append_nil, hsplit, List.take_left' (List.length_range' ..)]
  have hdrop : s.free.drop 8 = List.range' (k + 8) (1024 - (k + 8)) := by
    rw [hfree, hsplit, List.drop_left' (List.length_range' ..)]
  have hpool : s.poolWithout 8 = { s with free := List.range' (k + 8) (1024 - (k + 8)) } := by
    simp [State.poolWithout, hdrop, hlru, hentries]
  have hbegun : s.begun n = ({ s with free := List.range' (k + 8) (1024 - (k + 8)) } : State).setNd n
      (Node.quiet.begun .default (List.range' k 8) 1) := by
    rw [State.begun, hwants, htake, hpool, hset, hnd, hclock]
  have hbegunNd : (s.begun n).nd n = Node.quiet.begun .default (List.range' k 8) 1 := by rw [hbegun, State.nd_setNd_same]
  have hdebounce : ((s.begun n).timings n).debounce = 20 := by
    have hset' : (s.begun n).set n = .default := by rw [hbegun]; exact hset
    rw [State.timings, hset']; rfl
  have hticks : (s.begun n).clock.ticks = 0 := by rw [hbegun, State.setNd_clock]; exact congrArg Clock.ticks hclock
  rw [State.startNode_eq, State.debouncePg, hbegunNd, if_pos (by rfl), hdebounce, if_neg (by decide), State.mapPower, hticks,
    hbegunNd, hbegun, State.setNd_setNd]
  rfl

/-- Settles O12: the reset state in closed form, and from it the four quiet nodes started one after the other. -/
theorem partResetQuietsThePart : Obligations.PartResetQuietsThePart := by
  refine ⟨fun s x hx => ?_, fun s himage hlrts hpins => ⟨_, rfl, ?_⟩⟩
  · have hreset (c : ResetCause) : ∀ n, ((s.partReset c false).nd n) = (s.nd n).inReset := s.partReset_nd c false
    have hquiet (c : ResetCause) : (s.partReset c false).InReset := s.partReset_inReset c false
    simp only [List.mem_cons, List.not_mem_nil, or_false] at hx
    obtain ⟨c, hexec, hc⟩ : ∃ c, exec x.1 s = .next (s.partReset c false) ∧ x.2 = c := by
      rcases hx with rfl | rfl <;> exact ⟨_, rfl, rfl⟩
    refine ⟨_, hexec, hquiet c, hc ▸ rfl, rfl, fun n => ?_, rfl, rfl, rfl, rfl, rfl, rfl⟩
    simp only [State.condition, State.connected, State.slot, hreset]
    exact ⟨rfl, rfl, rfl, rfl, rfl, rfl, rfl, rfl, rfl, rfl, rfl, rfl, rfl, rfl, rfl, rfl, rfl⟩
  · show exec (.startUp 0) (s.partReset .powerOn false) = _
    rw [exec_startUp rfl, State.startUp_eq]
    have hloaded : (s.partReset .powerOn false).loaded = (.default, .defaults) := by
      simp [State.loaded, State.partReset, himage, Image.good]
    have hquiet (n : NodeId) : ((s.partReset .powerOn false).settled 0).nd n = .quiet := by
      obtain ⟨hvbus, hsense, hhb⟩ := hpins n
      show (s.partReset .powerOn false).nd n = .quiet
      rw [s.partReset_nd, Node.inReset, hvbus, hsense, hhb]
      rfl
    have hcfg : ((s.partReset .powerOn false).settled 0).cfg = .default := by rw [State.settled, hloaded]
    simp only [NodeId.all, List.foldl_cons, List.foldl_nil]
    generalize hv : (s.partReset .powerOn false).settled 0 = v at hcfg hquiet ⊢
    have hclock : v.clock = { cycles := 0, ticks := 0, tickCycles := 0 } := hv ▸ rfl
    have hentries : v.entries = [] := hv ▸ rfl
    have hlru : v.lru = [] := hv ▸ rfl
    have hfree : v.free = List.range' 0 (1024 - 0) := hv ▸ rfl
    have hne {t : State} {a b : NodeId} {k : Nat} (h : b ≠ a) : (t.quietStart a k).nd b = t.nd b := State.nd_setNd_ne _ _ h
    have h0 : v.startNode .n0 = v.quietStart .n0 0 :=
      State.startNode_quiet hcfg hclock (hquiet .n0) (by decide) hfree hentries hlru
    have h1 : (v.quietStart .n0 0).startNode .n1 = (v.quietStart .n0 0).quietStart .n1 8 :=
      State.startNode_quiet hcfg hclock ((hne (by decide)).trans (hquiet .n1)) (by decide) rfl hentries hlru
    have h2 : ((v.quietStart .n0 0).quietStart .n1 8).startNode .n2 = ((v.quietStart .n0 0).quietStart .n1 8).quietStart .n2 16 :=
      State.startNode_quiet hcfg hclock (((hne (by decide)).trans (hne (by decide))).trans (hquiet .n2)) (by decide) rfl
        hentries hlru
    have h3 : (((v.quietStart .n0 0).quietStart .n1 8).quietStart .n2 16).startNode .n3 =
        (((v.quietStart .n0 0).quietStart .n1 8).quietStart .n2 16).quietStart .n3 24 :=
      State.startNode_quiet hcfg hclock ((((hne (by decide)).trans (hne (by decide))).trans (hne (by decide))).trans
        (hquiet .n3)) (by decide) rfl hentries hlru
    rw [h0, h1, h2, h3, ← hv, State.settled, hloaded]
    simp only [State.partReset, himage, hlrts]
    rfl

end Sys2Proof.Machine
end


section
/-! PROOFS. Requests for the whole part: status (O16), saving (O14), restart (O15) and the clock (O18); and what each request
leaves, once. -/

namespace Sys2Proof.Machine

set_option Elab.async false

/-! ### A request that passes its checks -/

/-- A kind with one length passes where the payload has it (R194). -/
theorem Frame.lengthOk_of_mem {kind tag node : Byte} {p : List Byte} {k : Nat} (hp : p.length = k)
    (hk : (kind, k) ∈ fixedLengths) : Frame.lengthOk ⟨kind, tag, node, p⟩ = true := by
  have hne : ∀ x ∈ fixedLengths, x.1 ≠ 0x11 ∧ x.1 ≠ 0x17 ∧ x.1 ≠ 0x25 := by decide
  obtain ⟨h11, h17, h25⟩ := hne _ hk
  rw [Frame.lengthOk, if_neg h11, if_neg h17, if_neg h25, List.any_eq_true]
  exact ⟨_, hk, by simp [hp]⟩

section
variable {s u : State} {i : Instr} {kind tag : Byte} {n : NodeId} {p : List Byte} {r : Result} {fields : List Byte}

/-- A request for a node is carried out on it and answered (R173, R174). -/
theorem exec_nodeRequest (hi : requestOf i = some (nodeFrame kind tag n p)) (h : s.takes (nodeFrame kind tag n p) = true)
    (hl : Frame.lengthOk ⟨kind, tag, n.toByte, p⟩ = true) (hk : partKinds.contains kind = false := by rfl) :
    exec i s = .next ((carried s.takeFrame n i).settle (nodeFrame kind tag n p)) := by
  have hnode : (nodeFrame kind tag n p).nodeOk = true := by
    rw [Frame.nodeOk, nodeFrame, if_neg (by rw [hk]; exact Bool.false_ne_true), NodeId.ofByte_toByte]; rfl
  have htarget : (nodeFrame kind tag n p).target = n := by rw [Frame.target, nodeFrame, NodeId.ofByte_toByte]; rfl
  rw [exec_eq_run, run_request hi, State.serve_carried h hnode hl, htarget]

/-- The same, where carrying it out answers at once. -/
theorem exec_nodeRequest_answers (hi : requestOf i = some (nodeFrame kind tag n p))
    (h : s.takes (nodeFrame kind tag n p) = true) (hl : Frame.lengthOk ⟨kind, tag, n.toByte, p⟩ = true)
    (hc : carried s.takeFrame n i = u.answers r fields) (hk : partKinds.contains kind = false := by rfl) :
    exec i s = .next (u.reply (nodeFrame kind tag n p) { result := r, fields := fields }) := by
  rw [exec_nodeRequest hi h hl hk, hc, Carried.settle_answers]

/-- A part-wide request is carried out and answered. -/
theorem exec_partRequest (hi : requestOf i = some (partFrame kind tag p)) (h : s.takes (partFrame kind tag p) = true)
    (hl : Frame.lengthOk ⟨kind, tag, 0xFF, p⟩ = true) (hk : partKinds.contains kind = true := by rfl) :
    exec i s = .next ((carried s.takeFrame .n0 i).settle (partFrame kind tag p)) := by
  have hnode : (partFrame kind tag p).nodeOk = true := by rw [Frame.nodeOk, partFrame, if_pos hk]; rfl
  have htarget : (partFrame kind tag p).target = .n0 := rfl
  rw [exec_eq_run, run_request hi, State.serve_carried h hnode hl, htarget]

theorem exec_partRequest_answers (hi : requestOf i = some (partFrame kind tag p)) (h : s.takes (partFrame kind tag p) = true)
    (hl : Frame.lengthOk ⟨kind, tag, 0xFF, p⟩ = true) (hc : carried s.takeFrame .n0 i = u.answers r fields)
    (hk : partKinds.contains kind = true := by rfl) :
    exec i s = .next (u.reply (partFrame kind tag p) { result := r, fields := fields }) := by
  rw [exec_partRequest hi h hl hk, hc, Carried.settle_answers]

/-! ### What an answered request has changed -/

theorem State.replied_of_link (h : u.link = s.takeFrame.link) (f : Frame) (a : Answer) : s.Replied (u.reply f a) f a := by
  rw [State.Replied, State.reply_eq, h]
  rfl

theorem State.OnlyNode.answered (h : s.takeFrame.OnlyNode u n) (f : Frame) (a : Answer) :
    s.OnlyNodeAndLink (u.reply f a) n ∧ s.Replied (u.reply f a) f a := by
  have hlink : u.link = s.takeFrame.link := by rw [h]; rfl
  refine ⟨?_, State.replied_of_link hlink f a⟩
  rw [State.OnlyNodeAndLink, State.reply_nd]
  exact congrArg (fun v : State => { v with link := (u.reply f a).link }) h

/-- `t` is `s` but for node `n` and its settings. -/
def State.OnlyNodeSet (s t : State) (n : NodeId) : Prop := t = (s.mapSet n (fun _ => t.set n)).setNd n (t.nd n)

theorem State.OnlyNodeSet.answered (h : s.takeFrame.OnlyNodeSet u n) (f : Frame) (a : Answer) :
    s.OnlyNodeSetAndLink (u.reply f a) n ∧ s.Replied (u.reply f a) f a := by
  have hlink : u.link = s.takeFrame.link := by rw [h]; rfl
  refine ⟨?_, State.replied_of_link hlink f a⟩
  rw [State.OnlyNodeSetAndLink, State.reply_nd, State.reply_set]
  exact congrArg (fun v : State => { v with link := (u.reply f a).link }) h

theorem State.OnlyNodeSet.replied (h : s.OnlyNodeSet u n) (f : Frame) (a : Answer) :
    s.OnlyNodeSetAndLink (u.takeFrame.reply f a) n ∧ s.Replied (u.takeFrame.reply f a) f a := by
  have hlink : u.link = s.link := by rw [h]; rfl
  refine ⟨?_, State.replied_of_link (congrArg (fun l : Link => { l with complete := l.complete.tail }) hlink) f a⟩
  rw [State.OnlyNodeSetAndLink, State.reply_nd, State.reply_set]
  exact congrArg (fun v : State => { v with link := (u.takeFrame.reply f a).link }) h

end

/-! ### Status (O16) -/

theorem State.length_statusFields (s : State) : s.statusFields.length = 41 := by
  simp [State.statusFields, State.poolCounts, State.nodeSummary, NodeId.all, List.flatMap_cons]

/-- Settles O16: each answer is computed from the state as it stands. -/
theorem statusRequestsChangeNothing : Obligations.StatusRequestsChangeNothing := by
  refine ⟨fun s tag h => ⟨_, exec_partRequest_answers rfl h rfl rfl, rfl, s.length_statusFields, rfl⟩,
    fun s tag n h => ⟨_, exec_nodeRequest_answers rfl h rfl rfl, rfl, ?_⟩,
    fun s tag n h => ⟨_, exec_nodeRequest_answers rfl h rfl rfl, rfl, rfl⟩⟩
  rw [List.append_assoc, List.append_assoc, ← List.append_assoc (leBytes 1 _)]
  rfl

/-! ### Saving (O14) -/

theorem Link.placeSave_eq (f : Frame) (l : Link) : l.placeSave f =
    if l.replies.length < 2 then { l with replies := l.replies ++ [f], discarded := false }
    else { l with saveReply := some f, discarded := false } := rfl

theorem Link.placeSave_replies {l : Link} (h : l.replies.length < 2) (f : Frame) :
    (l.placeSave f).replies = l.replies ++ [f] := by
  rw [Link.placeSave_eq, if_pos h]

/-- START_UP loads a good image (R190). -/
theorem State.startUp_loads {s : State} {x : Settings} (hd : s.restartDefaults = false) (hx : s.store.image.good = some x)
    (b : BitVec 2) : (s.startUp b).cfg = x ∧ (s.startUp b).store.source = .stored := by
  obtain ⟨-, -, hcfg, hstore, -⟩ := s.startUp_frame b
  rw [hcfg, hstore, State.loaded, if_neg (by simp [hd]), hx]
  exact ⟨rfl, rfl⟩

theorem exec_saveWriteEnd {s : State} {j : SaveJob} (h : s.held = false) (hj : s.store.save = some j) :
    exec .saveWriteEnd s = .next { s with
      store := { s.store with image := .written j.snapshot (imageCrc j.snapshot), save := none }
      link := s.link.placeSave (j.reply s.link.discarded) } :=
  congrArg Host.Outcome.next (State.given_eq h hj _)

/-- A save that begins: the snapshot is taken and the image is bad (R187). -/
theorem exec_partSave {s : State} {tag : Byte} (h : s.takes (partFrame 0x02 tag []) = true) (hsave : s.store.save = none) :
    exec (.partSave tag 0xFF []) s = .next { s with
      link := { s.link with complete := s.link.complete.tail }
      store := { s.store with image := .bad, save := some { snapshot := s.cfg, tag := tag, node := 0xFF } } } := by
  have hidle : ¬s.takeFrame.store.save.isSome = true := by
    rw [show s.takeFrame.store.save = s.store.save from rfl, hsave]; exact Bool.false_ne_true
  rw [exec_partRequest rfl h rfl]
  simp only [carried, State.save, if_neg hidle]
  rfl

/-- Settles O14: the write in its two halves, and the part reset and START_UP that follow it. -/
theorem savedSettingsAreLoadedAgain : Obligations.SavedSettingsAreLoadedAgain := by
  refine ⟨fun s j h hj => exec_saveWriteEnd h hj, fun s h => ?_, fun s tag b h => ⟨fun hsave hrange => ?_, fun hsave => ?_,
    fun hsave => ?_⟩⟩
  · refine congrArg Host.Outcome.next ?_
    rw [h, State.given_none]
  · obtain ⟨hheld, -⟩ := State.takes_listening h
    obtain ⟨hroom, -⟩ := State.takes_room h
    refine ⟨_, _, _, _, exec_partSave h hsave, rfl, rfl, rfl, exec_saveWriteEnd hheld rfl, rfl, ?_, rfl, ?_, rfl,
      exec_startUp rfl b, ?_⟩
    · simp [Image.good, hrange]
    · exact Link.placeSave_replies (l := { s.link with complete := s.link.complete.tail }) hroom _
    · have hgood : (Image.written s.cfg (imageCrc s.cfg)).good = some s.cfg := by simp [Image.good, hrange]
      exact State.startUp_loads rfl hgood b
  · exact ⟨_, _, exec_partSave h hsave, rfl, rfl, rfl⟩
  · have hbusy : s.takeFrame.store.save.isSome = true := Option.isSome_iff_ne_none.mpr hsave
    refine ⟨_, exec_partRequest_answers rfl h rfl (if_pos hbusy), rfl, rfl⟩

/-! ### PART_RESTART and the end of a frame (O15) -/

theorem exec_frameSent {s : State} {x : Sending} (hheld : s.held = false) (hx : s.link.sending = some x)
    (he : s.link.lrts = true ∨ x.sent = x.frame.wire.length) : exec .frameSent s = .next (s.frameSent x) := by
  refine congrArg Host.Outcome.next (State.given_eq hheld ?_ _)
  rw [Link.ending, hx, Option.filter_some, if_pos]
  simpa using he

theorem exec_frameSent_none {s : State} (h : s.link.ending = none) : exec .frameSent s = .next s := by
  refine congrArg Host.Outcome.next ?_
  rw [h, State.given_none]

theorem onOffOfCode_zero_one {b : Byte} (h : b = 0 ∨ b = 1) : onOffOfCode b = some (b == 1) := by
  rcases h with rfl | rfl <;> rfl

theorem onOffOfCode_unlisted {b : Byte} (h0 : b ≠ 0) (h1 : b ≠ 1) : onOffOfCode b = none := by
  rw [onOffOfCode, if_neg h0, if_neg h1]

/-- Settles O15: the request by its flag; the end of a frame by what it is and by restart taken. -/
theorem restartFollowsItsReply : Obligations.RestartFollowsItsReply := by
  refine ⟨fun s tag b h => ?_, fun s x d hheld hx he hreply hd => ⟨_, exec_frameSent hheld hx he, fun hr => ?_, fun hr => ?_⟩,
    fun s x hheld hx he hreply hd => ?_, fun s x hheld hx he hreply => ?_, fun s x hx hl hs => ?_, fun s hx => ?_⟩
  · by_cases hb : b = 0 ∨ b = 1
    · have hcarried : carried s.takeFrame .n0 (.partRestart tag 0xFF [b]) =
          (s.takeFrame.mapLink (fun l => { l with restart := some (b == 1) })).answers .ok [] := by
        show s.takeFrame.takeRestart [b] = _
        rw [State.takeRestart, show byteAt [b] 0 = b by simp [byteAt], onOffOfCode_zero_one hb]
      refine ⟨_, exec_partRequest_answers rfl h rfl hcarried, rfl, fun _ => ⟨_, State.replied_of_link rfl _ _, rfl⟩, fun h0 h1 => ?_⟩
      exact absurd hb (not_or.mpr ⟨h0, h1⟩)
    · obtain ⟨h0, h1⟩ := not_or.mp hb
      have hcarried : carried s.takeFrame .n0 (.partRestart tag 0xFF [b]) = s.takeFrame.answers .badParam [] := by
        show s.takeFrame.takeRestart [b] = _
        rw [State.takeRestart, show byteAt [b] 0 = b by simp [byteAt], onOffOfCode_unlisted h0 h1]
      exact ⟨_, exec_partRequest_answers rfl h rfl hcarried, rfl, fun h01 => absurd h01 hb, fun _ _ => rfl⟩
  · rw [State.frameSent, if_pos hreply, State.replySent, hd]
    dsimp only
    rw [if_pos hr]
    exact ⟨State.partReset_inReset _ _ _, rfl, rfl, rfl⟩
  · rw [State.frameSent, if_pos hreply, State.replySent, hd]
    dsimp only
    rw [if_neg (by simp [hr])]
    rfl
  · rw [exec_frameSent hheld hx he, State.frameSent, if_pos hreply, State.replySent, hd]
    cases hsave : s.link.saveReply <;> simp [State.mapLink, Link.placeWaiting, hsave]
  · rw [exec_frameSent hheld hx he, State.frameSent, if_neg (by simp [hreply])]
    rfl
  · exact exec_frameSent_none (Link.ending_paused hl (fun y hy => by simp_all))
  · exact exec_frameSent_none (by rw [Link.ending, hx, Option.filter_none])

/-! ### The bit period (O18) -/

section
variable {s t v old : State} {n : NodeId}

/-- The bit period of a line depends on its autobaud state, its settings and Fref. -/
theorem State.bitPeriod_congr (hline : (t.nd n).line.autobaud = (s.nd n).line.autobaud) (hcfg : t.cfg = s.cfg) :
    t.bitPeriod n = s.bitPeriod n := by
  rw [State.bitPeriod, State.bitPeriod, State.lineRate, State.lineRate, hline, State.set, State.set, hcfg]

theorem State.charCycles_congr (hline : (t.nd n).line.autobaud = (s.nd n).line.autobaud) (hcfg : t.cfg = s.cfg) (k : Nat) :
    t.charCycles n k = s.charCycles n k := by
  rw [State.charCycles, State.charCycles, State.bitPeriod_congr hline hcfg, State.set, State.set, hcfg]

/-- The end of an idle-gap timer that starts now, at the settings in force (R12). -/
def State.gapFrom (s : State) (n : NodeId) : Option Nat :=
  if (s.set n).delivery.gap = 0 then none else (s.charCycles n (s.set n).delivery.gap).map (s.clock.cycles + ·)

theorem State.gapFrom_congr (hline : (t.nd n).line.autobaud = (s.nd n).line.autobaud) (hcfg : t.cfg = s.cfg)
    (hclock : t.clock = s.clock) : t.gapFrom n = s.gapFrom n := by
  rw [State.gapFrom, State.gapFrom, State.charCycles_congr hline hcfg, State.set, State.set, hcfg, hclock]

theorem State.restartIdleGap_eq (s : State) (n : NodeId) :
    s.restartIdleGap n = s.mapLine n (fun l => { l with idleGap := s.gapFrom n }) := rfl

/-- A line whose d has changed restarts its idle-gap timer, and nothing else happens to it. -/
theorem State.recomputedLine_eq (old s : State) (n : NodeId) : old.recomputedLine s n =
    s.mapLine n (fun l => { l with idleGap := if s.bitPeriod n = old.bitPeriod n then l.idleGap else s.gapFrom n }) := by
  unfold State.recomputedLine
  split
  · next h => exact (State.mapLine_eq_self (by simp)).symm
  · next h => exact State.restartIdleGap_eq s n

/-- The lines that are looked at before and after a line leave it alone. -/
theorem State.recomputedLines_nd (old s : State) (n : NodeId) {t : State} (ht : t = NodeId.all.foldl old.recomputedLine s) :
    t = { s with nodes := t.nodes } ∧ t.nd n = { s.nd n with line := { (s.nd n).line with
      idleGap := if s.bitPeriod n = old.bitPeriod n then (s.nd n).line.idleGap else s.gapFrom n } } := by
  have hne {v : State} {a b : NodeId} (h : b ≠ a) : (old.recomputedLine v a).nd b = v.nd b := by
    rw [State.recomputedLine_eq]; exact State.nd_mapLine_ne _ _ h
  have hline (v : State) (a : NodeId) : v.Changes [.line] (old.recomputedLine v a) := (v.recomputedLine_changes a old).1
  have hall : s.Changes [.line] t := by rw [ht]; exact .foldl hline _ _
  refine ⟨hall.eq_nodes, ?_⟩
  obtain ⟨u, hu, hnd, htn⟩ : ∃ u, s.Changes [.line] u ∧ u.nd n = s.nd n ∧ t.nd n = (old.recomputedLine u n).nd n := by
    simp only [NodeId.all, List.foldl_cons, List.foldl_nil] at ht
    rw [ht]
    have hone := hline s .n0
    have htwo := hone.next (hline _ .n1) (rs := [.line])
    have hthree := htwo.next (hline _ .n2) (rs := [.line])
    cases n
    · exact ⟨s, .refl s _, rfl, by rw [hne (by decide), hne (by decide), hne (by decide)]⟩
    · exact ⟨_, hone, hne (by decide), by rw [hne (by decide), hne (by decide)]⟩
    · exact ⟨_, htwo, by rw [hne (by decide), hne (by decide)], by rw [hne (by decide)]⟩
    · exact ⟨_, hthree, by rw [hne (by decide), hne (by decide), hne (by decide)], rfl⟩
  have hauto : (u.nd n).line.autobaud = (s.nd n).line.autobaud := by rw [hnd]
  rw [htn, State.recomputedLine_eq, State.mapLine, State.nd_setNd_same, hnd, State.bitPeriod_congr hauto hu.cfg_eq,
    State.gapFrom_congr hauto hu.cfg_eq (hu.same .clock)]

/-- The quotient of R5 is the whole number nearest to the exact one, an exact half going up. -/
theorem nearestQuotient_bounds (fref : Nat) {b : Nat} (hb : 0 < b) :
    2 * b * nearestQuotient fref b ≤ 2 * (fref * 1000) + b ∧
      2 * (fref * 1000) + b < 2 * b * (nearestQuotient fref b + 1) := by
  unfold nearestQuotient
  exact ⟨Nat.mul_div_le _ _, by rw [mul_add, mul_one]; exact Nat.lt_mul_div_succ _ (by omega)⟩

theorem divisor_le {fref b : Nat} (hf : fref ≤ 50000) (hb : 300 ≤ b) : divisor fref b ≤ 166667 := by
  have hq : nearestQuotient fref b ≤ 166667 := by
    unfold nearestQuotient
    rw [Nat.div_le_iff_le_mul_add_pred (by omega)]
    have : 2 * b * 166667 ≥ 2 * (300 * 166667) := by omega
    omega
  rw [divisor, clamp_eq (by decide)]
  omega

/-- Settles O18: each line looked at once against the d it had. -/
theorem clockSetKeepsTheLines : Obligations.ClockSetKeepsTheLines := by
  refine ⟨fun s tag p h hp => ?_, fun s n w hw => State.bitPeriod_hunting hw, fun s n b hf hr => State.bitPeriod_fixed hf hr,
    fun s n r c hc => State.bitPeriod_locked hc, fun fref b hb => ⟨_, (nearestQuotient_bounds fref hb).1,
      (nearestQuotient_bounds fref hb).2, clamp_eq (by decide) _⟩, fun fref b hf hb => divisor_le hf hb⟩
  intro f
  have hfield : fieldAt p 0 4 = leNat p := hp ▸ fieldAt_zero_length p
  have hclamp : clamp 12000 50000 (leNat p) = f := clamp_eq (by decide) _
  obtain ⟨u, hu⟩ : ∃ u, u = NodeId.all.foldl s.takeFrame.recomputedLine (s.takeFrame.setFref f) := ⟨_, rfl⟩
  have hcarried : carried s.takeFrame .n0 (.clockSet tag 0xFF p) =
      u.answers (if f = leNat p then .ok else .adjusted) (leBytes 4 f ++ NodeId.all.flatMap u.lineFigures) := by
    rw [hu, ← Result.adjustedIf_bne, ← hclamp, ← hfield]
    rfl
  have hframe := (State.recomputedLines_nd _ _ .n0 hu).1
  have hnd (n : NodeId) := (State.recomputedLines_nd _ _ n hu).2
  have hclock : u.clock = s.clock.newFref f := by rw [hframe]; rfl
  have hcfg : u.cfg = { s.cfg with fref := f } := by rw [hframe]; rfl
  have hauto (n : NodeId) : (u.nd n).line.autobaud = ((s.takeFrame.setFref f).nd n).line.autobaud := by rw [hnd]
  have hcfg' : u.cfg = (s.takeFrame.setFref f).cfg := by rw [hframe]
  have hperiod (n : NodeId) : u.bitPeriod n = (s.takeFrame.setFref f).bitPeriod n := State.bitPeriod_congr (hauto n) hcfg'
  have hgap (n : NodeId) : u.gapFrom n = (s.takeFrame.setFref f).gapFrom n :=
    State.gapFrom_congr (hauto n) hcfg' (by rw [hframe])
  refine ⟨_, _, exec_partRequest_answers rfl h (Frame.lengthOk_of_mem hp (by decide)) hcarried, ?_,
    State.replied_of_link (by rw [hframe]; rfl) _ _, ?_, fun hle => ?_, fun hlt => ?_, fun n => ⟨?_, fun hd => ?_, fun hd => ?_⟩⟩
  · rw [hframe]; rfl
  · refine List.flatMap_congr fun n _ => ?_
    have hreplied (a : Answer) : (u.reply (partFrame 0x05 tag p) a).bitPeriod n = u.bitPeriod n := rfl
    rw [hreplied, State.lineFigures, hcfg]
    cases u.bitPeriod n <;> rfl
  · exact hclock.trans (if_pos hle)
  · exact hclock.trans (if_neg (by omega))
  · rw [State.reply_nd, hnd]
    rfl
  · have hsame : (s.takeFrame.setFref f).bitPeriod n = s.takeFrame.bitPeriod n := (hperiod n).symm.trans hd
    rw [State.reply_nd, hnd, if_pos hsame]
    rfl
  · have hdiffers : (s.takeFrame.setFref f).bitPeriod n ≠ s.takeFrame.bitPeriod n := fun he => hd ((hperiod n).trans he)
    rw [State.reply_nd, hnd, if_neg hdiffers]
    exact (hgap n).symm

end

end Sys2Proof.Machine
end


section
/-! PROOFS. The transmitter: what it takes (O26), how it ends (O29), and CON_WRITE (O27). -/

namespace Sys2Proof.Machine

set_option Elab.async false

/-! ### The bits of a byte below a width -/

theorem lowBits_getLsbD (w : Nat) (b : Byte) (i : Nat) : (lowBits w b).getLsbD i = (b.getLsbD i && decide (i < w)) := by
  by_cases hi : i < 8
  · rw [lowBits, BitVec.getLsbD_and, BitVec.getLsbD_ofNat, Nat.testBit_two_pow_sub_one]
    simp [hi]
  · rw [BitVec.getLsbD_of_ge _ _ (by omega), BitVec.getLsbD_of_ge _ _ (by omega)]
    rfl

/-- The ones among the low bits of a byte are those of the byte below the width. -/
theorem countP_lowBits (w : Nat) (b : Byte) : (List.range 8).countP (fun i => (lowBits w b).getLsbD i) =
    (List.range w).countP (fun i => b.getLsbD i) := by
  have hbelow (m k : Nat) (hmk : m ≤ k) (p : Nat → Bool) (hp : ∀ i, m ≤ i → p i = false) :
      (List.range k).countP p = (List.range m).countP p := by
    obtain ⟨j, rfl⟩ := Nat.exists_eq_add_of_le hmk
    rw [List.range_add, List.countP_append, List.countP_map, Nat.add_eq_left, List.countP_eq_zero]
    exact fun i _ => by simp [hp (m + i) (by omega)]
  have hmem (m : Nat) (p q : Nat → Bool) (h : ∀ i, i < m → p i = q i) : (List.range m).countP p = (List.range m).countP q :=
    List.countP_congr fun i hi => by rw [h i (List.mem_range.mp hi)]
  have hlow : (fun i => (lowBits w b).getLsbD i) = fun i => b.getLsbD i && decide (i < w) := funext (lowBits_getLsbD w b)
  rw [hlow, hmem w (fun i => b.getLsbD i) (fun i => b.getLsbD i && decide (i < w)) (fun i hi => by simp [hi])]
  rcases Nat.le_total w 8 with h | h
  · exact hbelow w 8 h _ fun i hi => by simp; omega
  · exact (hbelow 8 w h _ fun i hi => by simp [BitVec.getLsbD_of_ge b i hi]).symm

/-! ### The frame of a byte (R8) -/

theorem flatMap_twice_getElem? {α : Type} (l : List α) (j : Nat) : (l.flatMap (fun x => [x, x]))[j]? = l[j / 2]? := by
  induction l generalizing j with
  | nil => simp
  | cons x l ih =>
    match j with
    | 0 => rfl
    | 1 => rfl
    | j + 2 =>
      have hhalf : (j + 2) / 2 = j / 2 + 1 := by omega
      rw [hhalf, List.getElem?_cons_succ, ← ih]
      rfl

/-- The parity bit of R8 for the low W bits of a byte; without parity no bit stands there. -/
theorem Parity.bit_lowBits (p : Parity) (w : Nat) (b : Byte) :
    let ones := (List.range w).countP (fun k => b.getLsbD k)
    p.bit (lowBits w b) = if p = .none then Option.none else some (match p with
      | .odd => decide (ones % 2 = 0)
      | .even => decide (ones % 2 = 1)
      | .mark => true
      | _ => false) := by
  intro ones
  simp only [Parity.bit, countP_lowBits]
  cases p <;> rfl

/-- The bit a frame carries at place `i`: start bit, data bits, parity bit. -/
theorem LineSettings.frameBits_getElem? (x : LineSettings) (b : Byte) (i : Nat) :
    (x.frameBits b)[i]? = if i = 0 then some false else if i < 1 + x.wordLen then some (b.getLsbD (i - 1))
      else (x.parity.bit (lowBits x.wordLen b)).toList[i - (1 + x.wordLen)]? := by
  unfold LineSettings.frameBits
  match i with
  | 0 => rfl
  | i + 1 =>
    rw [List.cons_append, List.getElem?_cons_succ, List.getElem?_append, if_neg (Nat.succ_ne_zero i), List.length_map,
      List.length_range]
    split
    · next h => rw [if_pos (by omega), List.getElem?_map, List.getElem?_range h]; rfl
    · next h => rw [if_neg (by omega)]; congr 1; omega

/-- The level of a frame's half-bit (R8): start bit 0, data bits, parity bit where parity is used, and stop bits 1. -/
def LineSettings.halfLevel (x : LineSettings) (b : Byte) (j : Nat) : Bool :=
  if j < 2 then false
  else if j < 2 * (1 + x.wordLen) then b.getLsbD (j / 2 - 1)
  else if x.parity ≠ .none ∧ j < 2 * (2 + x.wordLen) then
    let ones := (List.range x.wordLen).countP (fun k => b.getLsbD k)
    (match x.parity with
      | .odd => decide (ones % 2 = 0)
      | .even => decide (ones % 2 = 1)
      | .mark => true
      | _ => false)
  else true

theorem LineSettings.frameHalves_getElem? (x : LineSettings) (b : Byte) {j : Nat} {v : Bool}
    (h : (x.frameHalves b)[j]? = some v) : v = x.halfLevel b j := by
  have hbits : (x.frameBits b).length = 1 + x.wordLen + (if x.parity = .none then 0 else 1) := by
    simp only [LineSettings.frameBits, List.length_cons, List.length_append, List.length_map, List.length_range,
      Parity.bit_length]
    omega
  have htwice : ((x.frameBits b).flatMap (fun x => [x, x])).length = 2 * (x.frameBits b).length := by
    simp [List.length_flatMap, mul_comm]
  rw [LineSettings.frameHalves, List.getElem?_append, htwice, hbits] at h
  unfold LineSettings.halfLevel
  by_cases hj : j < 2 * (1 + x.wordLen + (if x.parity = .none then 0 else 1))
  · rw [if_pos hj] at h
    rw [flatMap_twice_getElem?, LineSettings.frameBits_getElem?] at h
    split at h
    · next h0 => rw [if_pos (by omega)]; exact (Option.some.inj h).symm
    · next h0 =>
      rw [if_neg (by omega)]
      split at h
      · next hw => rw [if_pos (by omega)]; exact (Option.some.inj h).symm
      · next hw =>
        rw [if_neg (by omega)]
        have hpar : x.parity ≠ .none := fun hp => by rw [if_pos hp] at hj; omega
        rw [if_neg hpar] at hj
        have hlast : j / 2 - (1 + x.wordLen) = 0 := by omega
        rw [hlast, Parity.bit_lowBits, if_neg hpar] at h
        rw [if_pos ⟨hpar, by omega⟩]
        exact (Option.some.inj h).symm
  · rw [if_neg hj] at h
    have hstop : v = true := List.eq_of_mem_replicate (List.mem_of_getElem? h)
    rw [if_neg (by omega), if_neg (by omega), if_neg, hstop]
    rintro ⟨hpar, hlt⟩
    rw [if_neg hpar] at hj
    omega

/-- Between the ends of two half-bits the frame has the level of the later one. -/
theorem TxFrame.level_of_halves {f : TxFrame} {j c : Nat} {v : Bool} (hd : 0 < f.period) (h : f.halves[j]? = some v)
    (hlo : f.start + (j * f.period + 1) / 2 ≤ c) (hhi : c < f.start + ((j + 1) * f.period + 1) / 2) : f.level c = v := by
  have hindex : 2 * (c - f.start) / f.period = j := by
    rw [Nat.div_eq_iff hd]
    have : (j + 1) * f.period = j * f.period + f.period := by ring
    omega
  rw [TxFrame.level, hindex, h]
  rfl

/-! ### What the transmitter takes (O26) -/

section
variable {s t : State} {n : NodeId}

theorem State.bitPeriod_pos {d : Nat} (h : s.bitPeriod n = some d) : 0 < d := by
  obtain ⟨r, -, rfl⟩ := Option.map_eq_some_iff.mp h
  exact Nat.lt_of_lt_of_le (by decide) (divisor_bounds _ r).1

theorem Line.roomCheck_fields (low : Nat) (l : Line) : l.roomCheck low = { l with
    roomWanted := decide (l.roomWanted = true ∧ ¬(l.roomWanted = true ∧ l.queue.length ≤ low))
    roomPending := l.roomPending || decide (l.roomWanted = true ∧ l.queue.length ≤ low) } := by
  rw [Line.roomCheck_eq]
  by_cases hlow : l.queue.length ≤ low <;> cases l.roomWanted <;> simp [hlow]

theorem LineSettings.halfBits_eq (x : LineSettings) : x.halfBits =
    2 * (1 + x.wordLen + (if x.parity = .none then 0 else 1)) + (if x.stop = .one then 2 else if x.wordLen = 5 then 3 else 4) := by
  rw [LineSettings.halfBits, LineSettings.stopHalves]
  cases x.stop <;> rfl

/-- Settles O26: a byte or a break, each with the judgement of the room after it. -/
theorem transmitterTakesTheHead : Obligations.TransmitterTakesTheHead := by
  refine ⟨fun s n h => State.takeItem_none h, fun s n d i q htx hcut hd hq => ⟨_, rfl, (State.takeItem_onlyTransmitter s n).onlyNode, ?_⟩⟩
  cases i with
  | byte b =>
    have htaken : s.takeItem n = s.setNd n { s.nd n with
        line := Line.roomCheck (s.set n).line.roomLow { (s.nd n).line with tx := .byte (s.frameFor n d b), queue := q } } := by
      rw [State.takeItem_byte htx hcut hd hq]
      simp [State.roomCheck, State.mapLine]
    have hline : ((s.takeItem n).nd n).line.tx = .byte (s.frameFor n d b) := by
      rw [htaken, State.nd_setNd_same, Line.roomCheck_fields]
    refine ⟨?_, fun c hc => ⟨by rw [htaken, State.nd_setNd_same], s.frameFor n d b, hline, ?_, ?_, fun j v hj => ⟨?_, ?_⟩⟩, nofun⟩
    · rw [htaken, State.nd_setNd_same, Line.roomCheck_fields]
    · rw [TxFrame.ends, ← LineSettings.halfBits_eq]
      simp only [State.frameFor, LineSettings.frameHalves_length, characterCycles, one_mul]
    · rw [← LineSettings.halfBits_eq]
      exact LineSettings.frameHalves_length _ _
    · cases hc
      exact LineSettings.frameHalves_getElem? _ _ hj
    · intro c hlo hhi
      rw [hline, Transmitter.pin, TxFrame.level_of_halves (State.bitPeriod_pos hd) hj hlo hhi]
  | brk ms =>
    have htaken : s.takeItem n = s.setNd n { s.nd n with
        line := Line.roomCheck (s.set n).line.roomLow { (s.nd n).line with tx := .brk (s.clock.ticks + ms), queue := q }
        hist := (s.nd n).hist.record (s.set n).delivery.mask (s.nd n).power.boot .breakTx 0 } := by
      rw [State.takeItem_break htx hcut hd hq]
      simp [State.roomCheck, State.mapLine, State.record_eq]
    have hline : ((s.takeItem n).nd n).line.tx = .brk (s.clock.ticks + ms) := by
      rw [htaken, State.nd_setNd_same, Line.roomCheck_fields]
    refine ⟨?_, nofun, fun k hk => ?_⟩
    · rw [htaken, State.nd_setNd_same, Line.roomCheck_fields]
    · cases hk
      refine ⟨hline, ?_, by rw [htaken, State.nd_setNd_same]⟩
      rw [State.ctx, hline]
      rfl

/-! ### How it ends (O29) -/

theorem State.txFree_eq (s : State) (n : NodeId) :
    s.txFree n = (s.setNd n { s.nd n with line := { (s.nd n).line with tx := .idle } }).takeItem n := rfl

/-- The transmitter is free at the time that has come: it takes the next item where it can (R21, R23). -/
theorem State.txFree_says (s : State) (c : Clock) (n : NodeId) :
    let t := ({ s with clock := c } : State).txFree n
    t.clock = c ∧ s.OnlyNodeAndClock t n ∧
      t = ({ s.setNd n { s.nd n with line := { (s.nd n).line with tx := .idle } } with clock := t.clock } :
        State).takeItem n ∧
      (s.condition n ≠ .cut → s.bitPeriod n ≠ none → (s.nd n).line.queue ≠ [] →
        (t.nd n).line.queue = (s.nd n).line.queue.tail ∧ (t.nd n).line.tx ≠ .idle) ∧
      (s.condition n = .cut ∨ s.bitPeriod n = none ∨ (s.nd n).line.queue = [] →
        t.nd n = { s.nd n with line := { (s.nd n).line with tx := .idle } }) := by
  intro t
  obtain ⟨v, hv⟩ : ∃ v : State, v = { s.setNd n { s.nd n with line := { (s.nd n).line with tx := .idle } } with clock := c } :=
    ⟨_, rfl⟩
  have htv : t = v.takeItem n := by rw [hv]; rfl
  have hvnd : v.nd n = { s.nd n with line := { (s.nd n).line with tx := .idle } } := by rw [hv]; exact State.nd_setNd_same _ _ _
  have hvperiod : v.bitPeriod n = s.bitPeriod n := State.bitPeriod_congr (by rw [hvnd]) (by rw [hv]; rfl)
  have hvcond : v.condition n = s.condition n := by rw [State.condition, hvnd]; rfl
  have hclock : t.clock = c := by
    have hkept : (v.takeItem n).clock = v.clock := (v.takeItem_changes n).1.same .clock
    rw [htv, hkept, hv]
  have honly : v.OnlyNode t n := htv ▸ (State.takeItem_onlyTransmitter v n).onlyNode
  refine ⟨hclock, ?_, by rw [hclock, ← hv]; exact htv, fun hcut hperiod hqueue => ?_, fun hstays => ?_⟩
  · have hframe : v.setNd n (t.nd n) = { s.setNd n (t.nd n) with clock := c } := by
      rw [hv]; simp [State.setNd]
    exact Eq.trans honly (hframe.trans (by rw [hclock]))
  · rw [htv]
    have htakes := State.takeItem_takes (s := v) (n := n) (by rw [hvnd]) (by rw [hvcond]; exact hcut)
      (by rw [hvperiod]; exact hperiod) (by rw [hvnd]; exact hqueue)
    rwa [hvnd] at htakes
  · rw [htv, State.takeItem_none (s := v) (n := n), hvnd]
    rw [hvcond, hvperiod, hvnd]
    exact .inr hstays

/-- Settles O29: each end at the moment its timer names. -/
theorem transmitterEndsWhatItSends : Obligations.TransmitterEndsWhatItSends := by
  refine ⟨fun s n f hheld htx => ?_, fun s n e hheld htx => ?_, fun s n e hheld htx => ?_, fun s n h => ?_, fun s n h => ?_,
    fun s n h => ?_⟩
  · have hends : (s.nd n).line.tx.byteEnds = some f.ends := by rw [htx]; rfl
    obtain ⟨hclock, hsays⟩ := s.txFree_says (s.clock.toCycle s.cfg.fref f.ends) n
    refine ⟨_, congrArg Host.Outcome.next (State.given_eq hheld hends _), ?_, hsays⟩
    exact (congrArg Clock.cycles hclock).trans
      (by rw [Clock.toCycle_cycles, TxFrame.ends, characterCycles, one_mul])
  · have hends : (s.nd n).line.tx.gapEnds = some e := by rw [htx]; rfl
    obtain ⟨hclock, hsays⟩ := s.txFree_says (s.clock.toCycle s.cfg.fref e) n
    exact ⟨_, congrArg Host.Outcome.next (State.given_eq hheld hends _), (congrArg Clock.cycles hclock).trans
      (Clock.toCycle_cycles _ _ _), hsays⟩
  · have hends : (s.nd n).line.tx.breakEnds = some e := by rw [htx]; rfl
    exact ⟨_, congrArg Host.Outcome.next (State.given_eq hheld hends _), Clock.toTick_ticks _ _ _,
      s.setNd_toTick_onlyNodeAndClock e n _, State.nd_setNd_same _ _ _⟩
  all_goals refine congrArg Host.Outcome.next (State.given_of_none ?_ _)
  · cases htx : (s.nd n).line.tx with
    | byte f => exact absurd htx (h f)
    | _ => rfl
  · cases htx : (s.nd n).line.tx with
    | gap e =>
      cases e with
      | none => rfl
      | some e => exact absurd htx (h e)
    | _ => rfl
  · cases htx : (s.nd n).line.tx with
    | brk e => exact absurd htx (h e)
    | _ => rfl

/-! ### CON_WRITE (O27) -/

/-- A line to whose queue `items` have been added, of which some may have been refused, with the room judged (R19, R23). -/
def Line.appended (items : List TxItem) (refused : Bool) (high low : Nat) (l : Line) : Line :=
  let q := l.queue ++ items
  let sets := refused ∨ 256 ≤ q.length + high
  { l with
    queue := q
    roomWanted := if sets then !decide (q.length ≤ low) else l.roomWanted
    roomPending := l.roomPending || decide (sets ∧ q.length ≤ low) }

theorem State.wantRoom_appendItems (s : State) (n : NodeId) (items : List TxItem) (refused : Bool) :
    (s.appendItems n items).wantRoom n refused = s.setNd n { s.nd n with
      line := (s.nd n).line.appended items refused (s.set n).line.roomHigh (s.set n).line.roomLow } := by
  simp [State.wantRoom_eq, State.appendItems, State.mapLine, Line.wantRoom_fields, Line.appended]

/-- An append changes nothing that taking an item asks for but the queue. -/
theorem State.appended_asks (s : State) (n : NodeId) (items : List TxItem) (refused : Bool) (high low : Nat) :
    let w := s.setNd n { s.nd n with line := (s.nd n).line.appended items refused high low }
    s.OnlyTransmitter w n ∧ w.condition n = s.condition n ∧ w.bitPeriod n = s.bitPeriod n := by
  intro w
  have hnd : w.nd n = { s.nd n with line := (s.nd n).line.appended items refused high low } := State.nd_setNd_same _ _ _
  refine ⟨⟨_, _, _, _, _, rfl⟩, ?_, State.bitPeriod_congr (by rw [hnd]; rfl) rfl⟩
  rw [State.condition, hnd]
  rfl

theorem exec_conWrite {tag : Byte} {p : List Byte} (h : s.takes (nodeFrame 0x11 tag n p) = true) (h1 : 1 ≤ p.length)
    (h512 : p.length ≤ 512) :
    let k := min p.length (256 - (s.nd n).line.queue.length)
    let w := s.setNd n { s.nd n with
      line := (s.nd n).line.appended ((p.take k).map TxItem.byte) (decide (k < p.length)) (s.set n).line.roomHigh
        (s.set n).line.roomLow }
    exec (.conWrite tag n.toByte p) s = .next ((w.takeItem n).takeFrame.reply (nodeFrame 0x11 tag n p)
      { result := .ok, fields := leBytes 2 k ++ leBytes 2 (256 - ((w.takeItem n).nd n).line.queue.length) }) := by
  intro k w
  have hl : Frame.lengthOk ⟨0x11, tag, n.toByte, p⟩ = true := by simp [Frame.lengthOk, h1, h512]
  have htaken : ((s.takeFrame.appendItems n ((p.take k).map .byte)).wantRoom n (decide (k < p.length))).takeItem n =
      (w.takeItem n).takeFrame := by
    rw [State.wantRoom_appendItems, ← State.takeItem_takeFrame]
    rfl
  refine exec_nodeRequest_answers (u := (w.takeItem n).takeFrame) rfl h hl ?_
  rw [← htaken]
  have hroom : 256 - ((w.takeItem n).nd n).line.queue.length = (w.takeItem n).takeFrame.txRoom n := rfl
  rw [hroom, ← htaken]
  rfl

/-- Settles O27: the append in closed form, and the take that may follow it. -/
theorem conWriteAppendsWhatFits : Obligations.ConWriteAppendsWhatFits := by
  intro s tag n p h h1 h512 l k q sets low appended
  obtain ⟨hw, hcond, hperiod⟩ := s.appended_asks n ((p.take k).map TxItem.byte) (decide (k < p.length))
    (s.set n).line.roomHigh (s.set n).line.roomLow
  obtain ⟨w, hwd⟩ : ∃ w, w = s.setNd n { s.nd n with line := appended } := ⟨_, rfl⟩
  have happended : l.appended ((p.take k).map TxItem.byte) (decide (k < p.length)) (s.set n).line.roomHigh
      (s.set n).line.roomLow = appended := by
    simp only [Line.appended, decide_eq_true_eq]
    rfl
  rw [happended, ← hwd] at hw hcond hperiod
  have hexec : exec (.conWrite tag n.toByte p) s = .next ((w.takeItem n).takeFrame.reply (nodeFrame 0x11 tag n p)
      { result := .ok, fields := leBytes 2 k ++ leBytes 2 (256 - ((w.takeItem n).nd n).line.queue.length) }) := by
    rw [hwd, ← happended]
    exact exec_conWrite h h1 h512
  have honly := hw.trans (State.takeItem_onlyTransmitter w n)
  have hnd : w.nd n = { s.nd n with line := appended } := by rw [hwd, State.nd_setNd_same]
  obtain ⟨hframe, hreplied⟩ := honly.onlyNode.replied (nodeFrame 0x11 tag n p)
    { result := .ok, fields := leBytes 2 k ++ leBytes 2 (256 - ((w.takeItem n).nd n).line.queue.length) }
  obtain ⟨hnode, hline⟩ := honly.frame
  refine ⟨_, hexec, hframe, hreplied, ?_⟩
  simp only [State.reply_nd, State.takeFrame_nd]
  refine ⟨hnode, fun hstays => ?_, fun hidle hcut hd hq => ?_, hline⟩
  · rw [State.takeItem_none (s := w) (n := n) (by rw [hcond, hperiod, hnd]; tauto), hnd]
    exact ⟨rfl, rfl⟩
  · have htakes := State.takeItem_takes (s := w) (n := n) (by rw [hnd]; exact hidle) (by rw [hcond]; exact hcut)
      (by rw [hperiod]; exact hd) (by rw [hnd]; exact hq)
    rw [hnd] at htakes
    exact ⟨by rw [hwd], htakes⟩

end

end Sys2Proof.Machine
end


section
/-! PROOFS. CON_LINE_SET (O25). -/

namespace Sys2Proof.Machine

set_option Elab.async false

/-! ### Fields of one byte -/

theorem fieldAt_one (p : List Byte) (i : Nat) : fieldAt p i 1 = (byteAt p i).toNat := by
  unfold fieldAt byteAt
  cases p.drop i <;> simp [leNat]

theorem within_eq_true_iff (lo hi v : Nat) : within lo hi v = true ↔ lo ≤ v ∧ v ≤ hi := by
  simp [within]

theorem Parity.ofCode_eq_some {b : Byte} {x : Parity} (h : Parity.ofCode b = some x) : x.code = b := by
  unfold Parity.ofCode at h
  split at h <;> [skip; split at h <;> [skip; split at h <;> [skip; split at h <;> [skip; split at h]]]] <;>
    simp_all <;> subst h <;> rfl

theorem Parity.ofCode_isSome_iff (b : Byte) : (Parity.ofCode b).isSome = true ↔ b.toNat ≤ 4 := by
  revert b; decide

theorem StopBits.ofCode_isSome_iff (b : Byte) : (StopBits.ofCode b).isSome = true ↔ b.toNat ≤ 1 := by
  revert b; decide

theorem StopBits.ofCode_eq_some {b : Byte} {x : StopBits} (h : StopBits.ofCode b = some x) :
    x = if b.toNat = 0 then .one else .long := by
  unfold StopBits.ofCode at h
  split at h
  · next hb => subst hb; cases h; rfl
  · split at h
    · next hb => subst hb; cases h; rfl
    · cases h

/-! ### The payload (R3) -/

/-- The settings of a payload whose codes and values are listed. -/
theorem LineSettings.ofPayload_eq_some_iff (p : List Byte) (x : LineSettings) : LineSettings.ofPayload p = some x ↔
    ∃ pa st, Parity.ofCode (byteAt p 5) = some pa ∧ StopBits.ofCode (byteAt p 6) = some st ∧
      (fieldAt p 0 4 = 0 ∨ within 300 3000000 (fieldAt p 0 4) = true) ∧ within 5 8 (fieldAt p 4 1) = true ∧
      x = { rate := LineRate.ofField (fieldAt p 0 4), wordLen := fieldAt p 4 1, parity := pa, stop := st,
            rearm := optionBit (byteAt p 7) 0, roomHigh := clamp 1 128 (fieldAt p 8 1), roomLow := fieldAt p 9 1 } := by
  unfold LineSettings.ofPayload
  split
  · next pa st hpa hst =>
    constructor
    · intro h
      split at h
      · next hok => exact ⟨pa, st, hpa, hst, hok.1, hok.2, (Option.some.inj h).symm⟩
      · cases h
    · rintro ⟨pa', st', hpa', hst', hrate, hw, rfl⟩
      cases hpa.symm.trans hpa'
      cases hst.symm.trans hst'
      rw [if_pos ⟨hrate, hw⟩]
  · next hnone =>
    refine ⟨nofun, ?_⟩
    rintro ⟨pa, st, hpa, hst, -⟩
    exact absurd hst (hnone pa st hpa)

theorem LineSettings.ofPayload_isSome_iff (p : List Byte) : (LineSettings.ofPayload p).isSome = true ↔
    (fieldAt p 0 4 = 0 ∨ (300 ≤ fieldAt p 0 4 ∧ fieldAt p 0 4 ≤ 3000000)) ∧ 5 ≤ fieldAt p 4 1 ∧ fieldAt p 4 1 ≤ 8 ∧
      fieldAt p 5 1 ≤ 4 ∧ fieldAt p 6 1 ≤ 1 := by
  rw [fieldAt_one p 5, fieldAt_one p 6, ← Parity.ofCode_isSome_iff, ← StopBits.ofCode_isSome_iff, Option.isSome_iff_exists,
    ← within_eq_true_iff 300, ← and_assoc (a := 5 ≤ _), ← within_eq_true_iff 5]
  simp only [LineSettings.ofPayload_eq_some_iff]
  constructor
  · rintro ⟨x, pa, st, hpa, hst, hrate, hw, -⟩
    exact ⟨hrate, hw, by simp [hpa], by simp [hst]⟩
  · rintro ⟨hrate, hw, hpa, hst⟩
    obtain ⟨pa, hpa⟩ := Option.isSome_iff_exists.mp hpa
    obtain ⟨st, hst⟩ := Option.isSome_iff_exists.mp hst
    exact ⟨_, pa, st, hpa, hst, hrate, hw, rfl⟩

/-! ### Taking up the settings (R3, R4) -/

section
variable {s : State} {n : NodeId} {x : LineSettings}

/-- The new settings are in force: the autobaud state, the receiver and the match progress follow them. -/
def State.lineSet (s : State) (n : NodeId) (x : LineSettings) : State :=
  (s.mapSet n (fun y => { y with line := x })).setNd n { s.nd n with
    line := { (s.nd n).line with autobaud := if x.rate = .auto then .hunting none else .fixed, rx := .idle }
    watch := (s.nd n).watch.map (fun y => { y with progress := 0 }) }

/-- The same, with the idle-gap timer restarted: what stands before the transmitter looks at the line. -/
def State.lineTaken (s : State) (n : NodeId) (x : LineSettings) : State := (s.lineSet n x).restartIdleGap n

theorem State.applyLine_eq (s : State) (n : NodeId) (x : LineSettings) :
    s.applyLine n x = ((s.lineTaken n x).startWaitingGap n).takeItem n := by
  have hset (a : Autobaud) : ((s.mapSet n (fun y => { y with line := x })).mapLine n
      (fun l => { l with autobaud := a, rx := .idle })).clearProgress n =
      (s.mapSet n (fun y => { y with line := x })).setNd n { s.nd n with
        line := { (s.nd n).line with autobaud := a, rx := .idle }
        watch := (s.nd n).watch.map (fun y => { y with progress := 0 }) } := by
    unfold State.clearProgress State.mapWatch State.mapLine
    rw [State.setNd_setNd, State.nd_setNd_same]
    rfl
  unfold State.applyLine State.lineTaken State.lineSet
  dsimp only
  rw [hset]
  generalize x.rate = r
  cases r <;> rfl

theorem State.nd_lineTaken (s : State) (n : NodeId) (x : LineSettings) : (s.lineTaken n x).nd n = { s.nd n with
    line := { (s.nd n).line with
      autobaud := if x.rate = .auto then .hunting none else .fixed
      rx := .idle
      idleGap := (s.lineTaken n x).gapFrom n }
    watch := (s.nd n).watch.map (fun y => { y with progress := 0 }) } := by
  have hset : (s.lineSet n x).nd n = { s.nd n with
      line := { (s.nd n).line with autobaud := if x.rate = .auto then .hunting none else .fixed, rx := .idle }
      watch := (s.nd n).watch.map (fun y => { y with progress := 0 }) } := State.nd_setNd_same _ _ _
  have htaken : (s.lineTaken n x).nd n = { (s.lineSet n x).nd n with
      line := { ((s.lineSet n x).nd n).line with idleGap := (s.lineSet n x).gapFrom n } } := State.nd_setNd_same _ _ _
  have hgap : (s.lineTaken n x).gapFrom n = (s.lineSet n x).gapFrom n :=
    State.gapFrom_congr (by rw [htaken]) rfl rfl
  rw [hgap, htaken, hset]

theorem State.lineTaken_set (s : State) (n : NodeId) (x : LineSettings) :
    (s.lineTaken n x).set n = { s.set n with line := x } := s.set_mapSet_same n (fun y => { y with line := x })

/-- With the new settings the line has a bit period exactly where its rate is a number (R5). -/
theorem State.bitPeriod_lineTaken (s : State) (n : NodeId) (x : LineSettings) : (s.lineTaken n x).bitPeriod n =
    match x.rate with
    | .auto => none
    | .baud b => some (divisor s.cfg.fref b) := by
  cases hr : x.rate with
  | auto => exact State.bitPeriod_hunting (w := none) (by rw [State.nd_lineTaken, hr]; rfl)
  | baud b => exact State.bitPeriod_fixed (by rw [State.nd_lineTaken, hr]; rfl) (by rw [State.lineTaken_set, hr])

theorem State.applyLine_onlyTransmitter (s : State) (n : NodeId) (x : LineSettings) :
    (s.lineTaken n x).OnlyTransmitter (s.applyLine n x) n := by
  rw [State.applyLine_eq]
  exact (State.startWaitingGap_onlyTransmitter _ n).trans (State.takeItem_onlyTransmitter _ n)

theorem State.startWaitingGap_eq (s : State) (n : NodeId) (h : (s.nd n).line.tx = .gap none) :
    s.startWaitingGap n = s.mapLine n (fun l => { l with tx := .gap ((s.charCycles n 1).map (s.clock.cycles + ·)) }) :=
  if_pos h

/-- A transmitter that was sending goes on; an idle character time that waited starts where the line has a bit period. -/
theorem State.applyLine_sending (h : (s.nd n).line.tx ≠ .idle) :
    let t := s.applyLine n x
    (t.nd n).line.queue = (s.nd n).line.queue ∧ (t.nd n).hist = (s.nd n).hist ∧
      (t.nd n).line.roomWanted = (s.nd n).line.roomWanted ∧ (t.nd n).line.roomPending = (s.nd n).line.roomPending ∧
      ((s.nd n).line.tx ≠ .gap none → (t.nd n).line.tx = (s.nd n).line.tx) ∧
      ((s.nd n).line.tx = .gap none → (t.nd n).line.tx = .gap ((t.charCycles n 1).map (s.clock.cycles + ·))) := by
  intro t
  have hchar : t.charCycles n 1 = (s.lineTaken n x).charCycles n 1 := by
    obtain ⟨tx, queue, wanted, pending, hist, ht⟩ := s.applyLine_onlyTransmitter n x
    exact State.charCycles_congr (s.applyLine_onlyTransmitter n x).autobaud ((congrArg State.cfg ht).trans rfl) 1
  have hnd := s.nd_lineTaken n x
  by_cases hgap : (s.nd n).line.tx = .gap none
  · have hwaits : ((s.lineTaken n x).nd n).line.tx = .gap none := by rw [hnd]; exact hgap
    have hline : ((s.lineTaken n x).startWaitingGap n).nd n = { (s.lineTaken n x).nd n with
        line := { ((s.lineTaken n x).nd n).line with
          tx := .gap (((s.lineTaken n x).charCycles n 1).map (s.clock.cycles + ·)) } } := by
      rw [State.startWaitingGap_eq _ n hwaits]; exact State.nd_setNd_same _ _ _
    have ht : t.nd n = ((s.lineTaken n x).startWaitingGap n).nd n := by
      rw [show t = _ from s.applyLine_eq n x, State.takeItem_none (.inl (by rw [hline]; exact nofun))]
    rw [hchar, ht, hline, hnd]
    exact ⟨rfl, rfl, rfl, rfl, fun hne => absurd hgap hne, fun _ => rfl⟩
  · have ht : t.nd n = (s.lineTaken n x).nd n := by
      rw [show t = _ from s.applyLine_eq n x, State.startWaitingGap_none (by rw [hnd]; exact hgap),
        State.takeItem_none (.inl (by rw [hnd]; exact h))]
    rw [ht, hnd]
    exact ⟨rfl, rfl, rfl, rfl, fun _ => rfl, fun he => absurd he hgap⟩

/-- An idle transmitter looks at the line once the settings are in force. -/
theorem State.applyLine_idle (h : (s.nd n).line.tx = .idle) : s.applyLine n x = (s.lineTaken n x).takeItem n := by
  rw [State.applyLine_eq, State.startWaitingGap_none]
  rw [State.nd_lineTaken, h]
  exact nofun

theorem State.startWaitingGap_takeFrame (s : State) (n : NodeId) :
    s.takeFrame.startWaitingGap n = (s.startWaitingGap n).takeFrame := by
  unfold State.startWaitingGap
  rw [State.takeFrame_nd]
  split <;> rfl

/-- Taking up settings does not read the link. -/
theorem State.applyLine_takeFrame (s : State) (n : NodeId) (x : LineSettings) :
    s.takeFrame.applyLine n x = (s.applyLine n x).takeFrame := by
  have htaken : s.takeFrame.lineTaken n x = (s.lineTaken n x).takeFrame := rfl
  rw [State.applyLine_eq, State.applyLine_eq, htaken, State.startWaitingGap_takeFrame, State.takeItem_takeFrame]

theorem State.mapSet_congr {f g : NodeSettings → NodeSettings} (h : f (s.set n) = g (s.set n)) : s.mapSet n f = s.mapSet n g := by
  simp only [State.mapSet, h]

/-- What the settings leave outside the node and its settings, and in the node. -/
theorem State.applyLine_frame (s : State) (n : NodeId) (x : LineSettings) :
    let t := s.applyLine n x
    s.OnlyNodeSet t n ∧ t.set n = { s.set n with line := x } ∧ t.link = s.link ∧ t.clock = s.clock ∧
      (t.nd n).line.autobaud = (if x.rate = .auto then .hunting none else .fixed) ∧ (t.nd n).line.rx = .idle ∧
      (t.nd n).line.idleGap = (s.lineTaken n x).gapFrom n ∧ (∀ k, t.charCycles n k = (s.lineTaken n x).charCycles n k) ∧
      t.nd n = { s.nd n with
        line := (t.nd n).line
        hist := (t.nd n).hist
        watch := (s.nd n).watch.map (fun y => { y with progress := 0 }) } := by
  intro t
  have honly := s.applyLine_onlyTransmitter n x
  obtain ⟨hnode, hline⟩ := honly.frame
  obtain ⟨tx, queue, wanted, pending, hist, ht⟩ := honly
  have htnd : t = (s.lineTaken n x).setNd n (t.nd n) := by
    rw [show t.nd n = _ from (congrArg (State.nd · n) ht).trans (State.nd_setNd_same _ _ _)]
    exact ht
  have hset : t.set n = { s.set n with line := x } := by
    rw [show t = _ from ht]
    exact s.lineTaken_set n x
  have hnd := s.nd_lineTaken n x
  have htaken (y : Node) : (s.lineTaken n x).setNd n y = (s.mapSet n (fun y => { y with line := x })).setNd n y := by
    simp [State.lineTaken, State.restartIdleGap, State.mapLine, State.lineSet]
  refine ⟨?_, hset, ?_, ?_, ?_, ?_, ?_, fun k => ?_, ?_⟩
  · refine htnd.trans ((htaken _).trans ?_)
    rw [State.mapSet_congr (g := fun _ => t.set n) hset.symm]
  · rw [show t = _ from ht]; rfl
  · rw [show t = _ from ht]; rfl
  · rw [show (t.nd n).line = _ from hline, hnd]
  · rw [show (t.nd n).line = _ from hline, hnd]
  · rw [show (t.nd n).line = _ from hline, hnd]
  · exact State.charCycles_congr (State.OnlyTransmitter.autobaud ⟨tx, queue, wanted, pending, hist, ht⟩)
      ((congrArg State.cfg ht).trans rfl) k
  · rw [show t.nd n = _ from hnode, hnd]

theorem LineSettings.figures_auto (hr : x.rate = .auto) (fref : Nat) (m : Bool) :
    x.figures fref (if x.rate = .auto then .hunting none else .fixed) m =
      (m, flagByte false false m :: 1 :: leBytes 4 0 ++ leBytes 4 0 ++ leBytes 4 0) := by
  rw [if_pos hr, LineSettings.figures, hr]
  rfl

theorem LineSettings.figures_baud {b : Nat} (hr : x.rate = .baud b) (fref : Nat) (m : Bool) :
    let d := divisor fref b
    let e := ratePpm fref b d
    let poor := decide (25000 < e.natAbs)
    let c := decide (d ≠ nearestQuotient fref b)
    x.figures fref (if x.rate = .auto then .hunting none else .fixed) m =
      (poor || c || m, flagByte poor c m :: 0 :: leBytes 4 d ++ leBytes 4 (nearestQuotient fref d)
        ++ leBytes 4 (BitVec.ofInt 32 e).toNat) := by
  intro d e poor c
  have hclamped : divisorClamped fref b = c := by
    rw [Bool.eq_iff_iff]; simp [divisorClamped, c, d]
  rw [if_neg (by rw [hr]; exact nofun), LineSettings.figures, hr]
  dsimp only
  rw [hclamped]
  rfl

/-- The reply of a CON_LINE_SET that is carried out. -/
theorem exec_conLineSet {tag : Byte} {p : List Byte} (h : s.takes (nodeFrame 0x10 tag n p) = true) (hp : p.length = 10)
    (hx : LineSettings.ofPayload p = some x) :
    let r := x.figures s.cfg.fref ((s.applyLine n x).nd n).line.autobaud (decide (x.roomHigh ≠ fieldAt p 8 1))
    exec (.conLineSet tag n.toByte p) s = .next ((s.applyLine n x).takeFrame.reply (nodeFrame 0x10 tag n p)
      { result := if r.1 then .adjusted else .ok, fields := r.2 ++ leBytes 1 x.roomHigh ++ leBytes 1 x.roomLow }) := by
  intro r
  have hl := Frame.lengthOk_of_mem (tag := tag) (node := n.toByte) hp (show (0x10, 10) ∈ fixedLengths by decide)
  refine exec_nodeRequest_answers rfl h hl ?_
  show s.takeFrame.setLine n p = _
  have hbne : (x.roomHigh != fieldAt p 8 1) = decide (x.roomHigh ≠ fieldAt p 8 1) := by
    rw [Bool.eq_iff_iff]; simp
  rw [State.setLine, hx]
  dsimp only
  rw [State.applyLine_takeFrame, hbne]
  rfl

/-- Settles O25: the payload by its checks; the settings, and then the transmitter by what it was doing. -/
theorem conLineSetReplacesTheLine : Obligations.ConLineSetReplacesTheLine := by
  refine ⟨LineSettings.ofPayload_isSome_iff, fun p x hx => ?_, fun s tag n p h hp => ?_⟩
  · obtain ⟨pa, st, hpa, hst, -, -, rfl⟩ := (LineSettings.ofPayload_eq_some_iff p x).mp hx
    refine ⟨rfl, rfl, ?_, ?_, rfl, clamp_eq (by decide) _, rfl⟩
    · rw [fieldAt_one p 5, ← Parity.ofCode_eq_some hpa]
    · rw [fieldAt_one p 6, ← StopBits.ofCode_eq_some hst]
  · have hl := Frame.lengthOk_of_mem (tag := tag) (node := n.toByte) hp (show (0x10, 10) ∈ fixedLengths by decide)
    cases hx : LineSettings.ofPayload p with
    | none =>
      have hcarried : carried s.takeFrame n (.conLineSet tag n.toByte p) =
          s.takeFrame.answers .badParam (0 :: (s.nd n).line.autobaud.code :: List.replicate 14 0) := by
        show s.takeFrame.setLine n p = _
        rw [State.setLine, hx]
        rfl
      exact ⟨_, exec_nodeRequest_answers rfl h hl hcarried, fun _ => s.refused_replied _ _, nofun⟩
    | some x =>
      obtain ⟨honly, hset, hlink, hclock, hauto, hrx, hgap, hchar, hnode⟩ := s.applyLine_frame n x
      have hidle (hl : (s.nd n).line.tx = .idle) := State.applyLine_idle (x := x) hl
      have hperiod := s.bitPeriod_lineTaken n x
      have hnd := s.nd_lineTaken n x
      have hexec := exec_conLineSet h hp hx
      have hsending (hl : (s.nd n).line.tx ≠ .idle) := State.applyLine_sending (x := x) hl
      have hcond : (s.lineTaken n x).condition n = s.condition n := by rw [State.condition, hnd]; rfl
      obtain ⟨t, ht⟩ : ∃ t, t = s.applyLine n x := ⟨_, rfl⟩
      rw [← ht] at honly hset hlink hclock hauto hrx hgap hchar hnode hexec hsending hidle
      rw [hauto] at hexec
      have hreplied (a : Answer) := (State.OnlyNodeSet.replied honly (nodeFrame 0x10 tag n p) a).2
      refine ⟨_, hexec, nofun, fun y hy => ?_⟩
      cases hy
      dsimp only
      simp only [State.reply_nd, State.takeFrame_nd, State.reply_set, State.takeFrame_set]
      refine ⟨?_, hset, hnode, hauto, hrx, ?_, hsending, ?_, ?_, ?_, ?_⟩
      · exact (State.OnlyNodeSet.replied honly _ _).1
      · rw [hgap, State.gapFrom, State.lineTaken_set, ← hchar]
        rfl
      · intro hl hstays
        have hnone : t.nd n = (s.lineTaken n x).nd n := by
          rw [hidle hl, State.takeItem_none]
          rcases hstays with hr | hcut | hq
          · exact .inr (.inr (.inl (by rw [hperiod, hr])))
          · exact .inr (.inl (hcond.trans hcut))
          · exact .inr (.inr (.inr (by rw [hnd]; exact hq)))
        rw [hnone, hnd]
        exact ⟨rfl, hl, rfl, rfl, rfl⟩
      · intro hl hr hcut hq
        have hd : (s.lineTaken n x).bitPeriod n ≠ none := by
          rw [hperiod]
          cases hrate : x.rate with
          | auto => exact absurd hrate hr
          | baud b => exact nofun
        have htakes := State.takeItem_takes (s := s.lineTaken n x) (n := n) (by rw [hnd]; exact hl) (by rw [hcond]; exact hcut)
          hd (by rw [hnd]; exact hq)
        rw [← hidle hl, hnd] at htakes
        refine ⟨?_, htakes⟩
        have hu : (s.mapSet n (fun y => { y with line := x })).setNd n { s.nd n with
            line := { (s.nd n).line with autobaud := .fixed, rx := .idle, idleGap := (t.nd n).line.idleGap }
            watch := (s.nd n).watch.map (fun y => { y with progress := 0 }) } = s.lineTaken n x := by
          have hself : s.lineTaken n x = (s.mapSet n (fun y => { y with line := x })).setNd n ((s.lineTaken n x).nd n) := by
            simp [State.lineTaken, State.restartIdleGap, State.mapLine, State.lineSet]
          refine Eq.trans ?_ hself.symm
          rw [hgap, hnd, if_neg hr]
        rw [hu, ← hidle hl]
      · intro hr
        rw [LineSettings.figures_auto hr]
        exact hreplied _
      · intro b hr
        rw [LineSettings.figures_baud hr]
        exact hreplied _

end

end Sys2Proof.Machine
end


section
/-! PROOFS. The Liveness Monitor: kicks and periods (O60), LIV_SET and LIV_CLEAR (O59). -/

namespace Sys2Proof.Machine

set_option Elab.async false

section
variable {s t : State} {n : NodeId}

/-! ### Kicks (R155 to R159) -/

/-- The monitor of a node in WATCHING with the timeout started afresh. -/
def State.kicked (s : State) (n : NodeId) (stable : Option Nat) (pending : Bool) : State :=
  s.setNd n { s.nd n with live := { (s.nd n).live with
    monitor := .watching (s.clock.ticks + 1000 * (s.set n).live.timeout) stable, statePending := pending } }

theorem State.kick_unmasked {k : KickSource} (h : k.inMask (s.set n).live.kicks = false) : s.kick n k = s :=
  State.kick_ignored (by rw [State.kickCounts, h, Bool.false_and])

theorem State.kick_inactive (k : KickSource) (h : (s.nd n).live.monitor.countsKicks = false) : s.kick n k = s :=
  State.kick_ignored (by rw [State.kickCounts, h, Bool.and_false])

theorem Monitor.countsKicks_eq_false_iff (m : Monitor) :
    m.countsKicks = false ↔ ∀ e d, m ≠ .grace e ∧ m ≠ .watching e d ∧ m ≠ .warned e := by
  cases m <;> simp [Monitor.countsKicks]

theorem Monitor.countsKicks_iff (m : Monitor) :
    m.countsKicks = true ↔ (∃ e, m = .grace e) ∨ (∃ e d, m = .watching e d) ∨ ∃ e, m = .warned e := by
  cases m <;> simp [Monitor.countsKicks]

/-- In WATCHING a kick restarts the timeout and keeps the stable deadline. -/
theorem State.kick_watching {k : KickSource} (hk : k.inMask (s.set n).live.kicks = true) {e : Nat} {d : Option Nat}
    (hm : (s.nd n).live.monitor = .watching e d) : s.kick n k = s.kicked n d (s.nd n).live.statePending := by
  have hcounts : s.kickCounts n k = true := by rw [State.kickCounts, hk, hm]; rfl
  rw [State.kick, if_pos hcounts, hm]
  simp [State.mapLive, Live.enter, hm, State.kicked, State.after, Monitor.code]

/-- From GRACE and WARNED it leads to WATCHING with both deadlines set. -/
theorem State.kick_enters {k : KickSource} (hk : k.inMask (s.set n).live.kicks = true) {e : Nat}
    (hm : (s.nd n).live.monitor = .grace e ∨ (s.nd n).live.monitor = .warned e) :
    s.kick n k = s.kicked n (some (s.clock.ticks + 1000 * (s.set n).live.stable)) true := by
  have hcounts : s.kickCounts n k = true := by
    rw [State.kickCounts, hk]
    rcases hm with hm | hm <;> rw [hm] <;> rfl
  rw [State.kick, if_pos hcounts]
  rcases hm with hm | hm <;> rw [hm] <;>
    simp [State.enterWatching, State.mapLive, Live.enter, hm, State.kicked, State.after, Monitor.code]

/-- A kick writes the monitor and its notice alone. -/
theorem State.kick_live (s : State) (n : NodeId) (k : KickSource) : s.kick n k = s.setNd n { s.nd n with
    live := { (s.nd n).live with
      monitor := ((s.kick n k).nd n).live.monitor, statePending := ((s.kick n k).nd n).live.statePending } } := by
  unfold State.kick
  split
  · split <;> simp [State.enterWatching, State.mapLive, Live.enter]
  · exact (s.setNd_nd n).symm

theorem State.kick_onlyNode (s : State) (n : NodeId) (k : KickSource) : s.OnlyNode (s.kick n k) n := by
  rw [State.kick_live, State.OnlyNode, State.nd_setNd_same]

/-! ### LIV_KICK (R163) -/

theorem exec_livKick {tag : Byte} (h : s.takes (nodeFrame 0x39 tag n []) = true) :
    exec (.livKick tag n.toByte []) s = .next ((s.takeFrame.kick n .link).reply (nodeFrame 0x39 tag n [])
      { result := .ok, fields := (s.takeFrame.kick n .link).kickFields n (s.kickCounts n .link) }) :=
  exec_nodeRequest_answers rfl h rfl rfl

/-- After a kick that counts the timeout runs whole. -/
theorem State.kickFields_kicked (s : State) (n : NodeId) (d : Option Nat) (p : Bool) :
    (s.kicked n d p).kickFields n true = 1 :: 3 :: leBytes 4 (1000 * (s.set n).live.timeout) := by
  have hnd : ((s.kicked n d p).nd n).live.monitor = .watching (s.clock.ticks + 1000 * (s.set n).live.timeout) d := by
    rw [State.kicked, State.nd_setNd_same]
  have hremains : (s.kicked n d p).remaining (s.clock.ticks + 1000 * (s.set n).live.timeout) = 1000 * (s.set n).live.timeout := by
    have hclock : (s.kicked n d p).clock = s.clock := rfl
    rw [State.remaining, hclock]
    omega
  rw [State.kickFields, hnd, State.remainingField]
  simp only [Monitor.period, Option.map_some, Option.getD_some, hremains]
  rfl

/-! ### The heartbeat (R155) -/

theorem Live.unsettled_iff (l : Live) : l.unsettled = true ↔
    l.hb = .settling ∨ (l.hb = .low ∧ l.hbPin = true) ∨ (l.hb = .high ∧ l.hbPin = false) := by
  unfold Live.unsettled
  cases l.hb <;> simp

/-- A change of HBn: the pin, and outside a part reset the filter. -/
theorem State.hbChange_eq (s : State) (n : NodeId) (high : Bool) :
    let l := (s.nd n).live
    let differs := l.hb = .settling ∨ (l.hb = .low ∧ high = true) ∨ (l.hb = .high ∧ high = false)
    s.hbChange n high = s.setNd n { s.nd n with live := { l with
      hbPin := high
      hbFilter := if s.held then l.hbFilter else if differs then some (s.clock.ticks + 1) else none } } := by
  intro l differs
  have hdiffers : ({ l with hbPin := high } : Live).unsettled = true ↔ differs := Live.unsettled_iff _
  unfold State.hbChange
  by_cases hheld : s.held = true
  · simp [hheld, State.mapLive, l]
  · simp [hheld, State.mapLive, Live.filterHb, l, ← hdiffers]

/-- The level of HBn, accepted. -/
def State.hbAccepted (s : State) (n : NodeId) : State :=
  s.setNd n { s.nd n with live := { (s.nd n).live with hb := if (s.nd n).live.hbPin then .high else .low, hbFilter := none } }

theorem State.acceptHb_eq (s : State) (n : NodeId) :
    s.acceptHb n = if (s.nd n).live.hb = .settling then s.hbAccepted n else (s.hbAccepted n).kick n .hb := rfl

/-- What an accepted level leaves: it is a kick, but for the first after a part reset. -/
theorem State.acceptHb_says (s : State) (n : NodeId) :
    let l := (s.nd n).live
    let u := s.acceptHb n
    s.OnlyNode u n ∧ (u.nd n).live.hb = (if l.hbPin then .high else .low) ∧ (u.nd n).live.hbFilter = none ∧
      u.nd n = { s.nd n with live := (u.nd n).live } ∧
      (l.hb = .settling ∨ (s.set n).live.kicks.getLsbD 0 = false → (u.nd n).live.monitor = l.monitor) ∧
      (l.hb ≠ .settling → (s.set n).live.kicks.getLsbD 0 = true → ∀ w, (l.monitor = .warned w ∨ l.monitor = .grace w) →
        (u.nd n).live.monitor = .watching (s.clock.ticks + 1000 * (s.set n).live.timeout)
          (some (s.clock.ticks + 1000 * (s.set n).live.stable))) ∧
      (l.hb ≠ .settling → (s.set n).live.kicks.getLsbD 0 = true → ∀ w d, l.monitor = .watching w d →
        (u.nd n).live.monitor = .watching (s.clock.ticks + 1000 * (s.set n).live.timeout) d) := by
  intro l u
  have hacc : (s.hbAccepted n).nd n = { s.nd n with live := { l with hb := if l.hbPin then .high else .low, hbFilter := none } } :=
    State.nd_setNd_same _ _ _
  by_cases hs : l.hb = .settling
  · have hu : u = s.hbAccepted n := (s.acceptHb_eq n).trans (if_pos hs)
    rw [hu, hacc]
    exact ⟨by rw [State.OnlyNode, hacc]; rfl, rfl, rfl, rfl, fun _ => rfl, fun hne => absurd hs hne, fun hne => absurd hs hne⟩
  · have hu : u = (s.hbAccepted n).kick n .hb := (s.acceptHb_eq n).trans (if_neg hs)
    have hlive := (s.hbAccepted n).kick_live n .hb
    have hnd : u.nd n = { s.nd n with live := { l with
        hb := if l.hbPin then .high else .low, hbFilter := none
        monitor := (u.nd n).live.monitor, statePending := (u.nd n).live.statePending } } := by
      rw [hu]
      refine (congrArg (State.nd · n) hlive).trans ?_
      rw [State.nd_setNd_same, hacc]
    have hmonitor (m : Monitor) : ((s.hbAccepted n).nd n).live.monitor = m ↔ l.monitor = m := by rw [hacc]
    refine ⟨?_, by rw [hnd], by rw [hnd], by rw [hnd], fun hno => ?_, fun _ hk w hw => ?_, fun _ hk w d hw => ?_⟩
    · rw [State.OnlyNode, hnd, hu]
      refine hlive.trans ?_
      rw [State.hbAccepted, State.setNd_setNd, State.nd_setNd_same]
    · have hk : (s.set n).live.kicks.getLsbD 0 = false := hno.resolve_left hs
      rw [hu, State.kick_unmasked (s := s.hbAccepted n) (k := .hb) hk, hacc]
    · rw [hu, State.kick_enters (s := s.hbAccepted n) (k := .hb) hk (Or.symm ((or_congr (hmonitor _) (hmonitor _)).mpr hw)), State.kicked, State.nd_setNd_same]
      rfl
    · rw [hu, State.kick_watching (s := s.hbAccepted n) (k := .hb) hk ((hmonitor _).mpr hw), State.kicked, State.nd_setNd_same]
      rfl

/-! ### Periods (R156 to R162) -/

/-- The monitor of node `n` after an expiry at the clock `c`. -/
def State.expired (s : State) (n : NodeId) (c : Clock) (y : Live) : State :=
  { s.setNd n { s.nd n with live := y } with clock := c }

theorem State.expired_onlyNodeAndClock (s : State) (n : NodeId) (c : Clock) (y : Live) :
    s.OnlyNodeAndClock (s.expired n c y) n := by
  have hnd : (s.expired n c y).nd n = { s.nd n with live := y } := State.nd_setNd_same _ _ _
  rw [State.OnlyNodeAndClock, hnd]
  rfl

theorem State.mapLive_toTick (s : State) (n : NodeId) (e : Nat) (f : Live → Live) :
    (s.toTick e).mapLive n f = s.expired n (s.toTick e).clock (f (s.nd n).live) := rfl

theorem State.submit_clock (s : State) (n : NodeId) (k : ActionKind) (src : Source) : (s.submit n k src).clock = s.clock :=
  (s.submit_changes n k src).1.same .clock

theorem State.enter_expired (s : State) (n : NodeId) (e : Nat) {m m' : Monitor} (hm : (s.nd n).live.monitor = m)
    (hcode : m.code ≠ m'.code) : (s.toTick e).mapLive n (Live.enter m') =
      s.expired n (s.toTick e).clock { (s.nd n).live with monitor := m', statePending := true } := by
  have hbne : ((s.nd n).live.monitor.code != m'.code) = true := by rw [hm]; exact bne_iff_ne.mpr hcode
  rw [State.mapLive_toTick, Live.enter, hbne, Bool.or_true]

/-- GRACE ends in WATCHING (R156, R157). -/
theorem State.graceExpires_eq {e : Nat} (hm : (s.nd n).live.monitor = .grace e) :
    let c := (s.toTick e).clock
    (s.toTick e).enterWatching n = s.expired n c { (s.nd n).live with
      monitor := .watching (c.ticks + 1000 * (s.set n).live.timeout) (some (c.ticks + 1000 * (s.set n).live.stable))
      statePending := true } :=
  s.enter_expired n e hm (by simp [Monitor.code])

/-- The timeout ends in WARNED, with a DIAG where so chosen (R157). -/
theorem State.warn_eq {e : Nat} {d : Option Nat} (hm : (s.nd n).live.monitor = .watching e d) :
    let c := (s.toTick e).clock
    let u := s.expired n c { (s.nd n).live with
      monitor := .warned (c.ticks + 1000 * (s.set n).live.warn)
      warnings := min 255 ((s.nd n).live.warnings + 1)
      statePending := true }
    (s.toTick e).warn n = match (s.set n).live.warning with
      | .notice => u
      | .noticeDiag => u.submit n .diag .liveness := by
  intro c u
  have hu : (s.toTick e).mapLive n (fun l => { Live.enter (.warned ((s.toTick e).after (s.set n).live.warn)) l with
      warnings := min 255 (l.warnings + 1) }) = u := by
    have hbne : ((s.nd n).live.monitor.code != (Monitor.warned ((s.toTick e).after (s.set n).live.warn)).code) = true := by
      rw [hm]; rfl
    rw [State.mapLive_toTick, Live.enter, hbne, Bool.or_true]
    rfl
  rw [← hu]
  rfl

/-- The end of the warn period, by what it finds (R159 to R162). -/
theorem State.warnExpires_says {e : Nat} (hm : (s.nd n).live.monitor = .warned e) :
    let l := (s.nd n).live
    let x := (s.set n).live
    let t := (s.toTick e).warnExpires n
    let becomes := fun (y : Live) => t = s.expired n (s.toTick e).clock { y with statePending := true }
    (l.recoveries = x.maxRecoveries → becomes { l with monitor := .exhausted .maxReached }) ∧
    (l.recoveries ≠ x.maxRecoveries → x.recovery = .none → becomes { l with monitor := .exhausted .noRecovery }) ∧
    (l.recoveries ≠ x.maxRecoveries → x.recovery ≠ .none →
      (∀ c, (s.nd n).power.ctrl = .locked c → becomes { l with monitor := .exhausted .controllerLocked }) ∧
      (∀ a q ab, (s.nd n).power.ctrl = .acting a q ab → becomes { l with
        monitor := .grace ((s.toTick e).clock.ticks + 1000 * x.grace), deferrals := min 255 (l.deferrals + 1) }) ∧
      ((s.nd n).power.ctrl = .idle → t = (s.expired n (s.toTick e).clock { l with
          monitor := .recovering, recoveries := l.recoveries + 1, outstanding := true, statePending := true }).submit n
            (if x.recovery = .reset then .reset else .cycle) .liveness)) := by
  intro l x t becomes
  have hexhaust (c : ExhaustCause) : (s.toTick e).exhaust n c =
      s.expired n (s.toTick e).clock { l with monitor := .exhausted c, statePending := true } :=
    s.enter_expired n e hm (by simp [Monitor.code])
  have hmax (h : l.recoveries ≠ x.maxRecoveries) : t = match x.recovery with
      | .none => (s.toTick e).exhaust n .noRecovery
      | .reset => State.warnExpires.decide_ (s.toTick e) n .reset
      | .cycle => State.warnExpires.decide_ (s.toTick e) n .cycle := if_neg h
  have hdecide (h : l.recoveries ≠ x.maxRecoveries) (hr : x.recovery ≠ .none) :
      t = State.warnExpires.decide_ (s.toTick e) n (if x.recovery = .reset then .reset else .cycle) := by
    rw [hmax h]
    cases hx : x.recovery with
    | none => exact absurd hx hr
    | reset => rfl
    | cycle => rfl
  refine ⟨fun h => (if_pos h : t = _).trans (hexhaust _), fun h hr => ?_, fun h hr => ⟨fun c hc => ?_, fun a q ab hc => ?_, fun hc => ?_⟩⟩
  · refine (hmax h).trans ?_
    rw [hr]
    exact hexhaust _
  · refine (hdecide h hr).trans ?_
    rw [State.warnExpires.decide_, show ((s.toTick e).nd n).power.ctrl = _ from hc]
    exact hexhaust _
  · refine (hdecide h hr).trans ?_
    rw [State.warnExpires.decide_, show ((s.toTick e).nd n).power.ctrl = _ from hc]
    show (s.toTick e).defer n = _
    have hbne : ((Monitor.warned e).code != (Monitor.grace ((s.toTick e).after x.grace)).code) = true := rfl
    have henter : (s.toTick e).defer n = (s.toTick e).mapLive n (fun l => Live.enter (.grace ((s.toTick e).after x.grace))
        { l with deferrals := min 255 (l.deferrals + 1) }) := by
      simp [State.defer, State.enterGrace, State.mapLive, State.after, x]
    rw [henter, State.mapLive_toTick, Live.enter]
    simp only [hm, hbne, Bool.or_true]
    rfl
  · refine (hdecide h hr).trans ?_
    rw [State.warnExpires.decide_, show ((s.toTick e).nd n).power.ctrl = _ from hc]
    show (s.toTick e).recover n _ = _
    have hbne : ((Monitor.warned e).code != Monitor.recovering.code) = true := rfl
    rw [State.recover, State.mapLive_toTick, Live.enter, hm, hbne, Bool.or_true]

theorem exec_graceExpiry {e : Nat} (hheld : s.held = false) (hm : (s.nd n).live.monitor = .grace e) :
    exec (.graceExpiry n) s = .next ((s.toTick e).enterWatching n) :=
  congrArg Host.Outcome.next (State.given_eq hheld (by rw [hm]; rfl) _)

theorem exec_timeoutExpiry {e : Nat} {d : Option Nat} (hheld : s.held = false) (hm : (s.nd n).live.monitor = .watching e d) :
    exec (.timeoutExpiry n) s = .next ((s.toTick e).warn n) :=
  congrArg Host.Outcome.next (State.given_eq hheld (by rw [hm]; rfl) _)

theorem exec_warnExpiry {e : Nat} (hheld : s.held = false) (hm : (s.nd n).live.monitor = .warned e) :
    exec (.warnExpiry n) s = .next ((s.toTick e).warnExpires n) :=
  congrArg Host.Outcome.next (State.given_eq hheld (by rw [hm]; rfl) _)

theorem exec_stableDeadlineExpiry {e d : Nat} (hheld : s.held = false) (hm : (s.nd n).live.monitor = .watching e (some d)) :
    exec (.stableDeadlineExpiry n) s = .next (s.expired n (s.toTick d).clock { (s.nd n).live with
      recoveries := 0, statePending := true, monitor := .watching e none }) := by
  refine congrArg Host.Outcome.next ((State.given_eq hheld (by rw [hm]; rfl) _).trans ?_)
  rw [State.stablePasses, State.mapLive_toTick, hm]
  rfl

/-- Each expiry leaves a monitor in another state alone. -/
theorem Monitor.ends_none (m : Monitor) : ((∀ e, m ≠ .grace e) → m.graceEnds = none) ∧
    ((∀ e d, m ≠ .watching e d) → m.timeoutEnds = none) ∧ ((∀ e, m ≠ .warned e) → m.warnEnds = none) ∧
    ((∀ e d, m ≠ .watching e (some d)) → m.stableEnds = none) := by
  cases m with
  | watching e d => cases d <;> simp [Monitor.graceEnds, Monitor.timeoutEnds, Monitor.warnEnds, Monitor.stableEnds]
  | _ => simp [Monitor.graceEnds, Monitor.timeoutEnds, Monitor.warnEnds, Monitor.stableEnds]

theorem State.toTick_ticks (s : State) (e : Nat) : (s.toTick e).clock.ticks = max s.clock.ticks e := Clock.toTick_ticks _ _ _

/-- Settles O60: the kicks by their mask and the monitor's state, the expiries each in closed form. -/
theorem kicksAndPeriodsMoveTheMonitor : Obligations.KicksAndPeriodsMoveTheMonitor := by
  refine ⟨fun s n k hk => ?_, fun s tag n h => ?_, fun s n high => ⟨fun h => congrArg Host.Outcome.next (if_pos h), fun h => ?_⟩,
    fun s n h => congrArg Host.Outcome.next (State.given_of_none h _), fun s n e hheld he => ?_, fun s n hheld => ?_⟩
  · have hbit : k.1.bit = k.2 := by
      simp only [List.mem_cons, List.not_mem_nil, or_false] at hk
      rcases hk with rfl | rfl | rfl | rfl <;> rfl
    have hmask (b : Bool) : (s.set n).live.kicks.getLsbD k.2 = b → k.1.inMask (s.set n).live.kicks = b := fun h => by
      rw [KickSource.inMask, hbit, h]
    exact ⟨fun h => State.kick_unmasked (hmask _ h),
      fun h => State.kick_inactive _ ((Monitor.countsKicks_eq_false_iff _).mpr h),
      fun h => ⟨fun e d hm => State.kick_watching (hmask _ h) hm, fun e hm => State.kick_enters (hmask _ h) hm⟩⟩
  · obtain ⟨honly, hreplied⟩ := State.OnlyNode.answered (s.takeFrame.kick_onlyNode n .link) (nodeFrame 0x39 tag n [])
      { result := .ok, fields := (s.takeFrame.kick n .link).kickFields n (s.kickCounts n .link) }
    refine ⟨_, exec_livKick h, honly, fun hc => ?_, fun ⟨hbit, hactive⟩ => ?_⟩
    · obtain ⟨hsame, hcounts⟩ : s.takeFrame.kick n .link = s.takeFrame ∧ s.kickCounts n .link = false := by
        by_cases hbit : (s.set n).live.kicks.getLsbD 3 = true
        · have hm : (s.nd n).live.monitor.countsKicks = false :=
            Bool.eq_false_iff.mpr fun hm => hc ⟨hbit, (Monitor.countsKicks_iff _).mp hm⟩
          exact ⟨State.kick_inactive (s := s.takeFrame) _ hm, by rw [State.kickCounts, hm, Bool.and_false]⟩
        · have hmask : KickSource.link.inMask (s.set n).live.kicks = false := Bool.eq_false_iff.mpr hbit
          exact ⟨State.kick_unmasked (s := s.takeFrame) hmask, by rw [State.kickCounts, hmask, Bool.false_and]⟩
      rw [hsame, hcounts] at hreplied
      rw [hsame, State.reply_nd, hcounts]
      exact ⟨rfl, hreplied⟩
    · have hcounts : s.kickCounts n .link = true := by
        rw [State.kickCounts, (Monitor.countsKicks_iff _).mpr hactive, Bool.and_true]
        exact hbit
      rw [State.reply_nd]
      obtain hm | ⟨e, d, hm⟩ : (∃ e, (s.nd n).live.monitor = .grace e ∨ (s.nd n).live.monitor = .warned e) ∨
          ∃ e d, (s.nd n).live.monitor = .watching e d := by
        rcases hactive with ⟨e, hm⟩ | ⟨e, d, hm⟩ | ⟨e, hm⟩
        · exact .inl ⟨e, .inl hm⟩
        · exact .inr ⟨e, d, hm⟩
        · exact .inl ⟨e, .inr hm⟩
      · obtain ⟨e, hm⟩ := hm
        have hk := State.kick_enters (s := s.takeFrame) (k := .link) hbit hm
        rw [hcounts, hk, State.kickFields_kicked] at hreplied
        rw [hcounts, hk, State.kickFields_kicked]
        refine ⟨hreplied, fun e' d' h' => ?_, fun _ => State.nd_setNd_same _ _ _⟩
        rcases hm with hm | hm <;> exact absurd (hm.symm.trans h') (by simp)
      · have hk := State.kick_watching (s := s.takeFrame) (k := .link) hbit hm
        rw [hcounts, hk, State.kickFields_kicked] at hreplied
        rw [hcounts, hk, State.kickFields_kicked]
        refine ⟨hreplied, fun e' d' h' => ?_, fun h' => absurd hm (h' e d)⟩
        obtain ⟨-, rfl⟩ := Monitor.watching.inj (hm.symm.trans h')
        exact State.nd_setNd_same _ _ _
  · refine congrArg Host.Outcome.next ((if_neg h).trans ?_)
    exact s.hbChange_eq n high
  · obtain ⟨honly, hhb, hfilter, hnd, hno, hwarned, hwatching⟩ := (s.toTick e).acceptHb_says n
    have hclock : ((s.toTick e).acceptHb n).clock = (s.toTick e).clock := by rw [honly]; rfl
    refine ⟨_, congrArg Host.Outcome.next (State.given_eq hheld he _), ?_, ?_, hhb, hfilter, hnd, hno, ?_, ?_⟩
    · rw [hclock]; exact s.toTick_ticks e
    · rw [State.OnlyNodeAndClock, hclock]; exact honly
    · rw [hclock]; exact hwarned
    · rw [hclock]; exact hwatching
  · obtain ⟨hg, ht, hw, hs⟩ := (s.nd n).live.monitor.ends_none
    refine ⟨fun h => congrArg Host.Outcome.next (State.given_of_none (hg h) _),
      fun h => congrArg Host.Outcome.next (State.given_of_none (ht h) _),
      fun h => congrArg Host.Outcome.next (State.given_of_none (hw h) _),
      fun h => congrArg Host.Outcome.next (State.given_of_none (hs h) _), fun e hm => ?_, fun e d hm => ?_, fun e d hm => ?_,
      fun e hm => ?_⟩
    · have heq := State.graceExpires_eq hm
      refine ⟨_, exec_graceExpiry hheld hm, ?_, ?_, ?_⟩
      · rw [heq]; exact s.toTick_ticks e
      · rw [heq]; exact s.expired_onlyNodeAndClock n _ _
      · rw [heq]; exact State.nd_setNd_same _ _ _
    · exact ⟨_, exec_stableDeadlineExpiry hheld hm, s.toTick_ticks d, s.expired_onlyNodeAndClock n _ _, State.nd_setNd_same _ _ _⟩
    · have heq := State.warn_eq hm
      have hclock : ((s.toTick e).warn n).clock = (s.toTick e).clock := ((s.toTick e).warn_changes n).1.same .clock
      refine ⟨_, exec_timeoutExpiry hheld hm, by rw [hclock]; exact s.toTick_ticks e, fun hx => ?_, fun hx => ?_⟩
      · rw [hclock, heq, hx]; rfl
      · rw [hclock, heq, hx]; rfl
    · have hclock : ((s.toTick e).warnExpires n).clock = (s.toTick e).clock := ((s.toTick e).warnExpires_changes n).1.same .clock
      refine ⟨_, exec_warnExpiry hheld hm, by rw [hclock]; exact s.toTick_ticks e, ?_⟩
      rw [hclock]
      exact State.warnExpires_says hm

end

end Sys2Proof.Machine
end


section
/-! PROOFS. Settings that are clamped: LIV_SET and LIV_CLEAR (O59), the tuning and the timings (O51). -/

namespace Sys2Proof.Machine

set_option Elab.async false

/-! ### A layout against the payload it came from -/

section
variable {p r : List Byte} {i k v : Nat} {b : Byte}

theorem List.append_eq_append_iff_of_length {α : Type} {a b c d : List α} (h : a.length = b.length) :
    a ++ c = b ++ d ↔ a = b ∧ c = d :=
  ⟨fun e => List.append_inj e h, fun ⟨e, e'⟩ => by rw [e, e']⟩

/-- A field followed by `r` spells the payload from `i` on when it is the payload's field there and `r` the rest. -/
theorem leBytes_append_eq_drop (hv : v < 256 ^ k) (hi : i + k ≤ p.length) :
    leBytes k v ++ r = p.drop i ↔ v = fieldAt p i k ∧ r = p.drop (i + k) := by
  have hfield : ((p.drop i).take k).length = k := by simp; omega
  have hrest : p.drop i = (p.drop i).take k ++ p.drop (i + k) := by rw [← List.drop_drop, List.take_append_drop]
  have hspells : leBytes k v = (p.drop i).take k ↔ v = fieldAt p i k := by
    refine ⟨fun h => by rw [fieldAt, ← h, leNat_leBytes k v hv], fun h => ?_⟩
    have hle := leBytes_leNat ((p.drop i).take k)
    rw [hfield] at hle
    rw [h, fieldAt, hle]
  rw [hrest, List.append_eq_append_iff_of_length (by rw [hfield, length_leBytes]), hspells]

theorem cons_eq_drop (hi : i < p.length) : b :: r = p.drop i ↔ b = byteAt p i ∧ r = p.drop (i + 1) := by
  rw [List.drop_eq_getElem_cons hi, List.cons.injEq, byteAt, List.drop_eq_getElem_cons hi, List.headD_cons]

theorem nil_eq_drop (hi : p.length ≤ i) : [] = p.drop i ↔ True := by simp [hi]

theorem ofNat_eq_byteAt (hv : v < 256) : BitVec.ofNat 8 v = byteAt p i ↔ v = fieldAt p i 1 := by
  rw [fieldAt_one]
  constructor
  · intro h; rw [← h, BitVec.toNat_ofNat, Nat.mod_eq_of_lt hv]
  · rintro rfl; exact BitVec.ofNat_toNat _ _

/-- OK where nothing was changed, and ADJUSTED otherwise. -/
theorem Result.adjustedIf_eq {c : Bool} {P : Prop} [Decidable P] (h : c = false ↔ P) :
    Result.adjustedIf c = if P then .ok else .adjusted := by
  cases c with
  | false => rw [if_pos (h.mp rfl)]; rfl
  | true => rw [if_neg fun hp => by simpa using h.mpr hp]; rfl
end

section
variable {s t : State} {n : NodeId} {p : List Byte}

/-! ### MED_TUNING_SET (R122) -/

theorem Tuning.ofPayload_eq (p : List Byte) : Tuning.ofPayload p =
    { readAhead := min 32 (fieldAt p 0 1), fetchTimeout := min 60000 (max 100 (fieldAt p 1 2))
      storeTimeout := min 120000 (max 500 (fieldAt p 3 4)) } := by
  rw [Tuning.ofPayload, clamp_eq (by omega), clamp_eq (by omega), clamp_eq (by omega), Nat.zero_max]

/-- The tuning in force spells the payload when nothing was clamped. -/
theorem Tuning.layout_eq_iff (hp : p.length = 7) :
    let x := Tuning.ofPayload p
    x.layout = p ↔ x.readAhead = fieldAt p 0 1 ∧ x.fetchTimeout = fieldAt p 1 2 ∧ x.storeTimeout = fieldAt p 3 4 := by
  intro x
  have hx : x = _ := Tuning.ofPayload_eq p
  have hread : x.readAhead < 256 ^ 1 := by rw [hx]; dsimp only; omega
  have hfetch : x.fetchTimeout < 256 ^ 2 := by rw [hx]; dsimp only; omega
  have hstore : x.storeTimeout < 256 ^ 4 := by rw [hx]; dsimp only; omega
  have hlayout : x.layout = p ↔ leBytes 1 x.readAhead ++ (leBytes 2 x.fetchTimeout ++ (leBytes 4 x.storeTimeout ++ [])) = p.drop 0 := by
    rw [Tuning.layout, List.append_nil, List.append_assoc, List.drop_zero]
  rw [hlayout, leBytes_append_eq_drop hread (by omega), leBytes_append_eq_drop hfetch (by omega),
    leBytes_append_eq_drop hstore (by omega), nil_eq_drop (by omega), and_true]

theorem State.onlyNodeSet_mapSet (s : State) (n : NodeId) (f : NodeSettings → NodeSettings) : s.OnlyNodeSet (s.mapSet n f) n := by
  have hset : s.mapSet n (fun _ => (s.mapSet n f).set n) = s.mapSet n f := State.mapSet_congr (s.set_mapSet_same n f)
  rw [State.OnlyNodeSet, hset]
  exact ((s.mapSet n f).setNd_nd n).symm

/-! ### PWR_TIMING_SET (R131) -/

theorem Choices.ofPayload_none (h : 1 < byteAt p 44 ∨ 2 < byteAt p 45 ∨ 1 < byteAt p 46) : Choices.ofPayload p = none := by
  unfold Choices.ofPayload
  rcases h with h | h | h
  · rw [Escalation.ofCode_none _ h]
  · rw [CycleMethod.ofCode_none _ h]
    cases Escalation.ofCode (byteAt p 44) <;> rfl
  · rw [AbortPolicy.ofCode_none _ h]
    cases Escalation.ofCode (byteAt p 44) <;> cases CycleMethod.ofCode (byteAt p 45) <;> rfl

theorem Byte.le_one {b : Byte} : b ≤ 1 → b = 0 ∨ b = 1 := by revert b; decide

theorem Byte.le_two {b : Byte} : b ≤ 2 → b = 0 ∨ b = 1 ∨ b = 2 := by revert b; decide

theorem Escalation.ofCode_listed {b : Byte} (h : b ≤ 1) : ∃ x, Escalation.ofCode b = some x ∧ x.code = b := by
  rcases Byte.le_one h with rfl | rfl
  · exact ⟨.none, rfl, rfl⟩
  · exact ⟨.hard, rfl, rfl⟩

theorem CycleMethod.ofCode_listed {b : Byte} (h : b ≤ 2) : ∃ x, CycleMethod.ofCode b = some x ∧ x.code = b := by
  rcases Byte.le_two h with rfl | rfl | rfl
  · exact ⟨.soft, rfl, rfl⟩
  · exact ⟨.hard, rfl, rfl⟩
  · exact ⟨.cut, rfl, rfl⟩

theorem AbortPolicy.ofCode_listed {b : Byte} (h : b ≤ 1) : ∃ x, AbortPolicy.ofCode b = some x ∧ x.code = b := by
  rcases Byte.le_one h with rfl | rfl
  · exact ⟨.immediate, rfl, rfl⟩
  · exact ⟨.phaseEnd, rfl, rfl⟩

theorem Choices.ofPayload_listed (he : byteAt p 44 ≤ 1) (hm : byteAt p 45 ≤ 2) (ha : byteAt p 46 ≤ 1) :
    ∃ y, Choices.ofPayload p = some y ∧ y.escalation.code = byteAt p 44 ∧ y.method.code = byteAt p 45 ∧
      y.abort.code = byteAt p 46 := by
  obtain ⟨e, he, hce⟩ := Escalation.ofCode_listed he
  obtain ⟨m, hm, hcm⟩ := CycleMethod.ofCode_listed hm
  obtain ⟨a, ha, hca⟩ := AbortPolicy.ofCode_listed ha
  refine ⟨⟨e, m, a⟩, ?_, hce, hcm, hca⟩
  rw [Choices.ofPayload, he, hm, ha]

/-- A run of four-byte fields spells the payload from field `i` on when each is the payload's. -/
theorem flatMap_leBytes_append_eq_drop (vs : List Nat) (i : Nat) (r : List Byte) (hv : ∀ v ∈ vs, v < 256 ^ 4)
    (hi : 4 * (i + vs.length) ≤ p.length) :
    vs.flatMap (leBytes 4) ++ r = p.drop (4 * i) ↔
      vs = (List.range' i vs.length).map (fun j => fieldAt p (4 * j) 4) ∧ r = p.drop (4 * (i + vs.length)) := by
  induction vs generalizing i with
  | nil => simp
  | cons v vs ih =>
    have hlen : 4 * (i + (vs.length + 1)) ≤ p.length := hi
    rw [List.flatMap_cons, List.append_assoc, leBytes_append_eq_drop (hv v (by simp)) (by omega),
      show 4 * i + 4 = 4 * (i + 1) by omega, ih (i + 1) (fun w hw => hv w (by simp [hw])) (by omega), List.length_cons,
      List.range'_succ, List.map_cons, List.cons.injEq, show i + 1 + vs.length = i + (vs.length + 1) by omega, and_assoc]

theorem Timings.ofPayload_eq (p : List Byte) :
    let v := fun i lo hi => min hi (max lo (fieldAt p (4 * i) 4))
    Timings.ofPayload p =
      { debounce := v 0 0 255, settle := v 1 100 5000, press := v 2 50 2000, hold := v 3 4000 15000
        resetPulse := v 4 10 1000, diagPulse := v 5 10 1000, startWait := v 6 1000 120000
        softOffWait := v 7 5000 600000, hardOffCheck := v 8 500 10000, cutCheck := v 9 500 10000
        dwell := v 10 1000 60000 } := by
  intro v
  unfold Timings.ofPayload
  congr 1 <;> exact clamp_eq (by omega) _

theorem Timings.toList_ofPayload_lt : ∀ v ∈ (Timings.ofPayload p).toList, v < 256 ^ 4 := by
  intro v hv
  rw [Timings.ofPayload_eq, Timings.toList] at hv
  simp only [List.mem_cons, List.not_mem_nil, or_false] at hv
  omega

/-- The timings and choices in force spell the payload when nothing was clamped. -/
theorem timingLayout_eq_iff (hp : p.length = 47) {y : Choices} (he : y.escalation.code = byteAt p 44)
    (hm : y.method.code = byteAt p 45) (ha : y.abort.code = byteAt p 46) :
    timingLayout (Timings.ofPayload p) y = p ↔ (Timings.ofPayload p).toList = sentTimings p := by
  have hrange : sentTimings p = (List.range' 0 11).map (fun j => fieldAt p (4 * j) 4) := by
    rw [sentTimings, List.range_eq_range']
  have h := flatMap_leBytes_append_eq_drop (p := p) (Timings.ofPayload p).toList 0
    [y.escalation.code, y.method.code, y.abort.code] Timings.toList_ofPayload_lt
    (show 4 * (0 + 11) ≤ p.length by omega)
  have hcodes : [y.escalation.code, y.method.code, y.abort.code] = p.drop 44 := by
    rw [cons_eq_drop (by omega), cons_eq_drop (by omega), cons_eq_drop (by omega), nil_eq_drop (by omega)]
    exact ⟨he, hm, ha, trivial⟩
  rw [hrange]
  exact h.trans (and_iff_left hcodes)

/-- Settles O51: each value by its clamp; the reply by the layout against the payload. -/
theorem tuningAndTimingSetsClamp : Obligations.TuningAndTimingSetsClamp := by
  refine ⟨fun s tag n p h hp => ?_, fun s tag n p h hp => ?_⟩
  · have hl := Frame.lengthOk_of_mem (tag := tag) (node := n.toByte) hp (show (0x28, 7) ∈ fixedLengths by decide)
    intro x
    have hx : Tuning.ofPayload p = x := Tuning.ofPayload_eq p
    have hexec := exec_nodeRequest_answers rfl h hl (i := .medTuningSet tag n.toByte p) rfl
    have hresult : Result.adjustedIf ((Tuning.ofPayload p).readAhead != fieldAt p 0 1
        || (Tuning.ofPayload p).fetchTimeout != fieldAt p 1 2 || (Tuning.ofPayload p).storeTimeout != fieldAt p 3 4) =
        if x.layout = p then .ok else .adjusted :=
      Result.adjustedIf_eq (by
        have hiff := Tuning.layout_eq_iff hp
        dsimp only at hiff
        rw [← hx, hiff]
        simp [and_assoc])
    rw [hresult, hx] at hexec
    obtain ⟨honly, hreplied⟩ := State.OnlyNodeSet.answered
      (s.takeFrame.onlyNodeSet_mapSet n (fun y => { y with tuning := x })) (nodeFrame 0x28 tag n p)
      { result := if x.layout = p then .ok else .adjusted, fields := x.layout }
    refine ⟨_, hexec, honly, State.reply_nd _ _ _ _, ?_, hreplied⟩
    rw [State.reply_set, State.set_mapSet_same]
    rfl
  · have hl := Frame.lengthOk_of_mem (tag := tag) (node := n.toByte) hp (show (0x33, 47) ∈ fixedLengths by decide)
    intro v x
    have hx : Timings.ofPayload p = x := Timings.ofPayload_eq p
    have hrefused (hbad : 1 < byteAt p 44 ∨ 2 < byteAt p 45 ∨ 1 < byteAt p 46) :
        exec (.pwrTimingSet tag n.toByte p) s = .next (s.takeFrame.reply (nodeFrame 0x33 tag n p)
          { result := .badParam, fields := List.replicate 47 0 }) :=
      exec_nodeRequest_answers rfl h hl (by
        show s.takeFrame.setTimings n p = _
        rw [State.setTimings, Choices.ofPayload_none hbad])
    by_cases hbad : 1 < byteAt p 44 ∨ 2 < byteAt p 45 ∨ 1 < byteAt p 46
    · refine ⟨_, hrefused hbad, fun _ => s.refused_replied _ _, fun he hm ha => ?_⟩
      rcases hbad with hbad | hbad | hbad
      · exact absurd he (BitVec.not_le.mpr hbad)
      · exact absurd hm (BitVec.not_le.mpr hbad)
      · exact absurd ha (BitVec.not_le.mpr hbad)
    · simp only [not_or, BitVec.not_lt] at hbad
      obtain ⟨he, hm, ha⟩ := hbad
      obtain ⟨y, hy, hye, hym, hya⟩ := Choices.ofPayload_listed he hm ha
      have hexec : exec (.pwrTimingSet tag n.toByte p) s = .next
          ((s.takeFrame.mapSet n (fun z => { z with timings := x, choices := y })).reply (nodeFrame 0x33 tag n p)
            { result := if timingLayout x y = p then .ok else .adjusted, fields := timingLayout x y }) :=
        exec_nodeRequest_answers rfl h hl (by
          show s.takeFrame.setTimings n p = _
          rw [State.setTimings, hy]
          dsimp only
          rw [Result.adjustedIf_eq (P := timingLayout x y = p) (by
            rw [← hx, timingLayout_eq_iff hp hye hym hya]; simp), hx])
      obtain ⟨honly, hreplied⟩ := State.OnlyNodeSet.answered
        (s.takeFrame.onlyNodeSet_mapSet n (fun z => { z with timings := x, choices := y })) (nodeFrame 0x33 tag n p)
        { result := if timingLayout x y = p then .ok else .adjusted, fields := timingLayout x y }
      refine ⟨_, hexec, fun hbad => ?_, fun _ _ _ => ⟨y, honly, State.reply_nd _ _ _ _, ?_, hye, hym, hya, hreplied⟩⟩
      · rcases hbad with hbad | hbad | hbad
        · exact absurd he (BitVec.not_le.mpr hbad)
        · exact absurd hm (BitVec.not_le.mpr hbad)
        · exact absurd ha (BitVec.not_le.mpr hbad)
      · rw [State.reply_set, State.set_mapSet_same]
        rfl

/-! ### LIV_SET (R152, R153) -/

theorem WarningAction.ofCode_listed {b : Byte} (h : b ≤ 1) : ∃ x, WarningAction.ofCode b = some x ∧ x.code = b := by
  rcases Byte.le_one h with rfl | rfl
  · exact ⟨.notice, rfl, rfl⟩
  · exact ⟨.noticeDiag, rfl, rfl⟩

theorem RecoveryAction.ofCode_listed {b : Byte} (h : b ≤ 2) : ∃ x, RecoveryAction.ofCode b = some x ∧ x.code = b := by
  rcases Byte.le_two h with rfl | rfl | rfl
  · exact ⟨.none, rfl, rfl⟩
  · exact ⟨.reset, rfl, rfl⟩
  · exact ⟨.cycle, rfl, rfl⟩

theorem LiveSettings.ofPayload_none (h : 1 < byteAt p 12 ∨ 2 < byteAt p 13) : LiveSettings.ofPayload p = none := by
  unfold LiveSettings.ofPayload
  rcases h with h | h
  · rw [WarningAction.ofCode_none _ h]
  · rw [RecoveryAction.ofCode_none _ h]
    cases WarningAction.ofCode (byteAt p 12) <;> rfl

/-- `x` holds the settings of the payload, clamped and cleared. -/
def LiveSettings.Of (x : LiveSettings) (p : List Byte) : Prop :=
  let v := fun pos k lo hi => min hi (max lo (fieldAt p pos k))
  x.enable = (byteAt p 0).getLsbD 0 ∧ x.timeout = v 1 2 1 3600 ∧ x.warn = v 3 2 1 600 ∧ x.grace = v 5 2 10 3600 ∧
    x.stable = v 7 4 60 86400 ∧ x.maxRecoveries = v 11 1 1 8 ∧ x.warning.code = byteAt p 12 ∧
    x.recovery.code = byteAt p 13 ∧ x.kicks = byteAt p 14 &&& 0x0F

theorem LiveSettings.ofPayload_listed (hw : byteAt p 12 ≤ 1) (hr : byteAt p 13 ≤ 2) :
    ∃ x, LiveSettings.ofPayload p = some x ∧ x.Of p := by
  obtain ⟨w, hcode, hcw⟩ := WarningAction.ofCode_listed hw
  obtain ⟨r, hcode', hcr⟩ := RecoveryAction.ofCode_listed hr
  refine ⟨_, by rw [LiveSettings.ofPayload, hcode, hcode'], rfl, clamp_eq (lo := 1) (hi := 3600) (by omega) _,
    clamp_eq (lo := 1) (hi := 600) (by omega) _, clamp_eq (lo := 10) (hi := 3600) (by omega) _,
    clamp_eq (lo := 60) (hi := 86400) (by omega) _, clamp_eq (lo := 1) (hi := 8) (by omega) _, hcw, hcr, rfl⟩

/-- The settings in force spell the payload past its first byte when nothing was clamped or cleared. -/
theorem LiveSettings.layout_tail_eq_iff {x : LiveSettings} (hx : x.Of p) (hp : p.length = 15) :
    x.changedFrom p = false ↔ x.layout.tail = p.tail := by
  obtain ⟨-, ht, hw, hg, hs, hm, hcw, hcr, -⟩ := hx
  dsimp only at ht hw hg hs hm
  have htail : x.layout.tail = p.tail ↔ leBytes 2 x.timeout ++ (leBytes 2 x.warn ++ (leBytes 2 x.grace ++ (leBytes 4 x.stable ++
      (BitVec.ofNat 8 x.maxRecoveries :: x.warning.code :: x.recovery.code :: x.kicks :: [])))) = p.drop 1 := by
    simp [LiveSettings.layout]
  rw [htail, leBytes_append_eq_drop (by omega) (by omega), leBytes_append_eq_drop (by omega) (by omega),
    leBytes_append_eq_drop (by omega) (by omega), leBytes_append_eq_drop (by omega) (by omega), cons_eq_drop (by omega),
    cons_eq_drop (by omega), cons_eq_drop (by omega), cons_eq_drop (by omega), nil_eq_drop (by omega),
    ofNat_eq_byteAt (by omega)]
  simp [LiveSettings.changedFrom, hcw, hcr, and_assoc]

/-- The monitor and its count after a LIV_SET. -/
def State.liveSet (s : State) (n : NodeId) (x : LiveSettings) : Live :=
  if x.enable then
    if (s.nd n).live.monitor = .disabled then
      Live.enter (if s.condition n = .on then .grace (s.clock.ticks + 1000 * x.grace) else .dormant) (s.nd n).live
    else { (s.nd n).live with recoveries := min (s.nd n).live.recoveries x.maxRecoveries }
  else { Live.enter .disabled (s.nd n).live with recoveries := 0, outstanding := false }

theorem State.enterByCondition_eq (s : State) (n : NodeId) : s.enterByCondition n = s.mapLive n (Live.enter
    (if s.condition n = .on then .grace (s.clock.ticks + 1000 * (s.set n).live.grace) else .dormant)) := by
  unfold State.enterByCondition
  split
  · rfl
  · rfl

theorem State.applyLive_eq (s : State) (n : NodeId) (x : LiveSettings) :
    s.applyLive n x = (s.mapSet n (fun y => { y with live := x })).mapLive n (fun _ => s.liveSet n x) := by
  unfold State.applyLive State.liveSet
  have hcond : (s.mapSet n (fun y => { y with live := x })).condition n = s.condition n := rfl
  split
  · split
    · rw [State.enterByCondition_eq, hcond, State.set_mapSet_same]
      rfl
    · rfl
  · rfl

theorem State.onlyNodeSet_applyLive (s : State) (n : NodeId) (x : LiveSettings) : s.OnlyNodeSet (s.applyLive n x) n := by
  rw [State.applyLive_eq, State.OnlyNodeSet, State.mapLive, State.nd_setNd_same, State.set_setNd, State.set_mapSet_same]
  rw [State.mapSet_congr (f := fun _ => _) (g := fun y => { y with live := x }) rfl]

theorem exec_livSet {tag : Byte} {x : LiveSettings} (h : s.takes (nodeFrame 0x38 tag n p) = true) (hp : p.length = 15)
    (hx : LiveSettings.ofPayload p = some x) (hof : x.Of p) :
    exec (.livSet tag n.toByte p) s = .next ((s.takeFrame.applyLive n x).reply (nodeFrame 0x38 tag n p)
      { result := if x.layout.tail = p.tail then .ok else .adjusted
        fields := x.layout ++ [(s.liveSet n x).monitor.code, BitVec.ofNat 8 (s.liveSet n x).recoveries] }) := by
  have hl := Frame.lengthOk_of_mem (tag := tag) (node := n.toByte) hp (show (0x38, 15) ∈ fixedLengths by decide)
  refine exec_nodeRequest_answers rfl h hl ?_
  show s.takeFrame.setLive n p = _
  have hlive : ((s.takeFrame.applyLive n x).nd n).live = s.liveSet n x := by
    rw [State.applyLive_eq, State.mapLive, State.nd_setNd_same]
    rfl
  rw [State.setLive, hx]
  dsimp only
  rw [Result.adjustedIf_eq (LiveSettings.layout_tail_eq_iff hof hp), hlive]
  rfl

theorem exec_livSet_refused {tag : Byte} (h : s.takes (nodeFrame 0x38 tag n p) = true) (hp : p.length = 15)
    (hx : LiveSettings.ofPayload p = none) :
    exec (.livSet tag n.toByte p) s = .next (s.takeFrame.reply (nodeFrame 0x38 tag n p)
      { result := .badParam
        fields := List.replicate 15 0 ++ [(s.nd n).live.monitor.code, BitVec.ofNat 8 (s.nd n).live.recoveries] }) := by
  have hl := Frame.lengthOk_of_mem (tag := tag) (node := n.toByte) hp (show (0x38, 15) ∈ fixedLengths by decide)
  refine exec_nodeRequest_answers rfl h hl ?_
  show s.takeFrame.setLive n p = _
  rw [State.setLive, hx]
  rfl

/-! ### LIV_CLEAR (R162) -/

theorem exec_livClear_disabled {tag : Byte} (h : s.takes (nodeFrame 0x3A tag n []) = true)
    (hm : (s.nd n).live.monitor = .disabled) :
    exec (.livClear tag n.toByte []) s = .next (s.takeFrame.reply (nodeFrame 0x3A tag n [])
      { result := .badState, fields := [0, BitVec.ofNat 8 (s.nd n).live.recoveries] }) := by
  refine exec_nodeRequest_answers rfl h rfl ?_
  show s.takeFrame.clearLive n = _
  rw [State.clearLive, State.takeFrame_nd, hm]
  dsimp only
  rw [Live.brief, hm]
  rfl

/-- The monitor after a LIV_CLEAR: EXHAUSTED is left, any other state stays. -/
def State.monitorCleared (s : State) (n : NodeId) : Monitor :=
  match (s.nd n).live.monitor with
  | .exhausted _ => if s.condition n = .on then .grace (s.clock.ticks + 1000 * (s.set n).live.grace) else .dormant
  | m => m

/-- The state after a LIV_CLEAR. -/
def State.liveCleared (s : State) (n : NodeId) : State := s.setNd n { s.nd n with
  live := { (s.nd n).live with recoveries := 0, statePending := true, monitor := s.monitorCleared n } }

theorem exec_livClear {tag : Byte} (h : s.takes (nodeFrame 0x3A tag n []) = true) (hm : (s.nd n).live.monitor ≠ .disabled) :
    exec (.livClear tag n.toByte []) s = .next ((s.takeFrame.liveCleared n).reply (nodeFrame 0x3A tag n [])
      { result := .ok, fields := [(s.monitorCleared n).code, 0] }) := by
  refine exec_nodeRequest_answers rfl h rfl ?_
  have hcleared : (s.takeFrame.liveCleared n).answers .ok ((s.takeFrame.liveCleared n).nd n).live.brief =
      (s.takeFrame.liveCleared n).answers .ok [(s.monitorCleared n).code, 0] := by
    rw [State.liveCleared, State.nd_setNd_same]
    rfl
  refine Eq.trans ?_ hcleared
  show s.takeFrame.clearLive n = _
  rw [State.clearLive]
  generalize hv : s.takeFrame = v
  have hm' : (v.nd n).live.monitor ≠ .disabled := by rw [← hv]; exact hm
  cases hmon : (v.nd n).live.monitor with
  | disabled => exact absurd hmon hm'
  | exhausted c =>
    have hleft : (v.mapLive n (fun l => { l with recoveries := 0, statePending := true })).enterByCondition n =
        v.liveCleared n := by
      rw [State.enterByCondition_eq]
      simp [State.mapLive, State.liveCleared, State.monitorCleared, hmon, Live.enter, State.condition]
      rfl
    dsimp only
    rw [hleft]
  | _ => simp [State.mapLive, State.liveCleared, State.monitorCleared, hmon]

/-- Settles O59: the payload by its codes, the monitor by its state before. -/
theorem livSetAndClear : Obligations.LivSetAndClear := by
  refine ⟨fun s tag n p h hp => ?_, fun s tag n h => ?_⟩
  · by_cases hbad : 1 < byteAt p 12 ∨ 2 < byteAt p 13
    · refine ⟨_, exec_livSet_refused h hp (LiveSettings.ofPayload_none hbad), fun _ => s.refused_replied _ _, fun hw hr => ?_⟩
      rcases hbad with hbad | hbad
      · exact absurd hw (BitVec.not_le.mpr hbad)
      · exact absurd hr (BitVec.not_le.mpr hbad)
    · simp only [not_or, BitVec.not_lt] at hbad
      obtain ⟨x, hx, hof⟩ := LiveSettings.ofPayload_listed hbad.1 hbad.2
      obtain ⟨honly, hreplied⟩ := State.OnlyNodeSet.answered (s.takeFrame.onlyNodeSet_applyLive n x) (nodeFrame 0x38 tag n p)
        { result := if x.layout.tail = p.tail then .ok else .adjusted
          fields := x.layout ++ [(s.liveSet n x).monitor.code, BitVec.ofNat 8 (s.liveSet n x).recoveries] }
      have hnd : (s.takeFrame.applyLive n x).nd n = { s.nd n with live := s.liveSet n x } := by
        rw [State.applyLive_eq, State.mapLive, State.nd_setNd_same]
        rfl
      have hset : (s.takeFrame.applyLive n x).set n = { s.set n with live := x } := by
        rw [State.applyLive_eq, State.mapLive, State.set_setNd, State.set_mapSet_same]
        rfl
      obtain ⟨henable, htimeout, hwarn, hgrace, hstable, hmax, hcw, hcr, hkicks⟩ := hof
      refine ⟨_, exec_livSet h hp hx ⟨henable, htimeout, hwarn, hgrace, hstable, hmax, hcw, hcr, hkicks⟩, fun hbad' => ?_,
        fun _ _ => ⟨honly, ?_, x, ?_, henable, htimeout, hwarn, hgrace, hstable, hmax, hcw, hcr, hkicks, ?_, ?_⟩⟩
      · rcases hbad' with hbad' | hbad'
        · exact absurd hbad.1 (BitVec.not_le.mpr hbad')
        · exact absurd hbad.2 (BitVec.not_le.mpr hbad')
      · rw [State.reply_nd, hnd]
      · rw [State.reply_set, hset]
      · rw [State.reply_nd, hnd]
        exact hreplied
      · rw [State.reply_nd, hnd]
        dsimp only
        refine ⟨fun hoff => ?_, fun hon hm => ?_, fun hon hm => ?_⟩
        · rw [State.liveSet, if_neg (by rw [hoff]; exact Bool.false_ne_true)]
          cases hm : (s.nd n).live.monitor <;> simp [Live.enter, hm, Monitor.code]
        · rw [State.liveSet, if_pos hon, if_neg hm]
        · rw [State.liveSet, if_pos hon, if_pos hm, Live.enter, hm]
          split <;> simp [Monitor.code]
  · by_cases hm : (s.nd n).live.monitor = .disabled
    · exact ⟨_, exec_livClear_disabled h hm, fun _ => s.refused_replied _ _, fun h' => absurd hm h'⟩
    · have honlyNode : s.takeFrame.OnlyNode (s.takeFrame.liveCleared n) n := by
        rw [State.liveCleared, State.OnlyNode, State.nd_setNd_same]
      obtain ⟨honly, hreplied⟩ := State.OnlyNode.answered honlyNode (nodeFrame 0x3A tag n [])
        { result := .ok, fields := [(s.monitorCleared n).code, 0] }
      have hnd : (s.takeFrame.liveCleared n).nd n = { s.nd n with live := { (s.nd n).live with
          recoveries := 0, statePending := true, monitor := s.monitorCleared n } } := State.nd_setNd_same _ _ _
      refine ⟨_, exec_livClear h hm, fun h' => absurd h' hm, fun _ => ⟨honly, ?_, ?_, fun hc => ?_, fun c hc => ?_⟩⟩
      · rw [State.reply_nd, hnd]
        exact hreplied
      · rw [State.reply_nd, hnd]
      · rw [State.reply_nd, hnd]
        dsimp only
        unfold State.monitorCleared
        split
        · next c hmon => exact absurd hmon (hc c)
        · rfl
      · rw [State.reply_nd, hnd]
        dsimp only
        rw [State.monitorCleared, hc]

end

end Sys2Proof.Machine
end


section
/-! PROOFS. The receiver (O30) and autobaud (O33). -/

namespace Sys2Proof.Machine

set_option Elab.async false

section
variable {s t : State} {n : NodeId}

/-! ### A character is judged (R8 to R10) -/

theorem countP_getLsbD_eq_zero (b : Byte) : (List.range 8).countP (fun i => b.getLsbD i) = 0 ↔ b = 0 := by
  revert b; decide

/-- The data bits of a character all read 0 when none of the low W bits is a one. -/
theorem lowBits_eq_zero_iff (w : Nat) (v : Byte) : lowBits w v = 0 ↔ (List.range w).countP (fun i => v.getLsbD i) = 0 := by
  rw [← countP_getLsbD_eq_zero, countP_lowBits]

/-- The parity bit `pb` of a character whose data bits hold `ones` ones is not the one of R8. -/
def Parity.wrong (p : Parity) (ones : Nat) (pb : Bool) : Bool :=
  match p with
  | .none => false
  | .odd => decide ((ones + pb.toNat) % 2 = 0)
  | .even => decide ((ones + pb.toNat) % 2 = 1)
  | .mark => !pb
  | .space => pb

theorem Parity.wrong_eq (p : Parity) (w : Nat) (v : Byte) (pb : Bool) :
    (match p.bit (lowBits w v) with | Option.none => false | some e => e != pb) =
      p.wrong ((List.range w).countP (fun i => v.getLsbD i)) pb := by
  rw [Parity.bit_lowBits]
  generalize (List.range w).countP (fun i => v.getLsbD i) = ones
  cases p with
  | odd =>
    rw [Bool.eq_iff_iff]
    cases pb
    · simp [Parity.wrong]
    · simp [Parity.wrong]
      omega
  | even =>
    rw [Bool.eq_iff_iff]
    cases pb
    · simp [Parity.wrong]
    · simp [Parity.wrong]
      omega
  | _ => cases pb <;> rfl

theorem State.decodes_iff : s.decodes n = true ↔ s.held = false ∧ s.condition n ≠ .cut ∧ s.bitPeriod n ≠ none ∧
    ((s.nd n).line.rx = .idle ∨ (s.nd n).line.rx = .awaitHigh) := by
  simp [State.decodes, and_assoc, Option.isSome_iff_ne_none]

theorem State.receiveBreak_eq (s : State) (n : NodeId) : s.receiveBreak n = s.setNd n { s.nd n with
    line := { (s.nd n).line with rx := .inBreak }
    hist := (s.nd n).hist.record (s.set n).delivery.mask (s.nd n).power.boot .breakRx 0
    watch := (s.nd n).watch.map (fun y => { y with progress := 0 }) } := by
  simp [State.receiveBreak, State.clearProgress, State.mapWatch, State.mapLine, State.record_eq]

theorem State.receiveCharacter_eq (s : State) (n : NodeId) (v : Byte) (pb sb : Bool) :
    let x := (s.set n).line
    let ones := (List.range x.wordLen).countP (fun i => v.getLsbD i)
    s.receiveCharacter n v pb sb =
      if ones = 0 ∧ (x.parity = .none ∨ pb = false) ∧ sb = false then s.receiveBreak n
      else (s.mapLine n (fun l => { l with rx := if sb then .idle else .awaitHigh })).handOn n (lowBits x.wordLen v) (!sb)
        (x.parity.wrong ones pb) := by
  intro x ones
  unfold State.receiveCharacter
  have hzero : (lowBits x.wordLen v = 0 ∧ (x.parity = .none ∨ pb = false) ∧ sb = false) ↔
      (ones = 0 ∧ (x.parity = .none ∨ pb = false) ∧ sb = false) := and_congr_left' (lowBits_eq_zero_iff _ _)
  have hwrong := Parity.wrong_eq x.parity x.wordLen v pb
  dsimp only
  rw [← hwrong]
  exact if_congr hzero rfl rfl

/-- Settles O30: the character by its bits; a byte handed on by the stages it passes. -/
theorem receiverJudgesACharacter : Obligations.ReceiverJudgesACharacter := by
  refine ⟨fun s n v pb sb h => ?_, fun s n => State.decodes_iff, fun s n v pb sb h => ?_,
    fun s n h => ?_, fun s n b framing parity => ?_⟩
  · have hoff : ¬s.decodes n = true := by rw [h]; exact Bool.false_ne_true
    exact ⟨congrArg Host.Outcome.next (if_neg hoff), congrArg Host.Outcome.next (if_neg hoff)⟩
  · intro x ones _ _
    refine ⟨fun hzero i hi => ⟨s.receiveBreak n, ?_, ?_, ?_⟩, fun hnot => ?_⟩
    · rcases hi with rfl | rfl
      · exact congrArg Host.Outcome.next (if_pos h)
      · exact congrArg Host.Outcome.next ((if_pos h).trans ((s.receiveCharacter_eq n v pb sb).trans (if_pos hzero)))
    · rw [State.receiveBreak_eq, State.OnlyNode, State.nd_setNd_same]
    · rw [State.receiveBreak_eq, State.nd_setNd_same]
    · exact ⟨lowBits x.wordLen v, lowBits_getLsbD _ _,
        congrArg Host.Outcome.next ((if_pos h).trans ((s.receiveCharacter_eq n v pb sb).trans (if_neg hnot)))⟩
  · refine congrArg Host.Outcome.next ((if_neg (by rw [h]; exact Bool.false_ne_true)).trans ?_)
    show s.mapLine n _ = _
    rw [State.mapLine]
    cases (s.nd n).line.rx <;> rfl
  · intro g started
    refine ⟨_, _, (State.watchByte (started.storeByte n b framing parity) n b).kick n .console, rfl, rfl, ⟨fun h => ?_, fun h e d hm => ?_,
      fun h e hm => ?_, fun h => ?_⟩, rfl⟩
    · exact State.kick_unmasked (k := .console) (Bool.eq_false_iff.mpr h)
    · exact State.kick_watching (k := .console) h hm
    · exact State.kick_enters (k := .console) h hm
    · exact State.kick_inactive _ ((Monitor.countsKicks_eq_false_iff _).mpr h)

/-! ### A line that hunts (R13 to R16) -/

theorem State.measures_iff : s.measures n = true ↔ s.held = false ∧ s.condition n ≠ .cut ∧
    ∃ w, (s.nd n).line.autobaud = .hunting w := by
  unfold State.measures
  cases (s.nd n).line.autobaud <;> simp

theorem exec_edge_measuring (h : s.measures n = true) (falling : Bool) (run : Nat) :
    exec (.autobaudAcceptedEdge n falling run) s = .next (s.acceptedEdge n falling run) :=
  congrArg Host.Outcome.next (if_pos h)

/-- The line as it locks at rate `r`, before the transmitter takes anything (R16). -/
def State.locked (s : State) (n : NodeId) (r : Nat) : State :=
  let l := (s.nd n).line
  s.setNd n { s.nd n with
    line := { l with
      autobaud := .locked r (some { bytes := 0, framing := 0 })
      rx := .lockWait none
      tx := if l.tx = .gap none
        then .gap (some (s.clock.cycles + characterCycles 1 (s.set n).line.halfBits (divisor s.cfg.fref r)))
        else l.tx }
    hist := (s.nd n).hist.record (s.set n).delivery.mask (s.nd n).power.boot .autobaudLock
      (BitVec.ofNat 16 (min 65535 (r / 100))) }

theorem State.lockLine_eq (s : State) (n : NodeId) (r : Nat) : s.lockLine n r = (s.locked n r).takeItem n := by
  unfold State.lockLine
  dsimp only
  congr 1
  by_cases htx : (s.nd n).line.tx = .gap none
  · simp [State.startWaitingGap, State.beginGap, State.record_eq, State.mapLine, htx, State.charCycles, State.bitPeriod,
      State.lineRate, State.locked]
  · simp [State.startWaitingGap, State.record_eq, State.mapLine, htx, State.locked]

theorem State.locked_bitPeriod (s : State) (n : NodeId) (r : Nat) :
    (s.locked n r).bitPeriod n = some (divisor s.cfg.fref r) := by
  simp [State.bitPeriod, State.lineRate, State.locked]

/-- A rate that a window picks has its exact d at any permitted Fref. -/
theorem divisor_of_judged {fref tmin r : Nat} (h : judgeWindow fref tmin = some r) (hf : fref ≤ 50000) :
    divisor fref r = nearestQuotient fref r := by
  obtain ⟨⟨hmem, -⟩, -⟩ := (judgeWindow_eq_some_iff r).mp h
  obtain ⟨hcand, hreach⟩ := (mem_reachableRates r).mp hmem
  have hlow : 1200 ≤ r := (by decide : ∀ r ∈ candidateRates, 1200 ≤ r) r hcand
  have hmin : 16 ≤ nearestQuotient fref r := by
    rw [nearestQuotient, Nat.le_div_iff_mul_le (by omega)]
    omega
  have hmax : nearestQuotient fref r ≤ 1048575 := by
    rw [nearestQuotient, ← Nat.lt_succ_iff, Nat.div_lt_iff_lt_mul (by omega)]
    omega
  rw [divisor, clamp, if_neg (by omega), if_neg (by omega)]

/-- What a lock leaves, past the line and its record: the transmitter may take the head of the queue. -/
theorem State.locked_says (s : State) (n : NodeId) (r : Nat) (hcut : s.condition n ≠ .cut) :
    let l := (s.nd n).line
    let u := s.locked n r
    s.OnlyNode (u.takeItem n) n ∧ (l.tx ≠ .idle ∨ l.queue = [] → u.takeItem n = u) ∧
      (l.tx = .idle → l.queue ≠ [] → ((u.takeItem n).nd n).line.queue = l.queue.tail ∧
        ((u.takeItem n).nd n).line.tx ≠ .idle) := by
  intro l u
  have hnd : (u.nd n).line.queue = l.queue ∧ ((u.nd n).line.tx = .idle ↔ l.tx = .idle) ∧ u.condition n = s.condition n := by
    by_cases htx : l.tx = .gap none <;> simp [u, State.locked, l, htx, State.condition]
  obtain ⟨hqueue, htx, hcond⟩ := hnd
  refine ⟨?_, fun h => State.takeItem_none ?_, fun hidle hq => ?_⟩
  · have honly := (State.takeItem_onlyTransmitter u n).onlyNode
    rw [State.OnlyNode] at honly
    rw [State.OnlyNode]
    refine honly.trans ?_
    simp [u, State.locked]
  · rw [hqueue]
    exact h.elim (fun h => .inl fun h' => h (htx.mp h')) (fun h => .inr (.inr (.inr h)))
  · rw [← hqueue]
    exact State.takeItem_takes (htx.mpr hidle) (by rw [hcond]; exact hcut) (by rw [s.locked_bitPeriod n r]; exact nofun)
      (by rw [hqueue]; exact hq)

/-- The 32nd run of a window ends by either of its commands. -/
theorem exec_window_completes {v : Window} {run : Nat} {falling : Bool} (h : s.measures n = true)
    (hv : (s.nd n).line.autobaud = .hunting (some v)) (hruns : v.runs = 31) {i : Instr}
    (hi : i = .autobaudWindowComplete n run ∨ i = .autobaudAcceptedEdge n falling run) :
    exec i s = .next (s.completeWindow n v run) := by
  have hheld := (State.measures_iff.mp h).1
  rcases hi with rfl | rfl
  · refine congrArg Host.Outcome.next ((if_pos h).trans (State.given_eq hheld ?_ _))
    rw [hv]
    exact Option.filter_some_pos (by simp [hruns])
  · rw [exec_edge_measuring h, State.acceptedEdge, hv]
    exact congrArg Host.Outcome.next (if_pos hruns)

/-! ### The wait after a lock, and the loss of lock (R16, R17) -/

theorem Line.rx_self {l : Line} {r : Receiver} (h : r = l.rx) : { l with rx := r } = l := by subst h; rfl

theorem exec_edge_waiting (hheld : s.held = false) (hlocked : ∀ w, (s.nd n).line.autobaud ≠ .hunting w) (falling : Bool)
    (run : Nat) : exec (.autobaudAcceptedEdge n falling run) s = .next (s.waitEdge n falling) := by
  have hnot : ¬s.measures n = true := fun h => (State.measures_iff.mp h).2.2.elim fun w hw => hlocked w hw
  exact congrArg Host.Outcome.next ((if_neg hnot).trans (if_neg (by rw [hheld]; exact Bool.false_ne_true)))

theorem State.lossCheck_locked {r : Nat} {c : LockCheck} (h : (s.nd n).line.autobaud = .locked r (some c)) (framing : Bool) :
    s.lossCheck n framing =
      if framing = true ∧ c.framing + framing.toNat = 4 then (s.record n .autobaudLost).enterHunting n
      else s.mapLine n (fun l => { l with autobaud := .locked r (if c.bytes + 1 = 16 then none
        else some { bytes := c.bytes + 1, framing := c.framing + framing.toNat }) }) := by
  rw [State.lossCheck, h]
  cases framing <;> rfl

/-- Settles O33: the edge by the state of the line, the window by its judgement. -/
theorem huntingLineLocksAndMayLose : Obligations.HuntingLineLocksAndMayLose := by
  refine ⟨fun s n w hheld hcut hw => ?_, fun s n run falling hheld hlocked => ?_, fun s n e hheld he => ?_, fun s n h => ?_,
    fun s n framing h => ?_, fun s n r c framing hc hbytes hframing => ?_⟩
  · have hm : s.measures n = true := State.measures_iff.mpr ⟨hheld, hcut, w, hw⟩
    refine ⟨?_, ?_, ?_, ?_⟩
    · rintro run rfl
      rw [exec_edge_measuring hm, State.acceptedEdge, hw]
      rfl
    · rintro run rfl
      rw [exec_edge_measuring hm, State.acceptedEdge, hw]
      rfl
    · rintro run falling v rfl hruns
      rw [exec_edge_measuring hm, State.acceptedEdge, hw]
      exact congrArg Host.Outcome.next (if_neg (by omega))
    · rintro run falling v rfl hruns i hi
      have hexec := exec_window_completes hm hw hruns hi
      refine ⟨fun hj => by rw [hexec, State.completeWindow_none hj], fun r hj => ?_⟩
      obtain ⟨honly, hstays, htakes⟩ := s.locked_says n r hcut
      refine ⟨?_, honly, fun hf => ?_, hstays, htakes⟩
      · rw [hexec, State.completeWindow_some hj, State.lockLine_eq]
        rfl
      · rw [← divisor_of_judged hj hf]
        exact s.locked_bitPeriod n r
  · intro moved
    refine ⟨fun hrx => ?_, fun hrx => ?_, fun e hrx => ?_⟩ <;>
      rw [exec_edge_waiting hheld hlocked, State.waitEdge]
    · refine congrArg Host.Outcome.next (State.mapLine_eq_self (Line.rx_self ?_))
      cases hr : (s.nd n).line.rx with
      | lockWait e => exact absurd hr (hrx e)
      | _ => rfl
    · cases falling with
      | true => exact congrArg Host.Outcome.next (State.mapLine_eq_self (Line.rx_self (by rw [hrx]; rfl)))
      | false => rw [State.mapLine, hrx]; rfl
    · cases falling with
      | true => rw [State.mapLine, hrx]; rfl
      | false => exact congrArg Host.Outcome.next (State.mapLine_eq_self (Line.rx_self (by rw [hrx]; rfl)))
  · exact ⟨_, congrArg Host.Outcome.next (State.given_eq hheld (by rw [he]; rfl) _), Clock.toCycle_cycles _ _ _,
      s.setNd_toCycle_onlyNodeAndClock e n _, State.nd_setNd_same _ _ _⟩
  · refine congrArg Host.Outcome.next (State.given_of_none ?_ _)
    cases hr : (s.nd n).line.rx with
    | lockWait e =>
      cases e with
      | none => rfl
      | some e => exact absurd hr (h e)
    | _ => rfl
  · unfold State.lossCheck
    split
    · next r c hc => exact absurd hc (h r c)
    · rfl
  · rw [State.lossCheck_locked hc]
    refine ⟨fun hf h3 => ?_, fun hsmall => ?_⟩
    · rw [if_pos ⟨hf, by rw [hf, h3]; rfl⟩]
      simp [State.enterHunting, State.record_eq, State.mapLine]
    · have hnot : ¬(framing = true ∧ c.framing + framing.toNat = 4) := by
        rintro ⟨rfl, h4⟩
        exact hsmall.elim nofun fun h3 => by simp at h4; omega
      rw [if_neg hnot, State.mapLine]
      congr 3
      simp

end

end Sys2Proof.Machine
end


section
/-! PROOFS. Reading the history (O37), the delivery settings (O39) and the pattern places (O40). -/

namespace Sys2Proof.Machine

set_option Elab.async false

section
variable {s t : State} {n : NodeId} {tag : Byte} {p : List Byte}

theorem fieldAt_zero (p : List Byte) (k : Nat) : fieldAt p 0 k = leNat (p.take k) := rfl

/-- A field that reaches the end of its payload. -/
theorem fieldAt_last {i k : Nat} (hp : p.length = i + k) : fieldAt p i k = leNat (p.drop i) := by
  rw [fieldAt, List.take_of_length_le (by simp [hp])]

/-! ### CON_READ (R35) -/

theorem State.historyBytes_length (s : State) (n : NodeId) (o k : Nat) : (s.historyBytes n o k).length = k := by
  induction k generalizing o with
  | zero => rfl
  | succ k ih => rw [State.historyBytes, List.length_cons, ih]

/-- The bytes of the history stand in its ring pages, each at its offset in the page (R26). -/
theorem State.historyBytes_getElem? {o k i a : Nat} (hi : i < k)
    (ha : (s.nd n).hist.ring[(o + i - (s.nd n).hist.oldest) / 512]? = some a) :
    (s.historyBytes n o k)[i]? = some (s.mem.read (512 * a + (o + i) % 512)) := by
  induction k generalizing o i with
  | zero => omega
  | succ k ih =>
    match i with
    | 0 =>
      have haddress : (s.nd n).hist.address o = some (512 * a + o % 512) := by
        rw [History.address, Config.pageBytes, show (s.nd n).hist.ring[(o - (s.nd n).hist.oldest) / 512]? = some a from ha]
        rfl
      rw [State.historyBytes, List.getElem?_cons_zero, haddress]
      rfl
    | i + 1 =>
      rw [show o + (i + 1) = o + 1 + i by omega] at ha ⊢
      rw [State.historyBytes, List.getElem?_cons_succ]
      exact ih (by omega) ha

theorem State.historyBytes_takeFrame (s : State) (n : NodeId) (o k : Nat) :
    s.takeFrame.historyBytes n o k = s.historyBytes n o k := by
  induction k generalizing o with
  | zero => rfl
  | succ k ih => rw [State.historyBytes, State.historyBytes, ih]; rfl

theorem State.readConsole_refused (h : fieldAt p 6 2 = 0 ∨ 512 < fieldAt p 6 2) :
    s.readConsole n p = s.answers .badParam (0 :: leBytes 6 0 ++ leBytes 2 0 ++ (s.nd n).hist.bounds) :=
  if_neg fun hw => by
    obtain ⟨hlo, hhi⟩ := (within_eq_true_iff _ _ _).mp hw
    omega

theorem State.readConsole_reads (hlo : 1 ≤ fieldAt p 6 2) (hhi : fieldAt p 6 2 ≤ 512) :
    let h := (s.nd n).hist
    let off := fieldAt p 0 6
    let start := max off h.oldest
    let k := min (fieldAt p 6 2) (h.next - start)
    s.readConsole n p = s.answers (if off < h.oldest then .adjusted else .ok)
      (flagByte (decide (off < h.oldest)) :: leBytes 6 start ++ leBytes 2 k ++ h.bounds ++ s.historyBytes n start k) := by
  refine (if_pos ((within_eq_true_iff _ _ _).mpr ⟨hlo, hhi⟩)).trans ?_
  rw [Result.adjustedIf]
  simp only [decide_eq_true_eq]

/-! ### CON_EVENTS (R36) -/

/-- In an index in order of offset the entries that are passed over are the first of those exactly at the offset. -/
theorem skipEqual_eq {o : Nat} (k : Nat) {es : List Event} (hsorted : es.Pairwise (fun x y => x.offset ≤ y.offset))
    (hfrom : ∀ e ∈ es, o ≤ e.offset) :
    skipEqual o k es = (es.filter (fun e => e.offset = o)).drop k ++ es.filter (fun e => o < e.offset) := by
  induction es generalizing k with
  | nil => cases k <;> rfl
  | cons e es ih =>
    obtain ⟨hhead, htail⟩ := List.pairwise_cons.mp hsorted
    have ih (k : Nat) := ih k htail fun x hx => hfrom x (List.mem_cons_of_mem _ hx)
    have he : o ≤ e.offset := hfrom e List.mem_cons_self
    by_cases heq : e.offset = o
    · have hnot : ¬o < e.offset := by omega
      rw [List.filter_cons_of_pos (by simpa using heq), List.filter_cons_of_neg (by simpa using hnot)]
      match k with
      | 0 =>
        have hall := ih 0
        rw [skipEqual, List.drop_zero] at hall
        rw [skipEqual, List.drop_zero, List.cons_append, ← hall]
      | k + 1 => rw [skipEqual, if_pos heq, ih k, List.drop_succ_cons]
    · have hbeyond : ∀ x ∈ es, ¬x.offset = o := fun x hx => by have := hhead x hx; omega
      have hnone : es.filter (fun x => x.offset = o) = [] := List.filter_eq_nil_iff.mpr (by simpa using hbeyond)
      have hlt : o < e.offset := by omega
      rw [List.filter_cons_of_neg (by simpa using heq), List.filter_cons_of_pos (by simpa using hlt), hnone, List.drop_nil,
        List.nil_append]
      match k with
      | 0 =>
        have hall := ih 0
        rw [skipEqual, hnone, List.drop_nil, List.nil_append] at hall
        rw [skipEqual, ← hall]
      | k + 1 =>
        rw [skipEqual, if_neg heq, ih (k + 1), hnone]
        rfl

theorem History.selected_eq {h : History} (hsorted : h.index.Pairwise (fun x y => x.offset ≤ y.offset)) (o skip : Nat) :
    h.selected o skip = (h.index.filter (fun e => e.offset = o)).drop skip ++ h.index.filter (fun e => o < e.offset) := by
  rw [History.selected, skipEqual_eq skip (hsorted.filter _) (fun e he => by simpa using (List.mem_filter.mp he).2),
    List.filter_filter, List.filter_filter]
  congr 2
  · exact List.filter_congr fun e _ => by simp; omega
  · funext e; simp; omega

/-- Settles O37: each read by the range of its length or its skip count. -/
theorem historyReadsChangeNothing : Obligations.HistoryReadsChangeNothing := by
  refine ⟨fun s tag n p hlaw h hp => ?_, fun s tag n p hlaw h hp => ?_⟩
  · have hl := Frame.lengthOk_of_mem (tag := tag) (node := n.toByte) hp (show (0x13, 8) ∈ fixedLengths by decide)
    have hlen : leNat (p.drop 6) = fieldAt p 6 2 := (fieldAt_last hp).symm
    rw [hlen, ← fieldAt_zero p 6]
    dsimp only
    by_cases hbad : fieldAt p 6 2 = 0 ∨ 512 < fieldAt p 6 2
    · obtain ⟨honly, hreplied⟩ := s.refused_replied (nodeFrame 0x13 tag n p)
        { result := .badParam, fields := 0 :: leBytes 6 0 ++ leBytes 2 0 ++ (s.nd n).hist.bounds }
      exact ⟨_, exec_nodeRequest_answers rfl h hl (State.readConsole_refused hbad), honly, fun _ => hreplied,
        fun _ _ => by omega⟩
    · have hreads := State.readConsole_reads (s := s.takeFrame) (n := n) (p := p) (by omega) (by omega)
      dsimp only at hreads
      rw [State.historyBytes_takeFrame] at hreads
      obtain ⟨honly, hreplied⟩ := s.refused_replied (nodeFrame 0x13 tag n p) _
      exact ⟨_, exec_nodeRequest_answers rfl h hl hreads, honly, fun hbad' => absurd hbad' hbad, fun _ _ =>
        ⟨_, State.historyBytes_length _ _ _ _, fun i hi a ha => State.historyBytes_getElem? hi ha, hreplied⟩⟩
  · have hl := Frame.lengthOk_of_mem (tag := tag) (node := n.toByte) hp (show (0x15, 7) ∈ fixedLengths by decide)
    obtain ⟨-, -, -, -, -, -, hsorted, -⟩ := (hlaw.1 n).1
    intro x off skip es
    have hes : (s.nd n).hist.selected (fieldAt p 0 6) (fieldAt p 6 1) = es := by
      rw [History.selected_eq hsorted, fieldAt_one]
      rfl
    have hskip : fieldAt p 6 1 = skip := fieldAt_one p 6
    by_cases hbad : 63 < skip
    · obtain ⟨honly, hreplied⟩ := s.refused_replied (nodeFrame 0x15 tag n p)
        { result := .badParam, fields := [0, BitVec.ofNat 8 x.length, 0] }
      exact ⟨_, exec_nodeRequest_answers rfl h hl (if_neg (by omega)), honly, fun _ => hreplied, fun _ => by omega⟩
    · have hreads : s.takeFrame.readEvents n p = s.takeFrame.answers .ok
          ([flagByte (decide (16 < es.length)), BitVec.ofNat 8 x.length, BitVec.ofNat 8 (min 16 es.length)]
            ++ (es.take 16).flatMap Event.layout) := by
        refine (if_pos (show fieldAt p 6 1 ≤ 63 by omega)).trans ?_
        rw [State.takeFrame_nd, hes, List.length_take]
        rfl
      obtain ⟨honly, hreplied⟩ := s.refused_replied (nodeFrame 0x15 tag n p) _
      exact ⟨_, exec_nodeRequest_answers rfl h hl hreads, honly, fun hbad' => absurd hbad' hbad, fun _ => hreplied⟩

/-! ### CON_DELIVERY_SET (R37, R38, R44) -/

/-- The delivery settings of a payload (R37). -/
def deliveryOf (p : List Byte) : DeliverySettings :=
  { follow := byteAt p 0 == 1
    count := min 512 (max 1 (fieldAt p 1 2))
    delay := min 1000 (fieldAt p 3 2)
    gap := fieldAt p 5 1
    mask := BitVec.ofNat 16 (fieldAt p 6 2) &&& 0x7FFF }

theorem DeliverySettings.ofPayload_listed (h : byteAt p 0 ≤ 1) : DeliverySettings.ofPayload p = some (deliveryOf p) := by
  rw [DeliverySettings.ofPayload, onOffOfCode_zero_one (Byte.le_one h), Option.map_some, clamp_eq (lo := 1) (by omega),
    clamp_eq (lo := 0) (by omega), Nat.zero_max]
  rfl

theorem Byte.le_one_of (b : Byte) : b = 0 ∨ b = 1 → b ≤ 1 := by revert b; decide

theorem Byte.le_two_of (b : Byte) : b = 0 ∨ b = 1 ∨ b = 2 → b ≤ 2 := by revert b; decide

theorem DeliverySettings.ofPayload_unlisted (h : 1 < byteAt p 0) : DeliverySettings.ofPayload p = none := by
  have hb : ¬(byteAt p 0 = 0 ∨ byteAt p 0 = 1) := fun hb => BitVec.not_le.mpr h (Byte.le_one_of _ hb)
  obtain ⟨h0, h1⟩ := not_or.mp hb
  rw [DeliverySettings.ofPayload, onOffOfCode_unlisted h0 h1]
  rfl

theorem StartChoice.ofCode_unlisted {b : Byte} (h : 2 < b) (o : Nat) : StartChoice.ofCode b o = none := by
  have hb : ¬(b = 0 ∨ b = 1 ∨ b = 2) := fun hb => BitVec.not_le.mpr h (Byte.le_two_of _ hb)
  obtain ⟨h0, h12⟩ := not_or.mp hb
  obtain ⟨h1, h2⟩ := not_or.mp h12
  rw [StartChoice.ofCode, if_neg h0, if_neg h1, if_neg h2]

/-- Where the start choice of code `b` places deliver_offset (R38). -/
theorem StartChoice.ofCode_listed {b : Byte} (hb : b ≤ 2) (o : Nat) : ∃ c, StartChoice.ofCode b o = some c ∧
    ∀ (h : History) (wasOn : Bool),
      h.startAt wasOn c = (if b = 1 ∧ wasOn = true then h.deliver else if b = 2 then h.clampOffset o else h.next,
        !decide (b = 1 ∧ wasOn = true)) ∧
      h.startClamped c = decide (b = 2 ∧ h.clampOffset o ≠ o) := by
  rcases Byte.le_two hb with rfl | rfl | rfl
  · exact ⟨.now, rfl, fun h wasOn => ⟨by simp [History.startAt], by simp [History.startClamped]⟩⟩
  · exact ⟨.continue_, rfl, fun h wasOn => ⟨by cases wasOn <;> simp [History.startAt], by simp [History.startClamped]⟩⟩
  · exact ⟨.offset o, rfl, fun h wasOn => ⟨by simp [History.startAt], by
      rw [Bool.eq_iff_iff]; simp [History.startClamped]⟩⟩

/-- The history after the settings `d`, with deliver_offset placed at `place` while follow is on (R38, R44). -/
def History.delivering (h : History) (d : DeliverySettings) (now place : Nat) (keeps : Prop) [Decidable keeps]
    (sameGap : Bool) : History :=
  { h with
    index := h.index.map (fun e => { e with unsent := e.unsent && EventKind.inMask e.kind d.mask })
    lineIdle := h.lineIdle && sameGap
    deliver := if d.follow then place else h.deliver
    gapCount := if d.follow = true ∧ keeps then h.gapCount else 0
    pacer :=
      if d.follow = true then
        if h.next = place then .idle
        else if place + d.count ≤ h.next ∨ (h.lineIdle && sameGap) = true then .due
        else .collecting (if d.delay = 0 then none else some (now + d.delay))
      else .idle }

/-- The pacer set anew from what is pending, by the offsets (R38, R42). -/
theorem History.paceAnew_eq (h : History) (d : DeliverySettings) (now : Nat) (hplace : h.deliver ≤ h.next) :
    History.paceAnew d now h = { h with
      pacer :=
        if h.next = h.deliver then .idle
        else if h.deliver + d.count ≤ h.next ∨ h.lineIdle = true then .due
        else .collecting (if d.delay = 0 then none else some (now + d.delay)) } := by
  unfold History.paceAnew History.undelivered
  congr 1
  by_cases hnone : h.next = h.deliver
  · rw [if_pos (by omega), if_pos hnone]
  · rw [if_neg (by omega), if_neg hnone]
    by_cases hcount : h.deliver + d.count ≤ h.next
    · rw [if_pos (by omega), if_pos (.inl hcount)]
    · rw [if_neg (by omega)]
      by_cases hidle : h.lineIdle = true
      · rw [if_pos hidle, if_pos (.inr hidle)]
      · rw [if_neg hidle, if_neg (not_or.mpr ⟨hcount, hidle⟩)]
        rfl

theorem History.applyFollow_eq (h : History) (d : DeliverySettings) (now place : Nat) (wasOn sameGap : Bool)
    (keeps : Prop) [Decidable keeps] (c : StartChoice) (hstart : h.startAt wasOn c = (place, !decide keeps)) (hplace : place ≤ h.next) :
    History.applyFollow d now wasOn c (({ h with lineIdle := h.lineIdle && sameGap } : History).applyMask d.mask) =
      h.delivering d now place keeps sameGap := by
  have hstart' : (({ h with lineIdle := h.lineIdle && sameGap } : History).applyMask d.mask).startAt wasOn c =
      (place, !decide keeps) := by
    rw [← hstart]; cases c <;> rfl
  unfold History.applyFollow History.delivering
  rw [hstart']
  by_cases hf : d.follow = true
  · simp only [hf, if_true, true_and]
    rw [History.paceAnew_eq _ _ _ hplace]
    by_cases hk : keeps <;> simp [hk, History.applyMask]
  · simp only [hf]
    rfl

/-- The state after a CON_DELIVERY_SET that is carried out, with `h` the history. -/
def State.paced (s : State) (n : NodeId) (d : DeliverySettings) (h : History) : State :=
  (s.mapSet n (fun x => { x with delivery := d })).setNd n { s.nd n with
    line := { (s.nd n).line with idleGap :=
      if d.gap = (s.set n).delivery.gap then (s.nd n).line.idleGap
      else if d.gap = 0 then none
      else (s.charCycles n d.gap).map (s.clock.cycles + ·) }
    hist := h }

theorem State.applyDelivery_eq (s : State) (n : NodeId) (d : DeliverySettings) (c : StartChoice) :
    s.applyDelivery n d c = s.paced n d (History.applyFollow d s.clock.ticks (s.set n).delivery.follow c
      (({ (s.nd n).hist with
        lineIdle := (s.nd n).hist.lineIdle && decide (d.gap = (s.set n).delivery.gap) } : History).applyMask d.mask)) := by
  have hline : (s.mapSet n (fun x => { x with delivery := d })).charCycles n d.gap = s.charCycles n d.gap := by
    simp [State.charCycles, State.bitPeriod, State.lineRate]
  unfold State.applyDelivery
  by_cases hgap : d.gap = (s.set n).delivery.gap
  · simp [hgap, State.mapHist, State.paced]
  · simp [hgap, State.mapHist, State.paced, State.restartIdleGap, State.mapLine, hline]

theorem exec_conDeliverySet_refused (h : s.takes (nodeFrame 0x16 tag n p) = true) (hp : p.length = 15)
    (hbad : 1 < byteAt p 0 ∨ 2 < byteAt p 8) :
    exec (.conDeliverySet tag n.toByte p) s = .next (s.takeFrame.reply (nodeFrame 0x16 tag n p)
      { result := .badParam, fields := List.replicate 8 0 ++ (s.nd n).hist.deliveryFields }) := by
  have hl := Frame.lengthOk_of_mem (tag := tag) (node := n.toByte) hp (show (0x16, 15) ∈ fixedLengths by decide)
  refine exec_nodeRequest_answers rfl h hl ?_
  show s.takeFrame.setDelivery n p = _
  rw [State.setDelivery]
  rcases hbad with hbad | hbad
  · rw [DeliverySettings.ofPayload_unlisted hbad]
    rfl
  · rw [StartChoice.ofCode_unlisted hbad]
    cases DeliverySettings.ofPayload p <;> rfl

/-- A value of the payload was changed (R37). -/
theorem deliveryOf_changedFrom (p : List Byte) (b : Bool) :
    Result.adjustedIf ((deliveryOf p).changedFrom p || b) =
      if (deliveryOf p).count ≠ fieldAt p 1 2 ∨ (deliveryOf p).delay ≠ fieldAt p 3 2 ∨
        (deliveryOf p).mask.toNat ≠ fieldAt p 6 2 ∨ b = true then .adjusted else .ok := by
  have hlt : fieldAt p 6 2 < 2 ^ 16 := (leNat_lt _).trans_le (Nat.pow_le_pow_right (by omega) (List.length_take_le _ _))
  have hmask : (deliveryOf p).mask = BitVec.ofNat 16 (fieldAt p 6 2) ↔ (deliveryOf p).mask.toNat = fieldAt p 6 2 := by
    rw [← BitVec.toNat_inj, BitVec.toNat_ofNat, Nat.mod_eq_of_lt hlt]
  simp only [Result.adjustedIf, DeliverySettings.changedFrom, Bool.or_eq_true, bne_iff_ne, ne_eq, hmask, or_assoc]

theorem exec_conDeliverySet (hn : (s.nd n).hist.Lawful) (h : s.takes (nodeFrame 0x16 tag n p) = true) (hp : p.length = 15)
    (h0 : byteAt p 0 ≤ 1) (h8 : byteAt p 8 ≤ 2) :
    let hs := (s.nd n).hist
    let d := deliveryOf p
    let o := fieldAt p 9 6
    let clamped := min hs.next (max hs.oldest o)
    let keeps := byteAt p 8 = 1 ∧ (s.set n).delivery.follow = true
    let place := if keeps then hs.deliver else if byteAt p 8 = 2 then clamped else hs.next
    let hs' := hs.delivering d s.clock.ticks place keeps (decide (d.gap = (s.set n).delivery.gap))
    exec (.conDeliverySet tag n.toByte p) s = .next ((s.takeFrame.paced n d hs').reply (nodeFrame 0x16 tag n p)
      { result := if d.count ≠ fieldAt p 1 2 ∨ d.delay ≠ fieldAt p 3 2 ∨ d.mask.toNat ≠ fieldAt p 6 2 ∨
          (d.follow = true ∧ byteAt p 8 = 2 ∧ clamped ≠ o) then .adjusted else .ok
        fields := d.layout ++ hs'.deliveryFields }) := by
  intro hs d o clamped keeps place hs'
  have hl := Frame.lengthOk_of_mem (tag := tag) (node := n.toByte) hp (show (0x16, 15) ∈ fixedLengths by decide)
  obtain ⟨c, hc, hstart⟩ := StartChoice.ofCode_listed h8 o
  obtain ⟨hplaced, hclamped⟩ := hstart hs (s.set n).delivery.follow
  rw [hn.clampOffset_eq] at hplaced hclamped
  have hplace : place ≤ hs.next := by
    obtain ⟨-, -, hdeliver, -⟩ := hn
    simp only [place, clamped]
    split
    · exact hdeliver
    · split
      · exact Nat.min_le_left _ _
      · exact Nat.le_refl _
  have happly : s.takeFrame.applyDelivery n d c = s.takeFrame.paced n d hs' := by
    rw [State.applyDelivery_eq]
    exact congrArg (s.takeFrame.paced n d) (History.applyFollow_eq hs d _ place _ _ keeps c hplaced hplace)
  have hnd : ((s.takeFrame.paced n d hs').nd n).hist = hs' := by rw [State.paced, State.nd_setNd_same]
  refine exec_nodeRequest_answers rfl h hl ?_
  show s.takeFrame.setDelivery n p = _
  rw [State.setDelivery, DeliverySettings.ofPayload_listed h0, hc]
  dsimp only
  rw [deliveryOf_changedFrom, happly, hnd, State.takeFrame_nd, hclamped]
  simp only [Bool.and_eq_true, decide_eq_true_eq]
  rfl

/-- Settles O39: the request by its codes, the history by where deliver_offset is placed. -/
theorem conDeliverySetPacesAnew : Obligations.ConDeliverySetPacesAnew := by
  intro s tag n p hlaw h hp hs old d o clamped keeps place
  by_cases hbad : 1 < byteAt p 0 ∨ 2 < byteAt p 8
  · refine ⟨_, exec_conDeliverySet_refused h hp hbad, fun _ => s.refused_replied _ _, fun h0 h8 => ?_⟩
    rcases hbad with hbad | hbad
    · exact absurd h0 (BitVec.not_le.mpr hbad)
    · exact absurd h8 (BitVec.not_le.mpr hbad)
  · simp only [not_or, BitVec.not_lt] at hbad
    obtain ⟨h0, h8⟩ := hbad
    obtain ⟨h', hh'⟩ : ∃ h', h' = hs.delivering d s.clock.ticks place keeps (decide (d.gap = old.gap)) := ⟨_, rfl⟩
    obtain ⟨a, ha⟩ : ∃ a : Answer, a =
      { result := if d.count ≠ fieldAt p 1 2 ∨ d.delay ≠ fieldAt p 3 2 ∨ d.mask.toNat ≠ fieldAt p 6 2 ∨
          (d.follow = true ∧ byteAt p 8 = 2 ∧ clamped ≠ o) then .adjusted else .ok
        fields := d.layout ++ h'.deliveryFields } := ⟨_, rfl⟩
    have hexec : exec (.conDeliverySet tag n.toByte p) s =
        .next ((s.takeFrame.paced n d h').reply (nodeFrame 0x16 tag n p) a) := by
      rw [ha, hh']
      exact exec_conDeliverySet (hlaw.1 n).1 h hp h0 h8
    have honlySet : s.takeFrame.OnlyNodeSet (s.takeFrame.paced n d h') n := by
      rw [State.paced, State.OnlyNodeSet, State.nd_setNd_same, State.set_setNd, State.set_mapSet_same]
      exact congrArg (fun v : State => v.setNd n _) (State.mapSet_congr rfl)
    obtain ⟨honly, hreplied⟩ := honlySet.answered (nodeFrame 0x16 tag n p) a
    have hset : (s.takeFrame.paced n d h').set n = { s.set n with delivery := d } := by
      rw [State.paced, State.set_setNd, State.set_mapSet_same]; rfl
    have hnd : (s.takeFrame.paced n d h').nd n = { s.nd n with
        line := { (s.nd n).line with idleGap := if d.gap = old.gap then (s.nd n).line.idleGap
          else if d.gap = 0 then none else (s.charCycles n d.gap).map (s.clock.cycles + ·) }
        hist := h' } := State.nd_setNd_same _ _ _
    refine ⟨_, hexec, fun hbad' => ?_, fun _ _ => ⟨honly, ?_, ?_, fun hf => ?_, fun hf => ?_, ?_⟩⟩
    · rcases hbad' with hbad' | hbad'
      · exact absurd h0 (BitVec.not_le.mpr hbad')
      · exact absurd h8 (BitVec.not_le.mpr hbad')
    · rw [State.reply_set, hset]
    · rw [State.reply_nd, hnd, hh']
      rfl
    · rw [State.reply_nd, hnd, hh']
      exact if_neg (by rw [hf]; exact Bool.false_ne_true)
    · rw [State.reply_nd, hnd, hh']
      exact if_pos hf
    · have hfields : a.fields = flagByte d.follow :: leBytes 2 d.count ++ leBytes 2 d.delay ++ leBytes 1 d.gap
          ++ leBytes 2 d.mask.toNat ++ leBytes 6 h'.deliver ++ leBytes 6 hs.next ++ [h'.pacer.code] := by
        rw [ha, hh']
        simp only [DeliverySettings.layout, History.deliveryFields, History.delivering, List.append_assoc]
      rw [State.reply_nd, hnd]
      dsimp only
      rw [← hfields]
      rw [ha] at hreplied ⊢
      exact hreplied

/-! ### CON_WATCH_SET (R48, R49) -/

/-- The power kinds a POWER action may name. -/
def watchPowers : List (Byte × WatchPower) := [(2, .offSoft), (5, .cycle), (6, .reset), (7, .diag)]

theorem WatchPower.ofCode_eq (b : Byte) : WatchPower.ofCode b = watchPowers.lookup b := by revert b; decide

theorem WatchAction.ofCode_eq (action power : Byte) : WatchAction.ofCode action power =
    if action = 0 then some WatchAction.notice else if action = 1 then some .mark
      else if action = 2 then some .kick else if action = 3 then (watchPowers.lookup power).map .power
      else if action = 4 then some .detach else none := by
  rw [WatchAction.ofCode, WatchPower.ofCode_eq]

section
variable {i choice opts action power count : Byte} {bytes : List Byte}

/-- The record of a payload with choice 1. -/
def patternOf (opts action power : Byte) (bytes : List Byte) : Option Pattern :=
  (WatchAction.ofCode action power).map (fun a =>
    { bytes := bytes, fold := opts.getLsbD 0, once := opts.getLsbD 1, action := a })

theorem Pattern.ofPayload_eq (hcount : bytes.length = count.toNat) :
    Pattern.ofPayload (i :: 1 :: opts :: action :: power :: count :: bytes) =
      if 1 ≤ bytes.length ∧ bytes.length ≤ 32 then patternOf opts action power bytes else none := by
  have hfield : fieldAt (i :: 1 :: opts :: action :: power :: count :: bytes) 5 1 = bytes.length := by
    rw [fieldAt_one, hcount]; rfl
  unfold Pattern.ofPayload
  rw [hfield]
  exact if_congr (within_eq_true_iff _ _ _) rfl rfl

/-- What a payload puts in its place. -/
def watchRecord (choice opts action power : Byte) (bytes : List Byte) : Option Pattern :=
  if choice = 0 then none else patternOf opts action power bytes

/-- The payload of a CON_WATCH_SET. -/
def watchPayload (i choice opts action power count : Byte) (bytes : List Byte) : List Byte :=
  if choice = 0 then [i, choice] else i :: choice :: opts :: action :: power :: count :: bytes

/-- The record of a CON_WATCH_SET is well formed (R49). -/
def WatchRecordOk (choice action power : Byte) (bytes : List Byte) : Prop :=
  choice = 1 → 1 ≤ bytes.length ∧ bytes.length ≤ 32 ∧ WatchAction.ofCode action power ≠ none

theorem watchChoice_ok (hchoice : choice = 0 ∨ choice = 1) (hcount : choice = 1 → bytes.length = count.toNat)
    (hok : WatchRecordOk choice action power bytes) :
    watchChoice (watchPayload i choice opts action power count bytes) =
      some (watchRecord choice opts action power bytes) := by
  rcases hchoice with rfl | rfl
  · rfl
  · obtain ⟨hlo, hhi, hact⟩ := hok rfl
    obtain ⟨a, ha⟩ := Option.ne_none_iff_exists'.mp hact
    show (Pattern.ofPayload (i :: 1 :: opts :: action :: power :: count :: bytes)).map some = some (patternOf opts action power bytes)
    rw [Pattern.ofPayload_eq (hcount rfl), if_pos ⟨hlo, hhi⟩, patternOf, ha]
    rfl

theorem watchChoice_bad (hchoice : choice = 0 ∨ choice = 1) (hcount : choice = 1 → bytes.length = count.toNat)
    (hbad : ¬WatchRecordOk choice action power bytes) :
    watchChoice (watchPayload i choice opts action power count bytes) = none := by
  rcases hchoice with rfl | rfl
  · exact absurd (fun h => absurd h (by decide)) hbad
  · show (Pattern.ofPayload (i :: 1 :: opts :: action :: power :: count :: bytes)).map some = none
    rw [Pattern.ofPayload_eq (hcount rfl)]
    split
    · next hlen =>
      have hact : WatchAction.ofCode action power = none := by
        by_contra hact
        exact hbad fun _ => ⟨hlen.1, hlen.2, hact⟩
      rw [patternOf, hact]
      rfl
    · rfl

theorem watchPayload_length (hchoice : choice = 0 ∨ choice = 1) (hcount : choice = 1 → bytes.length = count.toNat) (tag : Byte) :
    Frame.lengthOk ⟨0x17, tag, n.toByte, watchPayload i choice opts action power count bytes⟩ = true := by
  rcases hchoice with rfl | rfl
  · rfl
  · show (1 == 1 && bytes.length == count.toNat) = true
    simp [hcount rfl]

theorem watchPayload_index (hchoice : choice = 0 ∨ choice = 1) :
    fieldAt (watchPayload i choice opts action power count bytes) 0 1 = i.toNat := by
  rw [fieldAt_one]
  rcases hchoice with rfl | rfl <;> rfl

theorem State.applyWatch_onlySet (s : State) (n : NodeId) (i : Nat) (x : Option Pattern) :
    s.OnlyNodeSet (s.applyWatch n i x) n := by
  have hset : (s.applyWatch n i x).set n = { s.set n with watch := (s.set n).watch.set i x } := by
    simp [State.applyWatch, State.mapPlace, State.mapWatch]
  have hmap : s.mapSet n (fun _ => (s.applyWatch n i x).set n) =
      s.mapSet n (fun y => { y with watch := y.watch.set i x }) := State.mapSet_congr hset
  rw [State.OnlyNodeSet, hmap]
  simp [State.applyWatch, State.mapPlace, State.mapWatch]

/-- Settles O40: the record by its checks, then the index. -/
theorem conWatchSetReplacesOnePlace : Obligations.ConWatchSetReplacesOnePlace := by
  intro s tag n i choice opts action power count bytes hchoice p h hcount kinds act good record
  have hact : act = WatchAction.ofCode action power := (WatchAction.ofCode_eq action power).symm
  have hl := watchPayload_length (n := n) (i := i) (opts := opts) (action := action) (power := power) hchoice hcount tag
  have hindex := watchPayload_index (i := i) (opts := opts) (action := action) (power := power) (count := count)
    (bytes := bytes) hchoice
  have hle : i ≤ 7 ↔ i.toNat ≤ 7 := Iff.rfl
  have hfields (v : State) : v.watchFields n i.toNat = [i, BitVec.ofNat 8 ((v.set n).watch.countP Option.isSome)] := by
    rw [State.watchFields, BitVec.ofNat_toNat, BitVec.setWidth_eq]
  have hgood : good ↔ i.toNat ≤ 7 ∧ WatchRecordOk choice action power bytes := by
    simp only [good, hact, hle, WatchRecordOk]
  have hrecord : record = watchRecord choice opts action power bytes := by
    simp only [record, hact]
    rfl
  by_cases hg : good
  · obtain ⟨hi, hok⟩ := hgood.mp hg
    have hcarried : s.takeFrame.setWatch n p = (s.takeFrame.applyWatch n i.toNat record).answers .ok
        [i, BitVec.ofNat 8 (((s.takeFrame.applyWatch n i.toNat record).set n).watch.countP Option.isSome)] := by
      rw [State.setWatch, show watchChoice p = _ from watchChoice_ok hchoice hcount hok, hrecord]
      dsimp only
      rw [show fieldAt p 0 1 = i.toNat from hindex, if_pos hi, hfields]
    obtain ⟨honly, hreplied⟩ := (s.takeFrame.applyWatch_onlySet n i.toNat record).answered (nodeFrame 0x17 tag n p)
      { result := .ok
        fields := [i, BitVec.ofNat 8 (((s.takeFrame.applyWatch n i.toNat record).set n).watch.countP Option.isSome)] }
    refine ⟨_, exec_nodeRequest_answers rfl h hl hcarried, fun hbad => absurd hg hbad, fun _ => ⟨honly, ?_, ?_, ?_⟩⟩
    · rw [State.reply_set]
      simp [State.applyWatch, State.mapPlace, State.mapWatch]
    · rw [State.reply_nd]
      simp [State.applyWatch, State.mapPlace, State.mapWatch]
    · rw [State.reply_set]
      exact hreplied
  · have hcarried : s.takeFrame.setWatch n p = s.takeFrame.answers .badParam
        [i, BitVec.ofNat 8 ((s.set n).watch.countP Option.isSome)] := by
      rw [State.setWatch, show fieldAt p 0 1 = i.toNat from hindex, hfields]
      by_cases hok : WatchRecordOk choice action power bytes
      · rw [show watchChoice p = _ from watchChoice_ok hchoice hcount hok]
        exact if_neg fun hi => hg (hgood.mpr ⟨hi, hok⟩)
      · rw [show watchChoice p = _ from watchChoice_bad hchoice hcount hok]
        rfl
    exact ⟨_, exec_nodeRequest_answers rfl h hl hcarried, fun _ => s.refused_replied _ _, fun hg' => absurd hg' hg⟩

end

end

end Sys2Proof.Machine
end


section
/-! PROOFS. Matching is exact (O41): bytes are compared by their canonical forms, and the progress is the longest beginning
that ends the text, shorter than the whole. -/

namespace Sys2Proof.Machine

set_option Elab.async false

/-! ### Bytes by their canonical forms (R50) -/

/-- The form of a byte that folding compares: a capital letter as its small one. -/
def canonical (fold : Bool) (x : Byte) : Nat :=
  if fold = true ∧ 0x41 ≤ x.toNat ∧ x.toNat ≤ 0x5A then x.toNat + 0x20 else x.toNat

theorem bytesMatch_iff (fold : Bool) (x y : Byte) : bytesMatch fold x y = true ↔ canonical fold x = canonical fold y := by
  have heq : x = y ↔ x.toNat = y.toNat := BitVec.toNat_inj.symm
  cases fold
  · simp [bytesMatch, canonical, heq]
  · simp only [bytesMatch, letterPair, canonical, Bool.true_and, Bool.or_eq_true, beq_iff_eq, decide_eq_true_eq, heq, true_and]
    split <;> split <;> omega

theorem runsMatch_iff (fold : Bool) (xs ys : List Byte) :
    runsMatch fold xs ys = true ↔ xs.map (canonical fold) = ys.map (canonical fold) := by
  induction xs generalizing ys with
  | nil => cases ys <;> simp [runsMatch]
  | cons x xs ih => cases ys <;> simp [runsMatch, bytesMatch_iff, ih]

/-! ### Prefixes of the pattern that end a text (R51) -/

section
variable {P T : List Nat} {c i j k m : Nat}

/-- Of two beginnings that end the same text the shorter ends the longer. -/
theorem take_suffix_take (hj : P.take j <:+ T) (hk : P.take k <:+ T) (hle : j ≤ k) : P.take j <:+ P.take k :=
  List.suffix_of_suffix_length_le hj hk (by simp only [List.length_take]; omega)

theorem concat_suffix_concat {a b : List Nat} {x y : Nat} : a ++ [x] <:+ b ++ [y] ↔ a <:+ b ∧ x = y := by
  rw [← List.reverse_prefix, List.reverse_append, List.reverse_append, List.reverse_singleton, List.reverse_singleton,
    List.singleton_append, List.singleton_append, List.cons_prefix_cons, List.reverse_prefix, and_comm]

/-- A beginning of the pattern ends a text with one more byte when the beginning before its last byte ends the text and that byte is its
last. -/
theorem take_succ_suffix_iff (hi : i < P.length) : P.take (i + 1) <:+ T ++ [c] ↔ P.take i <:+ T ∧ P[i]? = some c := by
  rw [← List.take_concat_get' P i hi, concat_suffix_concat, List.getElem?_eq_getElem hi, Option.some.injEq]

/-- `k` is the longest beginning of at most `m` bytes that ends the text. -/
def Longest (P T : List Nat) (m k : Nat) : Prop :=
  k ≤ m ∧ P.take k <:+ T ∧ ∀ j, j ≤ m → P.take j <:+ T → j ≤ k

end

/-- The pattern's bytes in canonical form. -/
def Pattern.canonical (p : Pattern) : List Nat := p.bytes.map (Machine.canonical p.fold)

section
variable {p : Pattern} {T : List Nat} {b : Byte} {k m : Nat}

@[simp] theorem Pattern.canonical_length (p : Pattern) : p.canonical.length = p.bytes.length := List.length_map _

theorem Pattern.isBorder_iff {j : Nat} (hj : j ≤ k) (hk : k ≤ p.bytes.length) :
    p.isBorder k j = true ↔ p.canonical.take j <:+ p.canonical.take k := by
  have hlen : (p.canonical.take j).length = j := by simp; omega
  have hlenk : (p.canonical.take k).length = k := by simp; omega
  rw [Pattern.isBorder, runsMatch_iff, List.map_take, List.map_drop, List.map_take, List.suffix_iff_eq_drop, hlen, hlenk]
  rfl

/-- The longest border of at most `m` bytes. -/
theorem Pattern.borderUpTo_longest (hm : m ≤ k) (hk : k ≤ p.bytes.length) :
    Longest p.canonical (p.canonical.take k) m (p.borderUpTo k m) := by
  induction m with
  | zero => exact ⟨Nat.le_refl 0, List.nil_suffix, fun j hj _ => hj⟩
  | succ m ih =>
    obtain ⟨hle, hsuffix, hmax⟩ := ih (by omega)
    have hborder := Pattern.isBorder_iff (p := p) hm hk
    rw [Pattern.borderUpTo]
    split
    · next h => exact ⟨Nat.le_refl _, hborder.mp h, fun j hj _ => hj⟩
    · next h =>
      refine ⟨by omega, hsuffix, fun j hj hjs => ?_⟩
      have hne : j ≠ m + 1 := fun he => h (hborder.mpr (he ▸ hjs))
      exact hmax j (by omega) hjs

theorem Pattern.border_longest (hk : k ≤ p.bytes.length) :
    Longest p.canonical (p.canonical.take k) (k - 1) (p.border k) := Pattern.borderUpTo_longest (by omega) hk

theorem Pattern.matches_iff (hk : k < p.bytes.length) :
    ((p.bytes[k]?).map (bytesMatch p.fold b)).getD false = true ↔ p.canonical[k]? = some (Machine.canonical p.fold b) := by
  rw [Pattern.canonical, List.getElem?_map, List.getElem?_eq_getElem hk, Option.map_some, Option.map_some, Option.getD_some,
    bytesMatch_iff, Option.some.injEq, eq_comm]

/-- From a progress the byte leads to the longest beginning that ends the part already matched with that byte. -/
theorem Pattern.advance_longest (fuel : Nat) (hfuel : k < fuel) (hk : k < p.bytes.length) :
    Longest p.canonical (p.canonical.take k ++ [Machine.canonical p.fold b]) (k + 1) (p.advance b fuel k) := by
  induction fuel generalizing k with
  | zero => omega
  | succ fuel ih =>
    have hlast (i : Nat) (hi : i < p.bytes.length) (T : List Nat) :
        p.canonical.take (i + 1) <:+ T ++ [Machine.canonical p.fold b] ↔
          p.canonical.take i <:+ T ∧ p.canonical[i]? = some (Machine.canonical p.fold b) :=
      take_succ_suffix_iff (by simpa using hi)
    rw [Pattern.advance]
    by_cases hmatch : p.canonical[k]? = some (Machine.canonical p.fold b)
    · rw [if_pos ((Pattern.matches_iff hk).mpr hmatch)]
      exact ⟨Nat.le_refl _, (hlast k hk _).mpr ⟨List.suffix_refl _, hmatch⟩, fun j hj _ => hj⟩
    · rw [if_neg fun h => hmatch ((Pattern.matches_iff hk).mp h)]
      by_cases hzero : k = 0
      · rw [if_pos hzero]
        refine ⟨by omega, List.nil_suffix, fun j hj hjs => ?_⟩
        match j with
        | 0 => exact Nat.le_refl 0
        | j + 1 =>
          obtain rfl : j = k := by omega
          exact absurd ((hlast j hk _).mp hjs).2 hmatch
      · rw [if_neg hzero]
        obtain ⟨hle, hsuffix, hmax⟩ := Pattern.border_longest (p := p) (k := k) (by omega)
        obtain ⟨hle', hsuffix', hmax'⟩ := ih (k := p.border k) (by omega) (by omega)
        refine ⟨by omega, hsuffix'.trans ?_, fun j hj hjs => ?_⟩
        · exact concat_suffix_concat.mpr ⟨hsuffix, rfl⟩
        · match j with
          | 0 => exact Nat.zero_le _
          | j + 1 =>
            obtain ⟨hends, hbyte⟩ := (hlast j (by omega) _).mp hjs
            have hne : j ≠ k := fun he => hmatch (he ▸ hbyte)
            have hj' := hmax j (by omega) hends
            exact hmax' (j + 1) (by omega) ((hlast j (by omega) _).mpr ⟨take_suffix_take hends hsuffix hj', hbyte⟩)

/-- The byte leads to the longest beginning of all that ends the text with that byte; it hits where that is the whole. -/
theorem Pattern.examine_longest (hk : Longest p.canonical T (p.bytes.length - 1) k) (hne : p.bytes ≠ []) :
    let T' := T ++ [Machine.canonical p.fold b]
    Longest p.canonical T' (p.bytes.length - 1) (p.examine b k).1 ∧
      ((p.examine b k).2 = true ↔ p.canonical <:+ T') := by
  intro T'
  have hpos : 0 < p.bytes.length := List.length_pos_iff.mpr hne
  obtain ⟨hle, hsuffix, hmax⟩ := hk
  obtain ⟨hle', hsuffix', hmax'⟩ := Pattern.advance_longest (p := p) (b := b) (k := k) (k + 1) (by omega) (by omega)
  have hall : Longest p.canonical T' p.bytes.length (p.advance b (k + 1) k) := by
    refine ⟨by omega, hsuffix'.trans (concat_suffix_concat.mpr ⟨hsuffix, rfl⟩), fun j hj hjs => ?_⟩
    match j with
    | 0 => exact Nat.zero_le _
    | j + 1 =>
      have hj' : j < p.canonical.length := by simpa using hj
      obtain ⟨hends, hbyte⟩ := (take_succ_suffix_iff hj').mp hjs
      have hjk := hmax j (by omega) hends
      exact hmax' (j + 1) (by omega) ((take_succ_suffix_iff hj').mpr ⟨take_suffix_take hends hsuffix hjk, hbyte⟩)
  obtain ⟨-, hends, hmost⟩ := hall
  have hwhole : p.canonical.take p.bytes.length = p.canonical := List.take_of_length_le (by simp)
  have hhit : p.advance b (k + 1) k = p.bytes.length ↔ p.canonical <:+ T' := by
    refine ⟨fun h => by rwa [h, hwhole] at hends, fun h => ?_⟩
    have := hmost p.bytes.length (Nat.le_refl _) (by rwa [hwhole])
    omega
  rw [Pattern.examine]
  split
  · next h =>
    rw [h]
    obtain ⟨hb, hbsuffix, hbmax⟩ := Pattern.border_longest (p := p) (k := p.bytes.length) (Nat.le_refl _)
    rw [hwhole] at hbsuffix hbmax
    have hp : p.canonical <:+ T' := hhit.mp h
    refine ⟨⟨hb, hbsuffix.trans hp, fun j hj hjs => hbmax j hj ?_⟩, by simp [hp]⟩
    exact List.suffix_of_suffix_length_le hjs hp (by simp)
  · next h =>
    refine ⟨⟨by omega, hends, fun j hj hjs => hmost j (by omega) hjs⟩, by simp [← hhit, h]⟩

theorem Pattern.spells_iff (hk : k ≤ p.bytes.length) (text : List Byte) :
    p.Spells k text ↔ p.canonical.take k <:+ text.map (Machine.canonical p.fold) := by
  have hlen : (p.canonical.take k).length = k := by simp; omega
  rw [Pattern.Spells, runsMatch_iff, List.map_take, List.map_drop, List.suffix_iff_eq_drop, hlen, List.length_map]
  refine ⟨fun h => h.2, fun h => ⟨?_, h⟩⟩
  have := congrArg List.length h
  rw [hlen, List.length_drop, List.length_map] at this
  omega

theorem Pattern.after_longest (hne : p.bytes ≠ []) (text : List Byte) :
    Longest p.canonical (text.map (Machine.canonical p.fold)) (p.bytes.length - 1) (p.after text) := by
  induction text using List.reverseRecOn with
  | nil =>
    refine ⟨Nat.zero_le _, List.nil_suffix, fun j hj hjs => ?_⟩
    have := congrArg List.length (List.suffix_nil.mp hjs)
    simp only [List.length_take, List.length_nil, Pattern.canonical_length] at this
    omega
  | append_singleton text b ih =>
    rw [Pattern.after, List.foldl_append, List.map_append]
    exact (Pattern.examine_longest (b := b) ih hne).1

/-- Settles O41: by induction on the text; each byte keeps the progress the longest beginning. -/
theorem watchMatchIsExact : Obligations.WatchMatchIsExact := by
  intro p text b hne
  have hpos : 0 < p.bytes.length := List.length_pos_iff.mpr hne
  obtain ⟨hle, hsuffix, hmax⟩ := Pattern.after_longest hne text
  obtain ⟨-, hhit⟩ := Pattern.examine_longest (b := b) (Pattern.after_longest hne text) hne
  refine ⟨by omega, (Pattern.spells_iff (by omega) text).mpr hsuffix, fun k hk hks => ?_, ?_⟩
  · exact hmax k (by omega) ((Pattern.spells_iff (by omega) text).mp hks)
  · rw [hhit, Pattern.spells_iff (Nat.le_refl _), List.take_of_length_le (by simp), List.map_append]
    rfl

end

end Sys2Proof.Machine
end


section
/-! PROOFS. The hits of a byte and their actions (O42). -/

namespace Sys2Proof.Machine

set_option Elab.async false

/-! ### The places that hit (R51, R52) -/

theorem examinePlace_hits_iff (b : Byte) (pat : Option Pattern) (pl : Place) :
    (examinePlace b pat pl).2 = true ↔ ∃ p, pat = some p ∧ (p.examine b pl.progress).2 = true := by
  cases pat <;> simp [examinePlace]

/-- The places that hit, by their number from `k`, in order. -/
theorem hitPlaces_says (b : Byte) (k : Nat) (pats : List (Option Pattern)) (pls : List Place) :
    (hitPlaces b k pats pls).Pairwise (· < ·) ∧ ∀ i, i ∈ hitPlaces b k pats pls ↔
      ∃ j p pl, i = k + j ∧ pats[j]? = some (some p) ∧ pls[j]? = some pl ∧ (p.examine b pl.progress).2 = true := by
  induction pats generalizing k pls with
  | nil => simp [hitPlaces]
  | cons pat pats ih =>
    cases pls with
    | nil => simp [hitPlaces]
    | cons pl pls =>
      obtain ⟨hsorted, hmem⟩ := ih (k + 1) pls
      have hlater : ∀ i ∈ hitPlaces b (k + 1) pats pls, k < i := fun i hi => by
        obtain ⟨j, -, -, rfl, -⟩ := (hmem i).mp hi
        omega
      have hrest (i : Nat) : (∃ j p x, i = k + j ∧ (pat :: pats)[j]? = some (some p) ∧ (pl :: pls)[j]? = some x ∧
          (p.examine b x.progress).2 = true) ↔
          (i = k ∧ (examinePlace b pat pl).2 = true) ∨ i ∈ hitPlaces b (k + 1) pats pls := by
        rw [hmem, examinePlace_hits_iff]
        constructor
        · rintro ⟨j, p, x, rfl, hp, hx, hhit⟩
          match j with
          | 0 =>
            simp only [List.getElem?_cons_zero, Option.some.injEq] at hp hx
            subst hx
            exact .inl ⟨rfl, p, hp, hhit⟩
          | j + 1 => exact .inr ⟨j, p, x, by omega, by simpa using hp, by simpa using hx, hhit⟩
        · rintro (⟨rfl, p, rfl, hhit⟩ | ⟨j, p, x, rfl, hp, hx, hhit⟩)
          · exact ⟨0, p, pl, rfl, rfl, rfl, hhit⟩
          · exact ⟨j + 1, p, x, by omega, by simpa using hp, by simpa using hx, hhit⟩
      rw [hitPlaces]
      split
      · next h =>
        refine ⟨List.pairwise_cons.mpr ⟨hlater, hsorted⟩, fun i => ?_⟩
        rw [hrest, List.mem_cons]
        simp [h]
      · next h =>
        refine ⟨hsorted, fun i => ?_⟩
        rw [hrest]
        simp [h]

section
variable {s t : State} {n : NodeId} {i : Nat} {p : Pattern} {b : Byte}

theorem State.pattern_eq_some_iff : s.pattern n i = some p ↔ (s.set n).watch[i]? = some (some p) := by
  unfold State.pattern
  cases (s.set n).watch[i]? <;> simp

/-- The state in which a byte has brought every progress up to date. -/
def State.examined (s : State) (n : NodeId) (b : Byte) : State :=
  s.mapWatch n (fun pls => List.zipWith (fun pat pl => (examinePlace b pat pl).1) (s.set n).watch pls)

theorem State.watchByte_eq (s : State) (n : NodeId) (b : Byte) :
    s.watchByte n b = (hitPlaces b 0 (s.set n).watch (s.nd n).watch).foldl (fun t i => t.takeHit n i) (s.examined n b) := rfl

theorem State.examined_place (hset : (s.set n).watch.length = 8) (hnd : (s.nd n).watch.length = 8) (i : Nat) :
    (s.pattern n i = none → (s.examined n b).place n i = s.place n i) ∧
      ∀ p, i < 8 → s.pattern n i = some p →
        (s.examined n b).place n i = { s.place n i with progress := (p.examine b (s.place n i).progress).1 } := by
  have hwatch : ((s.examined n b).nd n).watch =
      List.zipWith (fun pat pl => (examinePlace b pat pl).1) (s.set n).watch (s.nd n).watch := by
    simp [State.examined, State.mapWatch]
  simp only [State.place, hwatch, List.getElem?_zipWith', State.pattern]
  rcases Nat.lt_or_ge i 8 with hi | hi
  · rw [List.getElem?_eq_getElem (by omega), List.getElem?_eq_getElem (by omega)]
    constructor
    · intro hnone
      simp only [Option.getD_some] at hnone
      simp [hnone, examinePlace]
    · intro p _ hp
      simp only [Option.getD_some] at hp
      simp [hp, examinePlace]
  · rw [List.getElem?_eq_none (by omega), List.getElem?_eq_none (by omega)]
    exact ⟨fun _ => rfl, fun p hi' => by omega⟩

/-! ### A hit (R54 to R58) -/

/-- The hit of place `i`, recorded, and its once-per-boot flag set where so chosen. -/
def State.hitTaken (s : State) (n : NodeId) (i : Nat) (once : Bool) : State :=
  let r := s.record n .watchHit (BitVec.ofNat 16 i)
  if once then r.setNd n { r.nd n with watch := (r.nd n).watch.modify i (fun x => { x with hit := true }) } else r

theorem State.takeHit_stays (hp : s.pattern n i = some p) (hstays : p.once = true ∧ (s.place n i).hit = true) :
    s.takeHit n i = s.record n .watchHit (BitVec.ofNat 16 i) := by
  rw [State.takeHit, hp]
  exact if_pos hstays

theorem State.takeHit_runs (hp : s.pattern n i = some p) (hruns : ¬(p.once = true ∧ (s.place n i).hit = true)) :
    s.takeHit n i = (s.hitTaken n i p.once).watchAction n p.bytes.length p.action := by
  rw [State.takeHit, hp]
  exact if_neg hruns

theorem State.hitTaken_frame (s : State) (n : NodeId) (i : Nat) (once : Bool) :
    (s.hitTaken n i once).cfg = s.cfg ∧ ((s.hitTaken n i once).nd n).power = (s.nd n).power ∧
      ((s.hitTaken n i once).nd n).hist =
        (s.nd n).hist.record (s.set n).delivery.mask (s.nd n).power.boot .watchHit (BitVec.ofNat 16 i) := by
  unfold State.hitTaken
  cases once <;> simp [State.record_eq]

theorem State.watchMaySubmit_iff : s.watchMaySubmit n = true ↔
    s.condition n = .on ∧ ((s.nd n).power.ctrl = .idle ∨ ∃ a ab, (s.nd n).power.ctrl = .acting a none ab) := by
  unfold State.watchMaySubmit
  cases (s.nd n).power.ctrl with
  | acting a q ab => cases q <;> simp
  | _ => simp

theorem modify_concat {α : Type} (f : α → α) (l : List α) (x : α) : (l ++ [x]).modify l.length f = l ++ [f x] := by
  induction l with
  | nil => rfl
  | cons y l ih => simp [ih]

/-- The power-dropped flag goes into the newest entry. -/
theorem History.dropPower_of_newest {h : History} {before : List Event} {e : Event} (hindex : h.index = before ++ [e]) :
    h.dropPower = { h with index := before ++ [{ e with detail := e.detail ||| powerDropped }] } := by
  rw [History.dropPower, hindex]
  congr 1
  rw [List.length_append, List.length_singleton, Nat.add_sub_cancel, modify_concat]

/-- Settles O42: the places by the scan, then the hit by its action. -/
theorem watchTakesItsHits : Obligations.WatchTakesItsHits := by
  refine ⟨fun s n b hset hnd => ?_, fun s n i p hp hi _ => ?_⟩
  · obtain ⟨hsorted, hmem⟩ := hitPlaces_says b 0 (s.set n).watch (s.nd n).watch
    refine ⟨_, hsorted, fun i => ?_, s.examined n b, ?_, ?_, ?_, State.examined_place hset hnd, s.watchByte_eq n b⟩
    · rw [hmem]
      constructor
      · rintro ⟨j, p, pl, rfl, hp, hpl, hhit⟩
        have hj : j < 8 := by rw [← hnd]; exact (List.getElem?_eq_some_iff.mp hpl).1
        rw [Nat.zero_add]
        exact ⟨p, State.pattern_eq_some_iff.mpr hp, hj, by rw [State.place, hpl]; exact hhit⟩
      · rintro ⟨p, hp, hi, hhit⟩
        have hpl : (s.nd n).watch[i]? = some (s.place n i) := by
          rw [State.place, List.getElem?_eq_getElem (by omega)]; rfl
        exact ⟨i, p, _, (Nat.zero_add i).symm, State.pattern_eq_some_iff.mp hp, hpl, hhit⟩
    · simp [State.examined, State.OnlyNode, State.mapWatch]
    · simp [State.examined, State.mapWatch]
    · simp [State.examined, State.mapWatch, hset, hnd]
  · intro r u h
    obtain ⟨hcfg, hpower, hhist⟩ := s.hitTaken_frame n i p.once
    have hu : u = s.hitTaken n i p.once := rfl
    rw [← hu] at hcfg hpower hhist
    refine ⟨State.takeHit_stays hp, fun hruns => ?_⟩
    have htaken := State.takeHit_runs hp hruns
    rw [← hu] at htaken
    have hcond : u.watchMaySubmit n = true ↔
        s.condition n = .on ∧ ((s.nd n).power.ctrl = .idle ∨ ∃ a ab, (s.nd n).power.ctrl = .acting a none ab) := by
      rw [State.watchMaySubmit_iff, State.condition, hpower]; rfl
    refine ⟨fun ha => ?_, fun ha => ?_, fun ha => ?_, fun ha => ?_, fun k ha => ⟨fun hc => ?_, fun hc => ?_⟩⟩ <;>
      rw [htaken, ha]
    · rfl
    · show u.setMark n (h.next - p.bytes.length) = _
      rw [State.setMark_eq, State.set, hcfg, hpower]
      rfl
    · rfl
    · rfl
    · exact if_pos (hcond.mpr hc)
    · obtain ⟨before, hbefore⟩ : ∃ before, h.index = before ++
          [⟨(s.nd n).hist.next, .watchHit, BitVec.ofNat 16 i, (s.nd n).power.boot, EventKind.inMask .watchHit (s.set n).delivery.mask⟩] := by
        rw [show h = _ from hhist, History.record, History.push_eq]
        exact ⟨_, rfl⟩
      refine ⟨before, _, hbefore, (if_neg fun hc' => hc (hcond.mp hc')).trans ?_⟩
      rw [State.mapHist, show (u.nd n).hist = h from rfl, History.dropPower_of_newest hbefore]
      rfl

end

end Sys2Proof.Machine
end


section
/-! PROOFS. Recycling the oldest page and recording an entry (O36). -/

namespace Sys2Proof.Machine

set_option Elab.async false

section
variable {h : History} {mask boot : Half} {follow : Bool} {k : Nat}

/-! ### Entries below an offset leave an index in order of offset (R33) -/

/-- In a list that a predicate splits into a first part and a rest, dropping the first part is filtering. -/
theorem dropWhile_eq_filter_of_ordered {l : List Event} (hs : l.Pairwise (fun x y => x.offset ≤ y.offset)) :
    l.dropWhile (fun e => e.offset < k) = l.filter (fun e => k ≤ e.offset) ∧
      l.takeWhile (fun e => e.offset < k) = l.filter (fun e => e.offset < k) := by
  induction l with
  | nil => exact ⟨rfl, rfl⟩
  | cons e l ih =>
    obtain ⟨hhead, htail⟩ := List.pairwise_cons.mp hs
    obtain ⟨hdrop, htake⟩ := ih htail
    by_cases he : e.offset < k
    · have hnot : ¬k ≤ e.offset := by omega
      simp [he, hnot, hdrop, htake]
    · have hall : ∀ x ∈ l, k ≤ x.offset := fun x hx => by have := hhead x hx; omega
      have hkeep : l.filter (fun e => k ≤ e.offset) = l := List.filter_eq_self.mpr (by simpa using hall)
      have hnone : l.filter (fun e => e.offset < k) = [] := List.filter_eq_nil_iff.mpr (by simpa using hall)
      have hle : k ≤ e.offset := by omega
      simp [he, hle, hkeep, hnone]

theorem getLast?_dropWhile_concat {l : List Event} {e : Event} {p : Event → Bool} (he : p e = false) :
    ((l ++ [e]).dropWhile p).getLast? = some e := by
  induction l with
  | nil => simp [he]
  | cons x l ih =>
    rw [List.cons_append, List.dropWhile_cons]
    split
    · exact ih
    · rw [← List.cons_append, List.getLast?_concat]

/-! ### The oldest page is recycled (R28, R31, R43) -/

theorem History.loseMark_kept (hkept : ∀ m, h.mark = some m → h.oldest + 512 ≤ m) : h.loseMark mask boot = h := by
  unfold History.loseMark
  split
  · rfl
  · next m hm => exact if_neg (by have := hkept m hm; simp only [Config.pageBytes]; omega)

theorem History.loseMark_lost {m : Nat} (hm : h.mark = some m) (hlt : m < h.oldest + 512) :
    h.loseMark mask boot = History.record mask boot .markLost 0 { h with mark := none } := by
  rw [History.loseMark, hm]
  exact if_pos hlt

theorem History.recycle_eq (hr : h.ring ≠ []) : h.recycle mask boot follow =
    { h.discardOldestPage mask boot follow with ring := h.ring.tail ++ h.ring.take 1 } := by
  unfold History.recycle
  cases hring : h.ring with
  | nil => exact absurd hring hr
  | cons p ps => rfl

/-- What giving up the oldest page does to the index and its count. -/
theorem History.discardOldestPage_index : (h.discardOldestPage mask boot follow).index =
      (h.loseMark mask boot).index.dropWhile (fun e => e.offset < h.oldest + 512) ∧
    (h.discardOldestPage mask boot follow).lost = min 255 ((h.loseMark mask boot).lost +
      ((h.loseMark mask boot).index.takeWhile (fun e => e.offset < h.oldest + 512)).countP (·.unsent)) := by
  unfold History.discardOldestPage
  rw [History.jump_index]
  refine ⟨by simp [History.prune, Config.pageBytes], ?_⟩
  rw [History.jump]
  split <;> simp [History.prune, Config.pageBytes]

theorem History.loseMark_gapCount (h : History) (mask boot : Half) : (h.loseMark mask boot).gapCount = h.gapCount := by
  unfold History.loseMark
  split
  · rfl
  · split <;> simp

/-- A delivery that the page passes jumps, with the bytes counted while follow is on. -/
theorem History.discardOldestPage_passed (hlt : h.deliver < h.oldest + 512) (hf : follow = true) :
    (h.discardOldestPage mask boot follow).pacer = .due ∧
      (h.discardOldestPage mask boot follow).gapCount = min 4294967295 (h.gapCount + (h.oldest + 512 - h.deliver)) := by
  simp [History.discardOldestPage, History.jump, History.prune, Config.pageBytes, hlt, hf, History.loseMark_gapCount]

theorem History.discardOldestPage_stays (h' : h.oldest + 512 ≤ h.deliver ∨ follow = false) :
    (h.discardOldestPage mask boot follow).pacer = h.pacer ∧ (h.discardOldestPage mask boot follow).gapCount = h.gapCount := by
  have hpacer := (h.loseMark_stream (mask := mask) (boot := boot)).1
  rcases h' with hle | hf
  · have hnot : ¬h.deliver < h.oldest + 512 := by omega
    simp [History.discardOldestPage, History.jump, History.prune, Config.pageBytes, hnot, hpacer, History.loseMark_gapCount]
  · by_cases hlt : h.deliver < h.oldest + 512 <;>
      simp [History.discardOldestPage, History.jump, History.prune, Config.pageBytes, hlt, hf, hpacer,
        History.loseMark_gapCount]

/-! ### A new entry, and an error in its run (R33, R34, R45) -/

theorem History.record_says (h : History) (mask boot detail : Half) (k : EventKind) :
    let e : Event := ⟨h.next, k, detail, boot, k.inMask mask⟩
    let r := h.record mask boot k detail
    r = { h with index := r.index, lost := r.lost, eventPending := h.eventPending || k.inMask mask } ∧
    (h.index.length < 64 → r.index = h.index ++ [e] ∧ r.lost = h.lost) ∧
    (∀ o rest, h.index = o :: rest → 64 ≤ h.index.length → r.index = rest ++ [e] ∧
      r.lost = if o.unsent then min 255 (h.lost + 1) else h.lost) := by
  intro e r
  have hr : r = _ := h.push_eq e
  refine ⟨by rw [hr], fun hlt => ?_, fun o rest hindex hfull => ?_⟩
  · have hnot : ¬Config.indexEntries ≤ h.index.length := by simp only [Config.indexEntries]; omega
    rw [hr]
    exact ⟨congrArg (· ++ [e]) (if_neg hnot), if_neg fun hc => hnot hc.1⟩
  · have hle : Config.indexEntries ≤ h.index.length := hfull
    rw [hr]
    refine ⟨congrArg (· ++ [e]) ((if_pos hle).trans (by rw [hindex]; rfl)), ?_⟩
    exact if_congr ((and_iff_right hle).trans (by rw [hindex]; rfl)) rfl rfl

/-- The entry of the kind in a run of errors takes one more; the index is read newest entry first. -/
theorem bumpErrorRun_found {k : EventKind} {run rest : List Event} {e : Event} (he : e.kind = k)
    (hrun : ∀ x ∈ run, x.kind ≠ k ∧ (x.kind = .framing ∨ x.kind = .parity)) :
    bumpErrorRun k (run ++ e :: rest) =
      some (run ++ { e with detail := if e.detail = 0xFFFF then 0xFFFF else e.detail + 1 } :: rest) := by
  induction run with
  | nil =>
    have hfull : (if e.detail = 0xFFFF then e.detail else e.detail + 1) = if e.detail = 0xFFFF then 0xFFFF else e.detail + 1 := by
      split
      · next h => exact h
      · rfl
    rw [List.nil_append, bumpErrorRun, if_pos he, hfull, List.nil_append]
  | cons x run ih =>
    obtain ⟨hne, herror⟩ := hrun x List.mem_cons_self
    have hx : x.kind.isError = true := by rcases herror with h | h <;> rw [h] <;> rfl
    rw [List.cons_append, bumpErrorRun, if_neg hne, if_pos hx, ih fun y hy => hrun y (List.mem_cons_of_mem _ hy)]
    rfl

theorem bumpErrorRun_none {k : EventKind} (hk : k = .framing ∨ k = .parity) {run rest : List Event}
    (hrun : ∀ x ∈ run, x.kind ≠ k ∧ (x.kind = .framing ∨ x.kind = .parity))
    (hrest : ∀ x, rest.head? = some x → x.kind ≠ .framing ∧ x.kind ≠ .parity) :
    bumpErrorRun k (run ++ rest) = none := by
  induction run with
  | nil =>
    cases rest with
    | nil => rfl
    | cons x rest =>
      obtain ⟨hf, hp⟩ := hrest x rfl
      have hne : x.kind ≠ k := by rcases hk with rfl | rfl <;> assumption
      have hx : ¬x.kind.isError = true := by
        unfold EventKind.isError
        split <;> simp_all
      rw [List.nil_append, bumpErrorRun, if_neg hne, if_neg hx]
  | cons x run ih =>
    obtain ⟨hne, herror⟩ := hrun x List.mem_cons_self
    have hx : x.kind.isError = true := by rcases herror with h | h <;> rw [h] <;> rfl
    rw [List.cons_append, bumpErrorRun, if_neg hne, if_pos hx, ih fun y hy => hrun y (List.mem_cons_of_mem _ hy)]
    rfl

/-- Settles O36: the recycled page by its mark and its delivery, the new entry by the room of the index, the error by its
run. -/
theorem historyGivesUpItsOldestPage : Obligations.HistoryGivesUpItsOldestPage := by
  refine ⟨fun h mask boot follow hl hr hfull => ?_, fun h mask boot detail k => h.record_says mask boot detail k,
    fun h mask boot k before run e hk hindex he hrun => ?_, fun h mask boot k before run hk hindex hrun hbefore => ?_⟩
  · obtain ⟨hring, holdest, hnext, hdeliver⟩ := h.recycle_fields mask boot follow hr
    obtain ⟨hindex, hlost⟩ := History.discardOldestPage_index (h := h) (mask := mask) (boot := boot) (follow := follow)
    have hmark : (h.discardOldestPage mask boot follow).mark = h.mark.filter (fun m => decide (h.oldest + 512 ≤ m)) :=
      h.discardOldestPage_mark (mask := mask) (boot := boot) (follow := follow)
    have hsorted := hl.2.2.2.2.2.2.1
    have hroom : h.oldest + 512 ≤ h.next := by
      have : 0 < h.ring.length := List.length_pos_iff.mpr hr
      omega
    intro r
    have hr' : r = _ := History.recycle_eq hr
    refine ⟨hring, holdest, hnext, fun m hm hlt => ⟨?_, ?_⟩, fun hkept => ⟨?_, ?_, ?_⟩, hdeliver, fun hlt hf => ?_, fun hstays => ?_⟩
    · rw [hr', hmark, hm]
      exact Option.filter_some_neg (by simpa using hlt)
    · rw [hr']
      dsimp only
      rw [hindex, History.loseMark_lost hm hlt, History.record, History.push_eq]
      exact getLast?_dropWhile_concat (by simpa using hroom)
    · rw [hr', hmark]
      cases hm : h.mark with
      | none => rfl
      | some m => exact Option.filter_some_pos (by simpa using hkept m hm)
    · rw [hr']
      dsimp only
      rw [hindex, History.loseMark_kept hkept, (dropWhile_eq_filter_of_ordered hsorted).1]
    · rw [hr']
      dsimp only
      rw [hlost, History.loseMark_kept hkept, (dropWhile_eq_filter_of_ordered hsorted).2, List.countP_filter]
    · rw [hr']
      exact History.discardOldestPage_passed hlt hf
    · rw [hr']
      exact History.discardOldestPage_stays hstays
  · have hreverse : h.index.reverse = run.reverse ++ e :: before.reverse := by simp [hindex]
    rw [History.recordError, hreverse, bumpErrorRun_found he fun x hx => hrun x (List.mem_reverse.mp hx)]
    simp
  · have hreverse : h.index.reverse = run.reverse ++ before.reverse := by simp [hindex]
    rw [History.recordError, hreverse, bumpErrorRun_none hk (fun x hx => hrun x (List.mem_reverse.mp hx))
      (fun x hx => hbefore x (by simpa using hx))]

end

end Sys2Proof.Machine
end


section
/-! PROOFS. A received byte is stored (O35). -/

namespace Sys2Proof.Machine

set_option Elab.async false

section
variable {s t : State} {n : NodeId}

/-! ### Room for one byte (R27, R28, R63) -/

theorem History.Lawful.full_iff {h : History} (hl : h.Lawful) :
    h.full = true ↔ h.next = h.oldest + 512 * h.ring.length := by
  have hroom : h.next ≤ h.oldest + 512 * h.ring.length := (History.lawful_iff.mp hl).2.2.2.2
  have hfull : h.full = true ↔ h.oldest + 512 * h.ring.length ≤ h.next := decide_eq_true_iff
  rw [hfull]
  omega

theorem State.makeRoom_room (h : ¬(s.nd n).hist.full = true) : s.makeRoom n = s := if_neg h

/-- A full ring below its max takes the page the pool serves. -/
theorem State.makeRoom_grows (hfull : (s.nd n).hist.full = true) (hmax : (s.nd n).hist.ring.length < (s.set n).quota.max)
    {p : Nat} (hp : (s.free ++ s.lru).head? = some p) :
    ((s.makeRoom n).nd n).hist.ring = (s.nd n).hist.ring ++ [p] ∧
      ((s.makeRoom n).nd n).hist.oldest = (s.nd n).hist.oldest := by
  have hroom : s.makeRoom n = match s.getPage with
      | some (p, t) => t.mapHist n (fun h => { h with ring := h.ring ++ [p] })
      | none => s.recycle n := (if_pos hfull).trans (if_pos hmax)
  cases hpage : s.getPage with
  | none =>
    rw [(s.getPage_eq_none).mp hpage] at hp
    cases hp
  | some r =>
    obtain ⟨q, t⟩ := r
    obtain rfl : q = p := Option.some.inj ((State.getPage_page hpage).symm.trans hp)
    have hnd : t.nd n = s.nd n := by rw [State.getPage_frame hpage]; rfl
    rw [hroom, hpage]
    dsimp only
    rw [State.hist_mapHist_same, hnd]
    exact ⟨rfl, rfl⟩

/-- One at its max, or refused, moves its oldest page to the tail. -/
theorem State.makeRoom_recycles (hring : (s.nd n).hist.ring ≠ []) (hfull : (s.nd n).hist.full = true)
    (hnone : (s.nd n).hist.ring.length < (s.set n).quota.max → s.free ++ s.lru = []) :
    ((s.makeRoom n).nd n).hist.ring = (s.nd n).hist.ring.tail ++ (s.nd n).hist.ring.take 1 ∧
      ((s.makeRoom n).nd n).hist.oldest = (s.nd n).hist.oldest + 512 := by
  have hroom : s.makeRoom n = s.recycle n := by
    refine (if_pos hfull).trans ?_
    split
    · next hmax => rw [(s.getPage_eq_none).mpr (hnone hmax)]
    · rfl
  rw [hroom, State.recycle, State.hist_mapHist_same]
  obtain ⟨hr, ho, -, -⟩ := (s.nd n).hist.recycle_fields (s.set n).delivery.mask (s.nd n).power.boot (s.set n).delivery.follow hring
  exact ⟨hr, ho⟩

theorem State.makeRoom_next (s : State) (n : NodeId) : ((s.makeRoom n).nd n).hist.next = (s.nd n).hist.next := by
  unfold State.makeRoom
  split
  · split
    · split
      · next p t hpage =>
        have hnd : t.nd n = s.nd n := by rw [State.getPage_frame hpage]; rfl
        rw [State.hist_mapHist_same, hnd]
      · rw [State.recycle, State.hist_mapHist_same]
        by_cases hring : (s.nd n).hist.ring = []
        · simp [History.recycle, hring]
        · exact ((s.nd n).hist.recycle_fields _ _ _ hring).2.2.1
    · rw [State.recycle, State.hist_mapHist_same]
      by_cases hring : (s.nd n).hist.ring = []
      · simp [History.recycle, hring]
      · exact ((s.nd n).hist.recycle_fields _ _ _ hring).2.2.1
  · rfl

/-! ### The byte is written (R26, R27) -/

theorem Memory.read_write_byte (m : Memory) (a : Nat) (b : Byte) (x : Nat) :
    (m.write a [b]).read x = if x = a then b else m.read x := by
  rw [Memory.read_write]
  by_cases h : x = a
  · subst h; simp
  · rw [if_neg h, if_neg (by simp; omega)]

/-- A history with room has a page for next_offset. -/
theorem History.Lawful.address_next {h : History} (hl : h.Lawful) (hroom : h.full = false) :
    ∃ p, h.ring[(h.next - h.oldest) / 512]? = some p ∧ h.address h.next = some (512 * p + h.next % 512) := by
  have hle : h.oldest ≤ h.next := hl.oldest_le_next
  have hlt : (h.next - h.oldest) / 512 < h.ring.length := by
    have hnot : ¬h.oldest + 512 * h.ring.length ≤ h.next := decide_eq_false_iff_not.mp hroom
    omega
  refine ⟨h.ring[(h.next - h.oldest) / 512], List.getElem?_eq_getElem hlt, ?_⟩
  rw [History.address, Config.pageBytes, List.getElem?_eq_getElem hlt]
  rfl

/-- What storing a byte leaves: the ring and oldest_offset as room was made, the byte at next_offset's address. -/
theorem State.RingsLaw.storeByte_says (h : s.RingsLaw) (n : NodeId) (b : Byte) (f p : Bool) :
    let u := s.makeRoom n
    let t := s.storeByte n b f p
    (t.nd n).hist.ring = (u.nd n).hist.ring ∧ (t.nd n).hist.oldest = (u.nd n).hist.oldest ∧
      (t.nd n).hist.next = (s.nd n).hist.next + 1 ∧ (t.nd n).hist.lineIdle = false ∧
      ∃ q a, (u.nd n).hist.ring[((s.nd n).hist.next - (u.nd n).hist.oldest) / 512]? = some q ∧
        a = 512 * q + (s.nd n).hist.next % 512 ∧ t.mem.read a = b ∧ ∀ x, x ≠ a → t.mem.read x = s.mem.read x := by
  intro u t
  obtain ⟨hlaw, hroom⟩ := h.makeRoom n
  obtain ⟨v, hv, ht⟩ : ∃ v, u.ChangesAt n [.events] v ∧ t = (v.writeHistory n b).mapHist n (fun h =>
      History.paceByte (s.set n).delivery s.clock.ticks { h with next := h.next + 1, lineIdle := false }) := by
    refine ⟨_, ?_, rfl⟩
    have herror {w : State} (hw : u.ChangesAt n [.events] w) (c : Bool) (k : EventKind) :
        u.ChangesAt n [.events] (if c then w.recordError n k else w) :=
      .ite (hw.next (State.recordError_changes _ n _) (List.Subset.refl _)) hw
    exact herror (herror (.refl _ n _) f .framing) p .parity
  have hnext : (u.nd n).hist.next = (s.nd n).hist.next := s.makeRoom_next n
  obtain ⟨q, hq, haddress⟩ := (hlaw.2 n).1.address_next hroom
  obtain ⟨hvo, hvn, -⟩ := hv.1.same .stream (by simp) n
  have hvring : (v.nd n).hist.ring = (u.nd n).hist.ring := hv.1.same .ring (by simp) n
  have hvmem : v.mem = s.mem := ((s.makeRoom_changes n).1.same .mem).trans (hv.1.same .mem)
  have hvaddress : (v.nd n).hist.address (v.nd n).hist.next = some (512 * q + (s.nd n).hist.next % 512) := by
    rw [History.address, hvring, hvo, hvn, ← hnext]
    exact haddress
  have hwritten : v.writeHistory n b = { v with mem := v.mem.write (512 * q + (s.nd n).hist.next % 512) [b] } := by
    rw [State.writeHistory, hvaddress]
  have hhist : (t.nd n).hist = History.paceByte (s.set n).delivery s.clock.ticks
      { (v.nd n).hist with next := (v.nd n).hist.next + 1, lineIdle := false } := by
    rw [ht, State.hist_mapHist_same, hwritten]
    rfl
  have htmem : t.mem = s.mem.write (512 * q + (s.nd n).hist.next % 512) [b] := by
    rw [ht, hwritten, ← hvmem]
    rfl
  rw [hnext] at hq
  rw [hhist, History.paceByte_eq]
  refine ⟨hvring, hvo, ?_, rfl, q, _, hq, rfl, ?_, fun x hx => ?_⟩
  · dsimp only
    rw [hvn, hnext]
  · rw [htmem, Memory.read_write_byte, if_pos rfl]
  · rw [htmem, Memory.read_write_byte, if_neg hx]

/-! ### Handing it on leaves it as it is stored (R11) -/

theorem State.handOn_stores (s : State) (n : NodeId) (b : Byte) (f p : Bool) :
    let u := (s.restartIdleGap n).storeByte n b f p
    let t := s.handOn n b f p
    (t.nd n).hist.ring = (u.nd n).hist.ring ∧ (t.nd n).hist.oldest = (u.nd n).hist.oldest ∧
      (t.nd n).hist.next = (u.nd n).hist.next ∧ (t.nd n).hist.lineIdle = (u.nd n).hist.lineIdle ∧ t.mem = u.mem := by
  intro u t
  have hrest : u.ChangesAt n watchParts t :=
    ((u.watchByte_changes n b).next (State.kick_changes _ n .console) (rs := watchParts) (List.Subset.refl _)).next
      (State.lossCheck_changes _ n f) (List.Subset.refl _)
  obtain ⟨ho, hn, -, -, -, hidle⟩ := hrest.1.same .stream (by simp) n
  exact ⟨hrest.1.same .ring (by simp) n, ho, hn, hidle, hrest.1.same .mem⟩

/-- Settles O35: the stages of a received byte, of which storing it alone touches the ring, the offsets and the memory. -/
theorem receivedByteIsStored : Obligations.ReceivedByteIsStored := by
  intro s n v pb sb hlaw hdec hbyte h
  obtain ⟨hheld, -⟩ := State.decodes_iff.mp hdec
  have hrings := State.ringsLaw_of_historyLaw hlaw hheld
  obtain ⟨b, hb⟩ : ∃ b, b = lowBits (s.set n).line.wordLen v := ⟨_, rfl⟩
  obtain ⟨w, hw⟩ : ∃ w : State, w = (s.mapLine n (fun l => { l with rx := if sb then .idle else .awaitHigh })).restartIdleGap n :=
    ⟨_, rfl⟩
  obtain ⟨t, hexec, parity, ht⟩ : ∃ t, exec (.characterReceived n v pb sb) s = .next t ∧ ∃ parity,
      t = (s.mapLine n (fun l => { l with rx := if sb then .idle else .awaitHigh })).handOn n b (!sb) parity :=
    ⟨_, congrArg Host.Outcome.next (if_pos hdec), _, by rw [hb]; exact if_neg hbyte⟩
  have hchanges : s.ChangesAt n byteParts t := by
    rw [ht]
    exact (s.mapLine_changes n _).next (State.handOn_changes _ n _ _ _) (hq := List.Subset.refl _)
  have hwchanges : s.ChangesAt n [.line] w := by
    rw [hw]
    exact (s.mapLine_changes n _).next (State.restartIdleGap_changes _ n) (hq := List.Subset.refl _)
  have hwrings : w.RingsLaw := hrings.of_changes hwchanges.1
  have hwset : w.set n = s.set n := hwchanges.1.set_eq n
  have hwhist : (w.nd n).hist = h := by
    rw [hw]
    simp [State.restartIdleGap, h]
  have hwmem : w.mem = s.mem := hwchanges.1.same .mem
  have hwpool : w.free = s.free ∧ w.lru = s.lru := ⟨hwchanges.1.same .free, hwchanges.1.same .lru⟩
  obtain ⟨hring, holdest, hnext, hidle, hmem⟩ := State.handOn_stores (s.mapLine n (fun l => { l with
    rx := if sb then .idle else .awaitHigh })) n b (!sb) parity
  rw [← hw, ← ht] at hring holdest hnext hidle hmem
  obtain ⟨hsring, hsoldest, hsnext, hsidle, q, a, hq, ha, hread, hothers⟩ := hwrings.storeByte_says n b (!sb) parity
  rw [hwhist] at hq ha hsnext
  have htring := hring.trans hsring
  have htoldest := holdest.trans hsoldest
  have hroomy : (w.nd n).hist.full = true ↔ h.next = h.oldest + 512 * h.ring.length := by
    rw [hwhist]
    exact (hrings.2 n).1.full_iff
  refine ⟨t, a, hexec, fun m hm => (hchanges.2 m hm).1, hchanges.1.cfg_eq, hchanges.1.same .clock, hchanges.1.same .link,
    hchanges.1.same .store, hchanges.1.same .pauses, hchanges.1.same .pending, hnext.trans hsnext, hidle.trans hsidle,
    ⟨q, ?_, ha⟩, ?_, fun x hx => ?_, fun hlt => ?_, fun hfull hmax p hp => ?_, fun hfull hnone => ?_⟩
  · rw [htring, htoldest]
    exact hq
  · rw [hmem, hread, hb]
  · rw [hmem, hothers x hx, hwmem]
  · have hroom := State.makeRoom_room (s := w) (n := n) (fun hf => by have := hroomy.mp hf; omega)
    rw [htring, htoldest, hroom, hwhist]
    exact ⟨rfl, rfl⟩
  · have hgrows := State.makeRoom_grows (s := w) (n := n) (hroomy.mpr hfull) (by rw [hwhist, hwset]; exact hmax) (p := p)
      (by rw [hwpool.1, hwpool.2]; exact hp)
    rw [htring, htoldest]
    rwa [hwhist] at hgrows
  · have hrecycles := State.makeRoom_recycles (s := w) (n := n)
      (List.length_pos_iff.mp (by have := (hwrings.2 n).2.1; omega)) (hroomy.mpr hfull)
      (by rw [hwhist, hwset, hwpool.1, hwpool.2]; exact hnone)
    rw [htring, htoldest]
    rwa [hwhist] at hrecycles

end

end Sys2Proof.Machine
end


section
/-! PROOFS. POOL_SET (O17): the shedding pass and the growth pass, ring by ring. -/

namespace Sys2Proof.Machine

set_option Elab.async false

/-! ### What any ring gives back (R29) -/

section
variable {mask boot : Half} {follow : Bool}

theorem History.shedPage_shrinks {h x : History} {p : Nat} (hs : h.shedPage mask boot follow = some (p, x)) :
    x.ring.length + 1 = h.ring.length ∧ x.next = h.next := by
  have hnext := (h.discardOldestPage_fields mask boot follow).2.2.1
  unfold History.shedPage at hs
  split at hs
  · cases hs
  · next q qs hring =>
    split at hs
    · obtain ⟨-, rfl⟩ := Prod.mk.inj (Option.some.inj hs)
      simp [hring]
    · obtain ⟨-, rfl⟩ := Prod.mk.inj (Option.some.inj hs)
      exact ⟨by rw [hring]; rfl, hnext⟩

theorem History.shedPages_ring (k : Nat) (h : History) :
    (h.shedPages mask boot follow k).2.ring.length = h.ring.length - k ∧
      (h.shedPages mask boot follow k).2.next = h.next := by
  induction k generalizing h with
  | zero => exact ⟨rfl, rfl⟩
  | succ k ih =>
    rw [History.shedPages]
    cases hs : h.shedPage mask boot follow with
    | none =>
      have hnil : h.ring = [] := by
        unfold History.shedPage at hs
        split at hs
        · assumption
        · split at hs <;> cases hs
      simp [hnil]
    | some r =>
      obtain ⟨p, x⟩ := r
      obtain ⟨hlength, hnext⟩ := History.shedPage_shrinks hs
      obtain ⟨hlength', hnext'⟩ := ih x
      exact ⟨by dsimp only; omega, hnext'.trans hnext⟩

end

section
variable {s t u : State} {n m : NodeId} {q : PerNode Quota}

/-! ### The shedding pass, whatever the histories hold (R62) -/

/-- The history of a node after the shedding pass. -/
def State.shedHist (s : State) (n : NodeId) : History := (s.shed n ((s.nd n).hist.ring.length - (s.set n).quota.max)).2

theorem State.shedRing_says (s : State) (n : NodeId) :
    (∀ m, (s.shedRing n).nd m = if m = n then { s.nd n with hist := s.shedHist n } else s.nd m) ∧
      (s.shedRing n).cfg = s.cfg ∧ s.free.length ≤ (s.shedRing n).free.length := by
  have heq : s.shedRing n = _ := s.times_shedOne_eq n ((s.nd n).hist.ring.length - (s.set n).quota.max)
  refine ⟨fun m => ?_, by rw [heq]; rfl, ?_⟩
  · rw [heq]
    split
    · next hm => subst hm; exact State.nd_setNd_same _ _ _
    · next hm => exact State.nd_setNd_ne _ _ hm
  · rw [heq]
    exact (insertPages_perm _ _).length_eq.symm ▸ by simp

theorem State.shedHist_congr (hnd : t.nd n = s.nd n) (hcfg : t.cfg = s.cfg) : t.shedHist n = s.shedHist n := by
  have hset : t.set n = s.set n := by rw [State.set, State.set, hcfg]
  rw [State.shedHist, State.shedHist, State.shed, State.shed, hnd, hset]

theorem State.shedAll_says (s : State) {t : State} (ht : t = NodeId.all.foldl State.shedRing s) :
    (∀ n, t.nd n = { s.nd n with hist := s.shedHist n }) ∧ t.cfg = s.cfg ∧ s.free.length ≤ t.free.length := by
  simp only [NodeId.all, List.foldl_cons, List.foldl_nil] at ht
  obtain ⟨hnd0, hcfg0, hfree0⟩ := s.shedRing_says .n0
  obtain ⟨a, ha⟩ : ∃ a, a = s.shedRing .n0 := ⟨_, rfl⟩
  rw [← ha] at hnd0 hcfg0 hfree0 ht
  obtain ⟨hnd1, hcfg1, hfree1⟩ := a.shedRing_says .n1
  obtain ⟨b, hb⟩ : ∃ b, b = a.shedRing .n1 := ⟨_, rfl⟩
  rw [← hb] at hnd1 hcfg1 hfree1 ht
  obtain ⟨hnd2, hcfg2, hfree2⟩ := b.shedRing_says .n2
  obtain ⟨c, hc⟩ : ∃ c, c = b.shedRing .n2 := ⟨_, rfl⟩
  rw [← hc] at hnd2 hcfg2 hfree2 ht
  obtain ⟨hnd3, hcfg3, hfree3⟩ := c.shedRing_says .n3
  rw [← ht] at hnd3 hcfg3 hfree3
  have hbcfg := hcfg1.trans hcfg0
  have hccfg := hcfg2.trans hbcfg
  refine ⟨fun n => ?_, hcfg3.trans hccfg, by omega⟩
  cases n
  · rw [hnd3, if_neg (by simp), hnd2, if_neg (by simp), hnd1, if_neg (by simp), hnd0, if_pos rfl]
  · have h1 : a.nd .n1 = s.nd .n1 := (hnd0 _).trans (if_neg (by simp))
    rw [hnd3, if_neg (by simp), hnd2, if_neg (by simp), hnd1, if_pos rfl, State.shedHist_congr h1 hcfg0, h1]
  · have h2 : b.nd .n2 = s.nd .n2 := by rw [hnd1, if_neg (by simp), hnd0, if_neg (by simp)]
    rw [hnd3, if_neg (by simp), hnd2, if_pos rfl, State.shedHist_congr h2 hbcfg, h2]
  · have h3 : c.nd .n3 = s.nd .n3 := by rw [hnd2, if_neg (by simp), hnd1, if_neg (by simp), hnd0, if_neg (by simp)]
    rw [hnd3, if_pos rfl, State.shedHist_congr h3 hccfg, h3]

theorem State.shedHist_ring (s : State) (n : NodeId) :
    (s.shedHist n).ring.length = min (s.set n).quota.max (s.nd n).hist.ring.length ∧ (s.shedHist n).next = (s.nd n).hist.next ∧
      ((s.nd n).hist.ring.length ≤ (s.set n).quota.max → s.shedHist n = (s.nd n).hist) := by
  obtain ⟨hlength, hnext⟩ := History.shedPages_ring (mask := (s.set n).delivery.mask) (boot := (s.nd n).power.boot)
    (follow := (s.set n).delivery.follow) ((s.nd n).hist.ring.length - (s.set n).quota.max) (s.nd n).hist
  refine ⟨hlength.trans (by omega), hnext, fun hle => ?_⟩
  rw [State.shedHist, Nat.sub_eq_zero_of_le hle]
  rfl

/-! ### The growth pass -/

/-- The pages that the rings before a node want. -/
def State.wantsBefore (s : State) : NodeId → Nat
  | .n0 => 0
  | .n1 => s.wants .n0
  | .n2 => s.wants .n0 + s.wants .n1
  | .n3 => s.wants .n0 + s.wants .n1 + s.wants .n2

/-- The pages that the four rings want. -/
def State.wantsAll (s : State) : Nat := s.wants .n0 + s.wants .n1 + s.wants .n2 + s.wants .n3

theorem State.wantsBefore_add (s : State) (n : NodeId) : s.wantsBefore n + s.wants n ≤ s.wantsAll := by
  cases n <;> simp only [State.wantsBefore, State.wantsAll] <;> omega

/-- The pages the growth pass gives a ring. -/
def State.grown (s : State) (n : NodeId) : List Nat := (s.supply.drop (s.wantsBefore n)).take (s.wants n)

theorem State.growAll_says (s : State) :
    let t := NodeId.all.foldl State.growRing s
    (∀ n, t.nd n = { s.nd n with hist := { (s.nd n).hist with ring := (s.nd n).hist.ring ++ s.grown n } }) ∧
      t.free = s.free.drop s.wantsAll ∧ t.lru = s.lru.drop (s.wantsAll - s.free.length) ∧
      t.entries = s.entries.filter (fun e => !(s.lru.take (s.wantsAll - s.free.length)).contains e.page) := by
  intro t
  have hne {i j : NodeId} (h : i ≠ j) (u : State) (l : List Nat) : (u.addRing j l).nd i = u.nd i := u.addRing_nd_ne j l h
  have ht : t = _ := s.grow_all
  refine ⟨fun n => ?_, by rw [ht]; rfl, by rw [ht]; rfl, by rw [ht]; rfl⟩
  rw [ht]
  cases n
  · rw [hne (by simp), hne (by simp), hne (by simp), State.addRing_nd_same]; rfl
  · rw [hne (by simp), hne (by simp), State.addRing_nd_same, hne (by simp)]; rfl
  · rw [hne (by simp), State.addRing_nd_same, hne (by simp), hne (by simp)]; rfl
  · rw [State.addRing_nd_same, hne (by simp), hne (by simp), hne (by simp)]; rfl

theorem State.length_grown (hfit : s.wantsAll ≤ s.supply.length) (n : NodeId) : (s.grown n).length = s.wants n := by
  have := s.wantsBefore_add n
  rw [State.grown, List.length_take, List.length_drop]
  omega

theorem State.grown_nil (h : s.wants n = 0) : s.grown n = [] := by rw [State.grown, h, List.take_zero]

/-! ### Both passes -/

theorem State.applyQuotas_eq (s : State) : ∃ w, w = NodeId.all.foldl State.shedRing s ∧
    s.applyQuotas = NodeId.all.foldl State.growRing w := ⟨_, rfl, rfl⟩

/-- What the passes leave of each node, at any valid quotas. -/
theorem State.applyQuotas_nd (s : State) (n : NodeId) (hq : (s.set n).quota.min ≤ (s.set n).quota.max) :
    let t := s.applyQuotas
    t.nd n = { s.nd n with hist := (t.nd n).hist } ∧ (t.nd n).hist.next = (s.nd n).hist.next ∧
      ((s.set n).quota.max < (s.nd n).hist.ring.length → (t.nd n).hist.ring.length = (s.set n).quota.max) ∧
      ((s.set n).quota.min ≤ (s.nd n).hist.ring.length → (s.nd n).hist.ring.length ≤ (s.set n).quota.max →
        (t.nd n).hist = (s.nd n).hist) := by
  intro t
  obtain ⟨hlength, hnext, hstays⟩ := s.shedHist_ring n
  obtain ⟨w, hw, htw⟩ := s.applyQuotas_eq
  obtain ⟨hshed, hcfg, -⟩ := s.shedAll_says hw
  have ht : t.nd n = _ := (congrArg (fun v : State => v.nd n) htw).trans (w.growAll_says.1 n)
  have hset : w.set n = s.set n := by rw [State.set, State.set, hcfg]
  have hwants : w.wants n = (s.set n).quota.min - (s.shedHist n).ring.length := by rw [State.wants, hset, hshed n]
  rw [hshed n] at ht
  dsimp only at ht
  rw [ht]
  refine ⟨rfl, hnext, fun hgt => ?_, fun hlo hhi => ?_⟩
  · rw [State.grown_nil (by omega), List.append_nil]
    dsimp only
    omega
  · rw [State.grown_nil (by rw [hwants, hstays hhi]; omega), List.append_nil, hstays hhi]

/-- With 640 free pages every ring below its min reaches it. -/
theorem State.applyQuotas_grows (s : State) (n : NodeId) (hq : s.QuotasInRange) (hfree : 640 ≤ s.free.length)
    (hlt : (s.nd n).hist.ring.length < (s.set n).quota.min) : (s.applyQuotas.nd n).hist.ring.length = (s.set n).quota.min := by
  obtain ⟨w, hw, htw⟩ := s.applyQuotas_eq
  obtain ⟨hshed, hcfg, hmore⟩ := s.shedAll_says hw
  have hset (m : NodeId) : w.set m = s.set m := by rw [State.set, State.set, hcfg]
  have hwants (m : NodeId) : w.wants m = (s.set m).quota.min - (s.shedHist m).ring.length := by rw [State.wants, hset, hshed m]
  have hfit : w.wantsAll ≤ w.supply.length := by
    have hone (m : NodeId) : w.wants m ≤ 160 := by
      obtain ⟨-, hmin, hmax⟩ := hq m
      rw [hwants]
      omega
    have h0 := hone .n0
    have h1 := hone .n1
    have h2 := hone .n2
    have h3 := hone .n3
    rw [State.wantsAll, State.supply, List.length_append]
    omega
  obtain ⟨hlength, -, -⟩ := s.shedHist_ring n
  obtain ⟨-, hmin, -⟩ := hq n
  rw [htw, w.growAll_says.1 n]
  dsimp only
  rw [List.length_append, State.length_grown hfit, hwants, hshed n]
  dsimp only
  omega

/-- What the passes leave of a state that meets the laws: the pages the rings give back join the free ones, and the rings take
what they want of both in order. -/
theorem State.applyQuotas_says (s : State) (hp : s.PageLaw) (hl : ∀ n, (s.nd n).hist.Lawful) :
    let t := s.applyQuotas
    let need := fun n => (s.set n).quota.min - ((s.nd n).hist.keptTo (s.set n).quota.max).length
    let all := need .n0 + need .n1 + need .n2 + need .n3
    ∃ f : List Nat, f.Pairwise (· < ·) ∧
      f.Perm (s.free ++ NodeId.all.flatMap (fun n => (s.nd n).hist.backTo (s.set n).quota.max)) ∧
      t.free = f.drop all ∧ t.lru = s.lru.drop (all - f.length) ∧
      t.entries = s.entries.filter (fun e => !(s.lru.take (all - f.length)).contains e.page) ∧
      (∀ n k, (n, k) ∈ [(NodeId.n0, 0), (.n1, need .n0), (.n2, need .n0 + need .n1), (.n3, need .n0 + need .n1 + need .n2)] →
        (t.nd n).hist.ring = (s.nd n).hist.keptTo (s.set n).quota.max ++ ((f ++ s.lru).drop k).take (need n)) ∧
      ∀ n, ∃ x, (s.nd n).hist.ShedTo (s.set n).quota.max x ∧
        t.nd n = { s.nd n with hist := { x with ring := (t.nd n).hist.ring } } := by
  intro t need all
  have hshed := s.shed_all hl
  have hsorted : (NodeId.all.foldl State.shedRing s).free.Pairwise (· < ·) :=
    (foldl_keeps (P := State.InHand []) (fun _ n hu => hu.shedRing n) NodeId.all (State.pageLaw_iff.mp hp)).2.1
  obtain ⟨w, hw, htw⟩ := s.applyQuotas_eq
  rw [← hw] at hshed hsorted
  have hnode (n : NodeId) : w.nd n = { s.nd n with hist := (w.nd n).hist } := hshed.node n
  have hwent (n : NodeId) := hshed.went n (by cases n <;> simp [NodeId.all])
  have hwants (n : NodeId) : w.wants n = need n := by rw [State.wants, hshed.set_eq n, (hwent n).1]
  have hwantsAll : w.wantsAll = all := by simp only [State.wantsAll, hwants]; rfl
  have hlru : w.lru = s.lru := by rw [hshed.rest]
  have hentries : w.entries = s.entries := by rw [hshed.rest]
  obtain ⟨hgrown, hfree, hlru', hentries'⟩ := w.growAll_says
  rw [hwantsAll] at hfree hlru' hentries'
  rw [hlru] at hlru' hentries'
  rw [hentries] at hentries'
  rw [← htw] at hgrown hfree hlru' hentries'
  refine ⟨w.free, hsorted, hshed.pages, hfree, hlru', hentries', fun n k hk => ?_, fun n => ⟨(w.nd n).hist, hwent n, ?_⟩⟩
  · have hbefore : k = w.wantsBefore n := by
      simp only [List.mem_cons, List.not_mem_nil, or_false, Prod.mk.injEq] at hk
      rcases hk with ⟨rfl, rfl⟩ | ⟨rfl, rfl⟩ | ⟨rfl, rfl⟩ | ⟨rfl, rfl⟩ <;> simp only [State.wantsBefore, hwants]
    rw [hgrown n, (hwent n).1, State.grown, State.supply, hlru, hwants, hbefore]
  · rw [hgrown n]
    conv_lhs => rw [hnode n]

/-- The same, where the quotas have just been set. -/
theorem State.quoted_says (s : State) {q : PerNode Quota} (hq : ∀ n, 2 ≤ (q.get n).min ∧ (q.get n).min ≤ (q.get n).max ∧
      (q.get n).max ≤ 160) (hpl : s.PageLaw) (hcl : s.CacheLaw) (hhl : s.HistoryLaw) {t : State}
    (ht : t = (s.setQuotas q).applyQuotas) :
    let need := fun n => (q.get n).min - ((s.nd n).hist.keptTo (q.get n).max).length
    let all := need .n0 + need .n1 + need .n2 + need .n3
    ∃ f : List Nat, f.Pairwise (· < ·) ∧
      f.Perm (s.free ++ NodeId.all.flatMap (fun n => (s.nd n).hist.backTo (q.get n).max)) ∧
      t.free = f.drop all ∧ t.lru = s.lru.drop (all - f.length) ∧
      t.entries = s.entries.filter (fun e => !(s.lru.take (all - f.length)).contains e.page) ∧
      (∀ n k, (n, k) ∈ [(NodeId.n0, 0), (.n1, need .n0), (.n2, need .n0 + need .n1), (.n3, need .n0 + need .n1 + need .n2)] →
        (t.nd n).hist.ring = (s.nd n).hist.keptTo (q.get n).max ++ ((f ++ s.lru).drop k).take (need n)) ∧
      ∀ n, ((s.nd n).hist.ring.length < (q.get n).min → (t.nd n).hist.ring.length = (q.get n).min) ∧
        ∃ x, (s.nd n).hist.ShedTo (q.get n).max x ∧
          t.nd n = { s.nd n with hist := { x with ring := (t.nd n).hist.ring } } := by
  have hlawful (n : NodeId) : (s.nd n).hist.Lawful := (hhl.1 n).1
  have hpages : (s.setQuotas q).PageLaw := State.pageLaw_iff.mpr ((State.pageLaw_iff.mp hpl).changed (s.setQuotas_changes _))
  have hset (n : NodeId) : ((s.setQuotas q).set n).quota = q.get n := by rw [State.setQuotas_set]
  have hquotas : (s.setQuotas q).QuotasInRange := fun n => by rw [hset]; exact hq n
  have hlength := State.applyQuotas_rings (s := s.setQuotas q) hlawful hquotas (State.supply_suffices hpl hcl)
  have hsays := (s.setQuotas q).applyQuotas_says hpages hlawful
  rw [← ht] at hlength
  simp only [← ht, hset] at hsays hlength
  obtain ⟨f, hsorted, hperm, hfree, hlru, hentries, hring, hrest⟩ := hsays
  refine ⟨f, hsorted, hperm, hfree, hlru, hentries, hring, fun n => ⟨fun hlt => ?_, hrest n⟩⟩
  have := hq n
  have hlt' : ((s.setQuotas q).nd n).hist.ring.length < (q.get n).min := hlt
  rw [hlength n]
  omega

/-! ### POOL_SET -/

theorem append_flatMap_all {α : Type} (f : List α) (g : NodeId → List α) :
    f ++ NodeId.all.flatMap g = f ++ g .n0 ++ g .n1 ++ g .n2 ++ g .n3 := by simp [NodeId.all]

theorem exec_poolSet {tag : Byte} {p : List Byte} (h : s.takes (partFrame 0x04 tag p) = true) (hp : p.length = 8)
    (hq : (quotasOf p).validQuotas = true) :
    exec (.poolSet tag 0xFF p) s = .next ((s.takeFrame.setQuotas (quotasOf p)).applyQuotas.reply (partFrame 0x04 tag p)
      { result := .ok, fields := (s.takeFrame.setQuotas (quotasOf p)).applyQuotas.poolFields }) := by
  have hl := Frame.lengthOk_of_mem (tag := tag) (node := 0xFF) hp (show (0x04, 8) ∈ fixedLengths by decide)
  refine exec_partRequest_answers rfl h hl ?_
  show s.takeFrame.setPool p = _
  exact if_pos hq

theorem exec_poolSet_refused {tag : Byte} {p : List Byte} (h : s.takes (partFrame 0x04 tag p) = true) (hp : p.length = 8)
    (hq : ¬(quotasOf p).validQuotas = true) :
    exec (.poolSet tag 0xFF p) s = .next (s.takeFrame.reply (partFrame 0x04 tag p)
      { result := .badParam, fields := s.poolFields }) := by
  have hl := Frame.lengthOk_of_mem (tag := tag) (node := 0xFF) hp (show (0x04, 8) ∈ fixedLengths by decide)
  refine exec_partRequest_answers rfl h hl ?_
  show s.takeFrame.setPool p = _
  exact if_neg hq

theorem State.setQuotas_nodes (s : State) (q : PerNode Quota) :
    s.setQuotas q = { s with cfg := (s.setQuotas q).cfg } ∧ (s.setQuotas q).cfg.fref = s.cfg.fref := ⟨rfl, rfl⟩

/-- Settles O17: a valid set by the two passes, first of any state, then of one that meets the laws. -/
theorem poolSetShedsThenGrows : Obligations.PoolSetShedsThenGrows := by
  intro s tag p h hp
  by_cases hq : (quotasOf p).validQuotas = true
  · have hrange := PerNode.validQuotas_iff.mp hq
    obtain ⟨u, hu⟩ : ∃ u, u = s.takeFrame.setQuotas (quotasOf p) := ⟨_, rfl⟩
    have hund (n : NodeId) : u.nd n = s.nd n := by rw [hu]; rfl
    have huset (n : NodeId) : u.set n = { s.set n with quota := (quotasOf p).get n } := by
      rw [hu, State.setQuotas_set]; rfl
    have hquotas : u.QuotasInRange := fun n => by rw [huset]; exact hrange n
    have hchanges := u.applyQuotas_changes
    have hexec := exec_poolSet h hp hq
    rw [← hu] at hexec
    obtain ⟨w, hw⟩ : ∃ w, w = u.applyQuotas := ⟨_, rfl⟩
    rw [← hw] at hexec hchanges
    have hlink : w.link = s.takeFrame.link := by
      have hkept : w.link = u.link := hchanges.same .link
      rw [hkept, hu]
      rfl
    have hmem : w.mem = s.mem := (show w.mem = u.mem from hchanges.same .mem).trans (by rw [hu]; rfl)
    have hclock : w.clock = s.clock := (show w.clock = u.clock from hchanges.same .clock).trans (by rw [hu]; rfl)
    have hstore : w.store = s.store := (show w.store = u.store from hchanges.same .store).trans (by rw [hu]; rfl)
    have hfref : w.cfg.fref = s.cfg.fref := (show w.cfg.fref = u.cfg.fref from hchanges.same .fref).trans (by rw [hu]; rfl)
    have hset (n : NodeId) : w.set n = u.set n := hchanges.set_eq n
    have hnd (n : NodeId) := u.applyQuotas_nd n (hquotas n).2.1
    have hgrows (n : NodeId) := u.applyQuotas_grows n hquotas
    simp only [← hw, hund, huset] at hnd hgrows
    refine ⟨_, hexec, fun ⟨n, hbad⟩ => ?_, fun _ => ⟨State.replied_of_link hlink _ _, hmem, hclock, hstore, hfref, fun n => ?_⟩,
      fun _ hpl hcl hhl => ?_⟩
    · have := hrange n
      omega
    · obtain ⟨hnode, hnext, hshrinks, hstays⟩ := hnd n
      rw [State.reply_set, State.reply_nd, hset, huset]
      exact ⟨rfl, hnode, hnext, hshrinks, hstays, fun hlt hfree => hgrows n (by rw [hu]; exact hfree) hlt⟩
    · have hcl' : s.takeFrame.CacheLaw := hcl
      obtain ⟨f, hsorted, hpages, hfree, hlru, hentries, hring, hrest⟩ :=
        s.takeFrame.quoted_says hrange hpl hcl' hhl (hw.trans (congrArg State.applyQuotas hu))
      refine ⟨f, hsorted, ?_, hfree, hlru, hentries, fun n k hk => ?_, fun n => ⟨fun hlt => ?_, ?_⟩⟩
      · rw [append_flatMap_all] at hpages
        exact hpages
      · rw [State.reply_nd]
        exact hring n k hk
      · rw [State.reply_nd]
        exact (hrest n).1 hlt
      · obtain ⟨-, x, ⟨-, holdest, hnext, hmark, hdeliver, hsame⟩, hx⟩ := hrest n
        rw [State.reply_nd]
        generalize (w.nd n).hist.ring = ring at hx
        rw [hx]
        refine ⟨holdest, hnext, hmark, hdeliver, fun hlost => ?_⟩
        rw [hsame hlost]
        rfl
  · refine ⟨_, exec_poolSet_refused h hp hq, fun _ => s.refused_replied _ _, fun hall => absurd (PerNode.validQuotas_iff.mpr hall) hq,
      fun hall => absurd (PerNode.validQuotas_iff.mpr hall) hq⟩

end

end Sys2Proof.Machine
end


section
/-! PROOFS. The link receiver, byte by byte (O21), and the bytes of a whole frame (O20). -/

namespace Sys2Proof.Machine

set_option Elab.async false

section
variable {s u : State} {a : Assembly} {b c d : Byte} {ok : Bool} {f : Frame}

/-! ### A byte reaches the receiver (R169, R170) -/

/-- The state after the link has changed. -/
def State.withLink (s : State) (l : Link) : State := { s with link := l }

theorem State.linkByte_eq (s : State) (b : Byte) (ok : Bool) :
    s.linkByte b ok = s.withLink ((s.link.lapse s.clock.ticks).take s.clock.ticks b ok) := rfl

theorem Link.lapse_none {l : Link} (h : l.assembling = none) (now : Nat) : l.lapse now = l :=
  Link.lapse_early (by simp [h])

theorem exec_linkByte_deaf (h : s.listening = false) : exec (.linkByteReceived b ok) s = .next s :=
  congrArg Host.Outcome.next (if_neg (by rw [h]; exact Bool.false_ne_true))

theorem exec_linkByte (h : s.listening = true) (hlast : ¬((s.link.lapse s.clock.ticks).atLast = true ∧ ok = true)) :
    exec (.linkByteReceived b ok) s = .next (s.linkByte b ok) :=
  congrArg Host.Outcome.next (if_pos (by rw [h, Bool.true_and, Bool.not_eq_true', Bool.and_eq_false_iff]; simpa [← Bool.not_eq_true, ← not_and_or] using hlast))

/-- While HUNTING every byte is examined as a possible START. -/
theorem exec_linkByte_hunting (h : s.listening = true) (hnone : s.link.assembling = none) (b : Byte) (ok : Bool) :
    exec (.linkByteReceived b ok) s = .next (s.withLink (s.link.take s.clock.ticks b ok)) := by
  have hlast : s.link.atLast = false := by rw [Link.atLast, hnone]
  rw [exec_linkByte h (by rw [Link.lapse_none hnone, hlast]; simp), State.linkByte_eq, Link.lapse_none hnone]

/-! ### The bytes of a frame (R167, R168) -/

/-- The two bytes of LEN, then KIND, TAG, NODE and PAYLOAD. -/
theorem Frame.body_eq (f : Frame) : f.body = BitVec.ofNat 8 (f.payload.length + 3) ::
    BitVec.ofNat 8 ((f.payload.length + 3) / 256) :: f.kind :: f.tag :: f.node :: f.payload := rfl

theorem lenOf_cons (x y : Byte) (rest : List Byte) : lenOf (x :: y :: rest) = x.toNat + 256 * y.toNat := by
  simp [lenOf, leNat]

theorem Frame.len_eq (hf : f.payload.length ≤ 541) : (BitVec.ofNat 8 (f.payload.length + 3)).toNat +
    256 * (BitVec.ofNat 8 ((f.payload.length + 3) / 256)).toNat = f.payload.length + 3 := by
  rw [BitVec.toNat_ofNat, BitVec.toNat_ofNat]
  omega

theorem Frame.lenOf_body (hf : f.payload.length ≤ 541) (tail : List Byte) :
    lenOf (f.body ++ tail) = f.payload.length + 3 := (lenOf_cons _ _ _).trans (Frame.len_eq hf)

theorem Frame.length_body (f : Frame) : f.body.length = f.payload.length + 5 := rfl

/-- The bytes after START of a whole frame are that frame when the CRC agrees. -/
theorem frameOf_body (hf : f.payload.length ≤ 541) (c d : Byte) :
    frameOf (f.body ++ [c, d]) = if c.toNat + 256 * d.toNat = (crc16 f.body).toNat then some f else none := by
  have htake : (f.body ++ [c, d]).take (f.payload.length + 3 + 2) = f.body := List.take_left' (Frame.length_body f)
  have hdrop : (f.body ++ [c, d]).drop (f.payload.length + 3 + 2) = [c, d] := List.drop_left' (Frame.length_body f)
  rw [frameOf, Frame.lenOf_body hf, htake, hdrop]
  have hspelt : leNat [c, d] = c.toNat + 256 * d.toNat := by simp [leNat]
  rw [hspelt]
  rfl

/-! ### A frame being assembled -/

theorem Assembly.atLast_iff (a : Assembly) : a.atLast = true ↔ 2 ≤ a.bytes.length ∧ lenOf a.bytes + 4 - a.bytes.length = 1 :=
  decide_eq_true_iff

/-- A byte before the last that the LEN check lets pass: the first, the second of a good LEN, and one of the frame. -/
def Assembly.Expects (a : Assembly) (b : Byte) : Prop :=
  a.bytes = [] ∨ (∃ x, a.bytes = [x] ∧ 3 ≤ x.toNat + 256 * b.toNat ∧ x.toNat + 256 * b.toNat ≤ 544) ∨
    ∃ x y rest, a.bytes = x :: y :: rest ∧ rest.length < x.toNat + 256 * y.toNat + 1

theorem Assembly.Expects.not_atLast (h : a.Expects b) : ¬a.atLast = true := by
  rw [Assembly.atLast_iff]
  rcases h with h | ⟨x, h, -⟩ | ⟨x, y, rest, h, hlt⟩ <;> rw [h]
  · simp
  · simp
  · rw [lenOf_cons]
    simp only [List.length_cons]
    omega

theorem Link.assemble_stores (h : a.Expects b) (l : Link) (now : Nat) :
    l.assemble now a b = { l with assembling := some { bytes := a.bytes ++ [b], gapEnds := now + 2 } } := by
  unfold Link.assemble
  rcases h with h | ⟨x, h, hlo, hhi⟩ | ⟨x, y, rest, h, hlt⟩ <;> simp only [h]
  · simp
  · have hlen : lenOf ([x] ++ [b]) = x.toNat + 256 * b.toNat := lenOf_cons x b []
    simp only [Assembly.missing, hlen]
    rw [if_neg (by omega), if_neg (by simp)]
  · have hlen : lenOf (x :: y :: rest ++ [b]) = x.toNat + 256 * y.toNat := lenOf_cons x y _
    simp only [Assembly.missing, hlen]
    rw [if_neg (by simp), if_neg (by simp; omega)]

theorem Link.lapse_assembling {l : Link} {now : Nat} (ha : l.assembling = some a) (h : now < a.gapEnds) : l.lapse now = l :=
  Link.lapse_early fun x hx => by rw [ha] at hx; cases hx; exact h

/-- A byte in time that is not the last joins the frame. -/
theorem exec_linkByte_assembling (h : s.listening = true) (ha : s.link.assembling = some a) (hnow : s.clock.ticks < a.gapEnds)
    (hlast : ¬a.atLast = true) : exec (.linkByteReceived b true) s = .next (s.withLink (s.link.assemble s.clock.ticks a b)) := by
  have hl : (s.link.atLast = true) = (a.atLast = true) := by rw [Link.atLast, ha]
  have hlapse := Link.lapse_assembling ha hnow
  rw [exec_linkByte h (by rw [hlapse, hl]; exact fun hc => hlast hc.1), State.linkByte_eq, hlapse, Link.take, ha]
  rfl

theorem Frame.atLast_body (hf : f.payload.length ≤ 541) {g : Nat} :
    ({ bytes := f.body ++ [c], gapEnds := g } : Assembly).atLast = true := by
  rw [Assembly.atLast_iff, Frame.lenOf_body hf, List.length_append, Frame.length_body, List.length_singleton]
  omega

/-- The last CRC byte in time completes the frame or discards it. -/
theorem exec_linkFrame (h : s.listening = true) (hf : f.payload.length ≤ 541) {g : Nat}
    (ha : s.link.assembling = some { bytes := f.body ++ [c], gapEnds := g }) (hnow : s.clock.ticks < g) :
    exec (.linkFrameReceived d) s = .next (if c.toNat + 256 * d.toNat = (crc16 f.body).toNat
      then s.withLink { s.link with assembling := none, complete := s.link.complete ++ [f] }
      else s.withLink { s.link with assembling := none, discarded := true }) := by
  have hlast : s.link.atLast = true := by rw [Link.atLast, ha]; exact Frame.atLast_body hf
  have hassemble : s.link.assemble s.clock.ticks { bytes := f.body ++ [c], gapEnds := g } d =
      if c.toNat + 256 * d.toNat = (crc16 f.body).toNat
        then { s.link with assembling := none, complete := s.link.complete ++ [f] } else s.link.discard := by
    have hbytes : f.body ++ [c] ++ [d] = f.body ++ [c, d] := by simp
    unfold Link.assemble
    simp only [hbytes, Assembly.missing, Frame.lenOf_body hf, List.length_append, Frame.length_body, List.length_cons,
      List.length_nil, frameOf_body hf]
    rw [if_neg (by omega), if_pos (by omega)]
    by_cases hcrc : c.toNat + 256 * d.toNat = (crc16 f.body).toNat
    · rw [if_pos hcrc, if_pos hcrc]
    · rw [if_neg hcrc, if_neg hcrc]
  refine congrArg Host.Outcome.next ((if_pos (by rw [h, hlast]; rfl)).trans ?_)
  rw [State.linkByte_eq, Link.lapse_assembling ha hnow, Link.take, ha]
  dsimp only
  rw [if_pos rfl, hassemble]
  split <;> rfl

/-- Settles O21: the byte by the state of the receiver, its place in the frame, and the gap limit. -/
theorem linkReceiverFollowsItsChecks : Obligations.LinkReceiverFollowsItsChecks := by
  refine ⟨fun s b ok h => exec_linkByte_deaf h, fun s b ok h hnone hb => ?_, fun s h hnone => ?_, fun s a b h ha => ?_,
    fun s x b g h ha hnow hlen => ?_, fun s a b h ha hnow hexp => ?_, fun s f c d g h hf ha hnow => exec_linkFrame h hf ha hnow,
    fun s a b ok h ha hlate => ?_, fun s a hheld ha => ?_⟩
  · rw [exec_linkByte_hunting h hnone, Link.take, hnone]
    dsimp only
    rw [if_neg fun hc => hb.elim (fun hf => by rw [hf] at hc; exact Bool.false_ne_true hc.1) (fun hne => hne hc.2)]
    rfl
  · rw [exec_linkByte_hunting h hnone, Link.take, hnone]
    dsimp only
    rw [if_pos ⟨rfl, rfl⟩]
    by_cases hfree : s.link.complete.length < 2
    · have hbuffer : s.link.bufferFree = true := decide_eq_true hfree
      rw [if_pos hbuffer, if_pos hfree]
      rfl
    · have hbuffer : ¬s.link.bufferFree = true := fun hc => hfree (of_decide_eq_true hc)
      rw [if_neg hbuffer, if_neg hfree, Link.discard, ← hnone]
      rfl
  · rw [exec_linkByte h (by simp), State.linkByte_eq]
    rcases Nat.lt_or_ge s.clock.ticks a.gapEnds with hnow | hlate
    · rw [Link.lapse_assembling ha hnow, Link.take, ha]
      rfl
    · rw [Link.lapse_late ha hlate]
      rfl
  · have hlast : ¬({ bytes := [x], gapEnds := g } : Assembly).atLast = true := by rw [Assembly.atLast_iff]; simp
    rw [exec_linkByte_assembling h ha hnow hlast, Link.assemble]
    have hlen' : lenOf ([x] ++ [b]) = x.toNat + 256 * b.toNat := lenOf_cons x b []
    simp only [hlen']
    rw [if_pos ⟨rfl, by omega⟩]
    rfl
  · rw [exec_linkByte_assembling h ha hnow (Assembly.Expects.not_atLast hexp), Link.assemble_stores hexp]
    rfl
  · intro u
    have hlapse : s.link.lapse s.clock.ticks = u.link := Link.lapse_late ha hlate
    have hulapse : u.link.lapse u.clock.ticks = u.link := Link.lapse_none rfl _
    have hbyte (b : Byte) (ok : Bool) : s.linkByte b ok = u.linkByte b ok := by
      rw [State.linkByte_eq, State.linkByte_eq, hlapse, hulapse]
      rfl
    have hulast : u.link.atLast = false := rfl
    have hexec (b : Byte) (ok : Bool) : exec (.linkByteReceived b ok) u = .next (u.linkByte b ok) :=
      exec_linkByte h (by rw [hulapse, hulast]; simp)
    refine ⟨?_, fun f c hf hbytes => ?_⟩
    · rw [hexec, exec_linkByte h (by rw [hlapse, hulast]; simp), hbyte]
    · have hlast : s.link.atLast = true := by
        rw [Link.atLast, ha]
        obtain ⟨bytes, g⟩ := a
        obtain rfl : bytes = f.body ++ [c] := hbytes
        exact Frame.atLast_body hf
      rw [hexec, ← hbyte]
      exact congrArg Host.Outcome.next (if_pos (by rw [h, hlast]; rfl))
  · exact ⟨_, congrArg Host.Outcome.next (State.given_eq hheld ha _), Clock.toTick_ticks _ _ _, rfl⟩

/-! ### The bytes of a whole frame arrive -/

theorem State.Runs.cons {i : Instr} {cs : List Instr} {t : State} (h : exec i s = .next u) (hr : u.Runs cs t) :
    s.Runs (i :: cs) t := by
  rw [State.Runs, List.foldl_cons]
  rw [State.Runs, ← h] at hr
  exact hr

/-- The receiver has taken `bytes` of a frame. -/
def State.receiving (s : State) (bytes : List Byte) : State :=
  s.withLink { s.link with assembling := some { bytes := bytes, gapEnds := s.clock.ticks + 2 } }

/-- A byte of a frame before its last is expected where it stands. -/
theorem Frame.expects (hf : f.payload.length ≤ 541) {pre rest : List Byte} (hall : pre ++ b :: rest = f.body ++ [c]) (g : Nat) :
    ({ bytes := pre, gapEnds := g } : Assembly).Expects b := by
  rw [Frame.body_eq] at hall
  have hlen := Frame.len_eq hf
  match pre with
  | [] => exact .inl rfl
  | [x] =>
    obtain ⟨rfl, rfl, -⟩ : x = _ ∧ b = _ ∧ _ := by simpa using hall
    exact .inr (.inl ⟨_, rfl, by omega, by omega⟩)
  | x :: y :: pre =>
    obtain ⟨rfl, rfl, htail⟩ : x = _ ∧ y = _ ∧ pre ++ b :: rest = _ := by simpa using hall
    have hlength := congrArg List.length htail
    simp only [List.length_append, List.length_cons, List.length_nil] at hlength
    exact .inr (.inr ⟨_, _, pre, rfl, by omega⟩)

theorem State.runs_receiving (h : s.listening = true) (hf : f.payload.length ≤ 541) {cs : List Instr} {t : State}
    (rest : List Byte) {pre : List Byte} (hall : pre ++ rest = f.body ++ [c])
    (hr : (s.receiving (f.body ++ [c])).Runs cs t) :
    (s.receiving pre).Runs (rest.map (fun b => .linkByteReceived b true) ++ cs) t := by
  induction rest generalizing pre with
  | nil =>
    rw [List.append_nil] at hall
    rw [hall]
    exact hr
  | cons b rest ih =>
    have hexp := Frame.expects hf hall (s.clock.ticks + 2)
    refine State.Runs.cons (u := s.receiving (pre ++ [b])) ?_ (ih (by simpa using hall))
    have hbyte := exec_linkByte_assembling (s := s.receiving pre) (b := b) h rfl
      (show s.clock.ticks < s.clock.ticks + 2 by omega) hexp.not_atLast
    rw [hbyte, Link.assemble_stores hexp]
    rfl

/-- Settles O20: START opens a candidate, every byte but the last is stored, and the last completes the frame. -/
theorem frameOnTheWireIsReceived : Obligations.FrameOnTheWireIsReceived := by
  intro s f h hnone hfree hf
  obtain ⟨c, d, hcrc, hvalue⟩ : ∃ c d, leBytes 2 (crc16 f.body).toNat = [c, d] ∧
      c.toNat + 256 * d.toNat = (crc16 f.body).toNat := by
    have hvalue := leNat_leBytes 2 (crc16 f.body).toNat (crc16 f.body).isLt
    exact ⟨_, _, rfl, by simpa [leBytes, leNat] using hvalue⟩
  have hwire : f.wire = 0xA5 :: (f.body ++ [c]) ++ [d] := by rw [Frame.wire, hcrc]; simp
  rw [hwire, List.dropLast_concat, List.getLast?_concat, List.map_cons, List.cons_append]
  refine State.Runs.cons (u := s.receiving []) ?_ (State.runs_receiving h hf _ (List.nil_append _) ?_)
  · rw [exec_linkByte_hunting h hnone, Link.take, hnone]
    dsimp only
    have hbuffer : s.link.bufferFree = true := decide_eq_true hfree
    rw [if_pos ⟨rfl, rfl⟩, if_pos hbuffer]
    rfl
  · refine State.Runs.cons (u := { s with link := { s.link with complete := s.link.complete ++ [f] } }) ?_ rfl
    have hexec := exec_linkFrame (s := s.receiving (f.body ++ [c])) (d := d) h hf rfl
      (show s.clock.ticks < s.clock.ticks + 2 by omega)
    rw [Option.getD_some, hexec, if_pos hvalue, State.receiving]
    simp only [State.withLink, ← hnone]

end

end Sys2Proof.Machine
end


section
/-! PROOFS. The normal form of range lists and the removal of a written block (O48), and MED_ATTACH (O43). -/

namespace Sys2Proof.Machine

set_option Elab.async false

section
variable {r q x cur : Range} {l t before after : List Range} {lba capacity : Nat}

/-! ### Sorting and merging -/

/-- No two ranges of the list overlap or touch, and they ascend. -/
def Separate (l : List Range) : Prop := l.Pairwise fun x y => x.first + x.count < y.first

/-- The list is sorted by first LBA. -/
def Sorted (l : List Range) : Prop := l.Pairwise fun x y => x.first ≤ y.first

theorem Range.covers_iff : r.covers lba = true ↔ r.first ≤ lba ∧ lba < r.first + r.count := decide_eq_true_iff

theorem mem_insertRange : x ∈ insertRange r l ↔ x = r ∨ x ∈ l := by
  induction l with
  | nil => simp [insertRange]
  | cons q qs ih =>
    unfold insertRange
    split
    · simp
    · simp only [List.mem_cons, ih]
      tauto

theorem sorted_insertRange (h : Sorted l) : Sorted (insertRange r l) := by
  induction l with
  | nil => exact List.pairwise_singleton _ r
  | cons q qs ih =>
    obtain ⟨hq, hqs⟩ := List.pairwise_cons.mp h
    unfold insertRange
    split
    · next hle =>
      refine List.pairwise_cons.mpr ⟨fun y hy => ?_, h⟩
      rcases List.mem_cons.mp hy with rfl | hy
      · exact hle
      · exact hle.trans (hq y hy)
    · next hlt =>
      refine List.pairwise_cons.mpr ⟨fun y hy => ?_, ih hqs⟩
      rcases mem_insertRange.mp hy with rfl | hy
      · exact (not_le.mp hlt).le
      · exact hq y hy

theorem mem_sortRanges : x ∈ sortRanges l ↔ x ∈ l := by
  induction l with
  | nil => simp [sortRanges]
  | cons r rs ih => rw [sortRanges, mem_insertRange, ih, List.mem_cons]

theorem sorted_sortRanges (l : List Range) : Sorted (sortRanges l) := by
  induction l with
  | nil => exact List.Pairwise.nil
  | cons r rs ih => exact sorted_insertRange ih

theorem mergeFrom_lower (hs : Sorted (cur :: l)) : ∀ x ∈ mergeFrom cur l, cur.first ≤ x.first := by
  induction l generalizing cur with
  | nil => simp [mergeFrom]
  | cons r rs ih =>
    obtain ⟨hcur, hrs⟩ := List.pairwise_cons.mp hs
    have hle : cur.first ≤ r.first := hcur r List.mem_cons_self
    unfold mergeFrom
    split
    · exact ih (List.pairwise_cons.mpr ⟨fun y hy => hcur y (List.mem_cons_of_mem r hy), (List.pairwise_cons.mp hrs).2⟩)
    · intro x hx
      rcases List.mem_cons.mp hx with rfl | hx
      · exact le_rfl
      · exact hle.trans (ih hrs x hx)

/-- Merging a sorted list separates its ranges, leaves none empty and covers what they cover (R88, step 3). -/
theorem mergeFrom_says (hs : Sorted (cur :: l)) (hpos : ∀ x ∈ cur :: l, 0 < x.count) :
    Separate (mergeFrom cur l) ∧ (∀ x ∈ mergeFrom cur l, 0 < x.count) ∧
      ∀ lba, inRanges (mergeFrom cur l) lba = inRanges (cur :: l) lba := by
  induction l generalizing cur with
  | nil => exact ⟨List.pairwise_singleton _ cur, hpos, fun _ => rfl⟩
  | cons r rs ih =>
    obtain ⟨hcur, hrs⟩ := List.pairwise_cons.mp hs
    have hle : cur.first ≤ r.first := hcur r List.mem_cons_self
    have hc : 0 < cur.count := hpos cur List.mem_cons_self
    unfold mergeFrom
    split
    · next htouch =>
      obtain ⟨hsep, hp, hcov⟩ := ih (cur := { cur with count := max cur.count (r.first + r.count - cur.first) })
        (List.pairwise_cons.mpr ⟨fun y hy => hcur y (List.mem_cons_of_mem r hy), (List.pairwise_cons.mp hrs).2⟩)
        (List.forall_mem_cons.mpr ⟨lt_max_of_lt_left hc, fun y hy => hpos y (by simp [hy])⟩)
      refine ⟨hsep, hp, fun lba => ?_⟩
      rw [hcov, inRanges_cons, inRanges_cons, inRanges_cons, ← Bool.or_assoc]
      congr 1
      rw [Bool.eq_iff_iff, Bool.or_eq_true, Range.covers_iff, Range.covers_iff, Range.covers_iff]
      dsimp only
      omega
    · next hgap =>
      obtain ⟨hsep, hp, hcov⟩ := ih hrs fun y hy => hpos y (List.mem_cons_of_mem cur hy)
      refine ⟨List.pairwise_cons.mpr ⟨fun y hy => ?_, hsep⟩, List.forall_mem_cons.mpr ⟨hc, hp⟩, fun lba => ?_⟩
      · exact (not_le.mp hgap).trans_le (mergeFrom_lower hrs y hy)
      · rw [inRanges_cons, hcov, ← inRanges_cons]

theorem mergeRanges_says (hs : Sorted l) (hpos : ∀ x ∈ l, 0 < x.count) :
    Separate (mergeRanges l) ∧ (∀ x ∈ mergeRanges l, 0 < x.count) ∧
      ∀ lba, inRanges (mergeRanges l) lba = inRanges l lba := by
  cases l with
  | nil => exact ⟨List.Pairwise.nil, hpos, fun _ => rfl⟩
  | cons r rs => exact mergeFrom_says hs hpos

theorem inRanges_congr (h : ∀ x : Range, 0 < x.count → (x ∈ l ↔ x ∈ t)) (lba : Nat) :
    inRanges l lba = true ↔ inRanges t lba = true := by
  rw [inRanges_iff, inRanges_iff]
  refine exists_congr fun x => ?_
  constructor
  · rintro ⟨hx, hlo, hhi⟩
    exact ⟨(h x (by omega)).mp hx, hlo, hhi⟩
  · rintro ⟨hx, hlo, hhi⟩
    exact ⟨(h x (by omega)).mpr hx, hlo, hhi⟩

/-! ### Clipping to the capacity -/

theorem Range.clip_eq_some_iff : r.clip capacity = some x ↔
    r.first < capacity ∧ x = { r with count := min r.count (capacity - r.first) } := by
  unfold Range.clip
  split
  · next h => simp [h]
  · next h => simp [not_le.mp h, eq_comm]

theorem separate_clipped (h : Separate l) : Separate (l.filterMap (Range.clip capacity)) := by
  refine List.Pairwise.filterMap _ (fun a b hab x hx y hy => ?_) h
  obtain ⟨-, rfl⟩ := Range.clip_eq_some_iff.mp hx
  obtain ⟨-, rfl⟩ := Range.clip_eq_some_iff.mp hy
  dsimp only
  omega

theorem inRanges_clipped (lba : Nat) :
    inRanges (l.filterMap (Range.clip capacity)) lba = true ↔ lba < capacity ∧ inRanges l lba = true := by
  simp only [inRanges_iff, List.mem_filterMap, Range.clip_eq_some_iff]
  constructor
  · rintro ⟨x, ⟨q, hq, hlt, rfl⟩, hlo, hhi⟩
    dsimp only at hlo hhi
    exact ⟨by omega, q, hq, hlo, by omega⟩
  · rintro ⟨hlba, q, hq, hlo, hhi⟩
    exact ⟨_, ⟨q, hq, by omega, rfl⟩, hlo, by dsimp only; omega⟩

/-- The normal form of a range list (R88). -/
theorem normalRanges_says (capacity : Nat) (l : List Range) :
    Separate (normalRanges capacity l) ∧ (∀ x ∈ normalRanges capacity l, 0 < x.count ∧ x.first + x.count ≤ capacity) ∧
      ∀ lba, inRanges (normalRanges capacity l) lba = true ↔ lba < capacity ∧ inRanges l lba = true := by
  have hmem (x : Range) : x ∈ sortRanges (l.filter (fun r => r.count != 0)) ↔ x ∈ l ∧ x.count ≠ 0 := by
    rw [mem_sortRanges, List.mem_filter, bne_iff_ne]
  obtain ⟨hsep, hpos, hcov⟩ := mergeRanges_says (sorted_sortRanges (l.filter (fun r => r.count != 0)))
    fun x hx => Nat.pos_of_ne_zero ((hmem x).mp hx).2
  refine ⟨separate_clipped hsep, fun x hx => ?_, fun lba => ?_⟩
  · obtain ⟨q, hq, hclip⟩ := List.mem_filterMap.mp hx
    obtain ⟨hlt, rfl⟩ := Range.clip_eq_some_iff.mp hclip
    have hq0 := hpos q hq
    dsimp only
    omega
  · rw [normalRanges, inRanges_clipped, hcov,
      inRanges_congr (fun x hx => (hmem x).trans (and_iff_left (Nat.ne_of_gt hx)))]

/-! ### Removing a written block -/

/-- What a table of `k` ranges keeps of a range when a block inside it is written (R91). -/
def Range.kept (k : Nat) (r : Range) (lba : Nat) : List Range :=
  if k < 16 then r.remnants lba else keepLonger (r.remnants lba)

theorem Range.remnants_inner (hlo : r.first < lba) (hhi : lba + 1 < r.first + r.count) :
    r.remnants lba = [⟨r.first, lba - r.first⟩, ⟨lba + 1, r.first + r.count - (lba + 1)⟩] := by
  have h₁ : lba - r.first ≠ 0 := by omega
  have h₂ : r.first + r.count - (lba + 1) ≠ 0 := by omega
  simp [Range.remnants, h₁, h₂]

theorem Range.remnants_first (h : lba = r.first) (hhi : lba + 1 < r.first + r.count) :
    r.remnants lba = [⟨lba + 1, r.first + r.count - (lba + 1)⟩] := by
  have h₁ : lba - r.first = 0 := by omega
  have h₂ : r.first + r.count - (lba + 1) ≠ 0 := by omega
  simp [Range.remnants, h₁, h₂]

theorem Range.remnants_last (hlo : r.first < lba) (h : lba + 1 = r.first + r.count) :
    r.remnants lba = [⟨r.first, lba - r.first⟩] := by
  have h₁ : lba - r.first ≠ 0 := by omega
  have h₂ : r.first + r.count - (lba + 1) = 0 := by omega
  simp [Range.remnants, h₁, h₂]

theorem Range.remnants_only (h : lba = r.first) (hlast : lba + 1 = r.first + r.count) : r.remnants lba = [] := by
  have h₁ : lba - r.first = 0 := by omega
  have h₂ : r.first + r.count - (lba + 1) = 0 := by omega
  simp [Range.remnants, h₁, h₂]

theorem Range.kept_of_edge {k : Nat} (h : lba = r.first ∨ lba + 1 = r.first + r.count) (hc : r.covers lba = true) :
    r.kept k lba = r.remnants lba := by
  obtain ⟨hlo, hhi⟩ := Range.covers_iff.mp hc
  unfold Range.kept
  split
  · rfl
  · by_cases hfirst : lba = r.first
    · by_cases hlast : lba + 1 = r.first + r.count
      · rw [Range.remnants_only hfirst hlast]; rfl
      · rw [Range.remnants_first hfirst (by omega)]; rfl
    · rw [Range.remnants_last (by omega) (h.resolve_left hfirst)]; rfl

/-- What is kept of a range lies inside it, in order, and without the block; at most one range where the table is full. -/
theorem Range.kept_says (k : Nat) (hc : r.covers lba = true) :
    Separate (r.kept k lba) ∧ (∀ x ∈ r.kept k lba, 0 < x.count ∧ r.first ≤ x.first ∧ x.first + x.count ≤ r.first + r.count) ∧
      (r.kept k lba).length ≤ (if k < 16 then 2 else 1) := by
  obtain ⟨hlo, hhi⟩ := Range.covers_iff.mp hc
  by_cases hedge : lba = r.first ∨ lba + 1 = r.first + r.count
  · have hone : (if k < 16 then 2 else 1) ≥ 1 := by split <;> omega
    rw [Range.kept_of_edge hedge hc]
    by_cases hfirst : lba = r.first
    · by_cases hlast : lba + 1 = r.first + r.count
      · rw [Range.remnants_only hfirst hlast]
        exact ⟨List.Pairwise.nil, by simp, Nat.zero_le _⟩
      · rw [Range.remnants_first hfirst (by omega)]
        exact ⟨List.pairwise_singleton _ _, List.forall_mem_singleton.mpr (by dsimp only; omega), hone⟩
    · rw [Range.remnants_last (by omega) (hedge.resolve_left hfirst)]
      exact ⟨List.pairwise_singleton _ _, List.forall_mem_singleton.mpr (by dsimp only; omega), hone⟩
  · have hin : r.first < lba ∧ lba + 1 < r.first + r.count := by omega
    rw [Range.kept, Range.remnants_inner hin.1 hin.2]
    split
    · refine ⟨List.pairwise_pair.mpr ?_, ?_, le_rfl⟩
      · dsimp only; omega
      · exact List.forall_mem_cons.mpr ⟨by dsimp only; omega, List.forall_mem_singleton.mpr (by dsimp only; omega)⟩
    · unfold keepLonger
      dsimp only
      split_ifs
      · exact ⟨List.pairwise_singleton _ _, List.forall_mem_singleton.mpr (by dsimp only; omega), le_rfl⟩
      · exact ⟨List.pairwise_singleton _ _, List.forall_mem_singleton.mpr (by dsimp only; omega), le_rfl⟩

theorem Range.remnants_cover (hc : r.covers lba = true) (x : Nat) :
    inRanges (r.remnants lba) x = true ↔ r.covers x = true ∧ x ≠ lba := by
  obtain ⟨hlo, hhi⟩ := Range.covers_iff.mp hc
  have hpos (q : Range) : (q.count != 0) = true ↔ q.count ≠ 0 := bne_iff_ne
  simp only [Range.remnants, inRanges_iff, List.mem_filter, hpos, List.mem_cons, List.not_mem_nil, or_false, Range.covers_iff]
  constructor
  · rintro ⟨q, ⟨rfl | rfl, -⟩, h₁, h₂⟩
    · dsimp only at h₁ h₂; omega
    · dsimp only at h₁ h₂; omega
  · rintro ⟨h, hne⟩
    by_cases hx : x < lba
    · exact ⟨_, ⟨Or.inl rfl, by dsimp only; omega⟩, h.1, by dsimp only; omega⟩
    · exact ⟨_, ⟨Or.inr rfl, by dsimp only; omega⟩, by dsimp only; omega, by dsimp only; omega⟩

theorem flatMap_kept_of_not_covers (k : Nat) (h : inRanges l lba = false) :
    l.flatMap (fun r => if r.covers lba then r.kept k lba else [r]) = l := by
  induction l with
  | nil => rfl
  | cons r rs ih =>
    obtain ⟨hr, hrs⟩ : r.covers lba = false ∧ inRanges rs lba = false := Bool.or_eq_false_iff.mp h
    rw [List.flatMap_cons, ih hrs, hr]
    rfl

theorem removeBlock_eq (l : List Range) (lba : Nat) :
    removeBlock l lba = l.flatMap (fun r => if r.covers lba then r.kept l.length lba else [r]) := rfl

theorem removeBlock_of_not_covers (h : inRanges l lba = false) : removeBlock l lba = l :=
  flatMap_kept_of_not_covers l.length h

/-- In a separate table at most one range covers a block. -/
theorem Separate.others (h : Separate (before ++ q :: after)) (hc : q.covers lba = true) :
    inRanges before lba = false ∧ inRanges after lba = false := by
  obtain ⟨hlo, hhi⟩ := Range.covers_iff.mp hc
  obtain ⟨-, hafter, hbefore⟩ := List.pairwise_append.mp h
  constructor
  · rw [Bool.eq_false_iff]
    intro hin
    obtain ⟨x, hx, -, hxhi⟩ := (inRanges_iff _ _).mp hin
    have := hbefore x hx q List.mem_cons_self
    omega
  · rw [Bool.eq_false_iff]
    intro hin
    obtain ⟨x, hx, hxlo, -⟩ := (inRanges_iff _ _).mp hin
    have := (List.pairwise_cons.mp hafter).1 x hx
    omega

/-- The table without a written block: what is kept of its range takes that range's place (R91). -/
theorem removeBlock_at (h : Separate (before ++ q :: after)) (hc : q.covers lba = true) :
    removeBlock (before ++ q :: after) lba = before ++ q.kept (before ++ q :: after).length lba ++ after := by
  obtain ⟨hb, ha⟩ := h.others hc
  rw [removeBlock_eq, List.flatMap_append, List.flatMap_cons, flatMap_kept_of_not_covers _ hb, flatMap_kept_of_not_covers _ ha, hc,
    if_pos rfl, List.append_assoc]

theorem Separate.replace (h : Separate (before ++ q :: after)) (ht : Separate t)
    (hin : ∀ x ∈ t, q.first ≤ x.first ∧ x.first + x.count ≤ q.first + q.count) : Separate (before ++ t ++ after) := by
  obtain ⟨hbefore, hrest, hcross⟩ := List.pairwise_append.mp h
  obtain ⟨hq, hafter⟩ := List.pairwise_cons.mp hrest
  refine List.pairwise_append.mpr ⟨List.pairwise_append.mpr ⟨hbefore, ht, fun x hx y hy => ?_⟩, hafter, fun x hx y hy => ?_⟩
  · exact (hcross x hx q List.mem_cons_self).trans_le (hin y hy).1
  · rcases List.mem_append.mp hx with hx | hx
    · exact hcross x hx y (List.mem_cons_of_mem q hy)
    · exact (hin x hx).2.trans_lt (hq y hy)

/-- A removed block leaves a table that is separate, without empty ranges, and not above 16 ranges (R91). -/
theorem removeBlock_says (h : Separate l) (hpos : ∀ x ∈ l, 0 < x.count) (hlen : l.length ≤ 16) (lba : Nat) :
    Separate (removeBlock l lba) ∧ (∀ x ∈ removeBlock l lba, 0 < x.count) ∧ (removeBlock l lba).length ≤ 16 := by
  by_cases hin : inRanges l lba = true
  · obtain ⟨q, hq, hc⟩ := (inRanges_iff l lba).mp hin
    have hc : q.covers lba = true := Range.covers_iff.mpr hc
    obtain ⟨before, after, rfl⟩ := List.append_of_mem hq
    obtain ⟨hsep, hkept, hfew⟩ := Range.kept_says (before ++ q :: after).length hc
    rw [removeBlock_at h hc]
    refine ⟨h.replace hsep fun x hx => (hkept x hx).2, fun x hx => ?_, ?_⟩
    · rcases List.mem_append.mp hx with hx | hx
      · rcases List.mem_append.mp hx with hx | hx
        · exact hpos x (by simp [hx])
        · exact (hkept x hx).1
      · exact hpos x (by simp [hx])
    · simp only [List.length_append, List.length_cons] at hlen hfew ⊢
      split at hfew <;> omega
  · rw [removeBlock_of_not_covers (Bool.eq_false_iff.mpr hin)]
    exact ⟨h, hpos, hlen⟩

/-- Where every remnant is kept, the table covers exactly its other blocks (R91). -/
theorem inRanges_removeBlock (h : Separate l)
    (hkeep : l.length < 16 ∨ ∀ q ∈ l, lba = q.first ∨ lba + 1 = q.first + q.count ∨ q.covers lba = false) (x : Nat) :
    inRanges (removeBlock l lba) x = true ↔ inRanges l x = true ∧ x ≠ lba := by
  by_cases hin : inRanges l lba = true
  · obtain ⟨q, hq, hc⟩ := (inRanges_iff l lba).mp hin
    have hc : q.covers lba = true := Range.covers_iff.mpr hc
    obtain ⟨before, after, rfl⟩ := List.append_of_mem hq
    obtain ⟨hb, ha⟩ := h.others hc
    have hall : q.kept (before ++ q :: after).length lba = q.remnants lba := by
      rcases hkeep with hsmall | hedge
      · exact if_pos hsmall
      · rcases hedge q hq with hedge | hedge | hout
        · exact Range.kept_of_edge (.inl hedge) hc
        · exact Range.kept_of_edge (.inr hedge) hc
        · exact absurd hc (by rw [hout]; exact Bool.false_ne_true)
    have hbx : inRanges before x = true → x ≠ lba := by rintro hx rfl; rw [hb] at hx; cases hx
    have hax : inRanges after x = true → x ≠ lba := by rintro hx rfl; rw [ha] at hx; cases hx
    rw [removeBlock_at h hc, hall, inRanges_append, inRanges_append, inRanges_append, inRanges_cons]
    simp only [Bool.or_eq_true, Range.remnants_cover hc]
    tauto
  · have hout := Bool.eq_false_iff.mpr hin
    rw [removeBlock_of_not_covers hout]
    refine ⟨fun hx => ⟨hx, ?_⟩, And.left⟩
    rintro rfl
    exact hin hx

/-- Settles O48: sorting, merging and clipping; and what is kept of the one range that covers the block. -/
theorem rangeTablesAreNormal : Obligations.RangeTablesAreNormal := by
  refine ⟨normalRanges_says, ?_⟩
  intro l lba h hpos hlen r
  obtain ⟨hsep, hp, hfew⟩ := removeBlock_says h hpos hlen lba
  refine ⟨hsep, hp, hfew, removeBlock_of_not_covers, inRanges_removeBlock h, ?_⟩
  rintro before q after hfull rfl hlo hhi
  have hc : q.covers lba = true := Range.covers_iff.mpr ⟨hlo.le, by omega⟩
  show removeBlock _ _ = _
  rw [removeBlock_at h hc, Range.kept, if_neg (by omega), Range.remnants_inner hlo hhi, keepLonger, List.append_assoc]
  dsimp only
  split_ifs <;> rfl

end

section
variable {s : State} {n : NodeId} {p : List Byte} {boot : Half}

/-! ### MED_ATTACH -/

/-- The medium a MED_ATTACH payload describes (R77). -/
def attachedMedium (p : List Byte) (boot : Half) : Medium where
  state := .ready
  imageId := fieldAt p 0 4
  capacity := fieldAt p 4 4
  policy := if byteAt p 8 = 0 then .readOnly else if byteAt p 8 = 1 then .acked else .cached
  present := if byteAt p 9 = 0 then .persist else .once boot
  removable := (byteAt p 10).getLsbD 0
  changed := true
  protect := []
  zero := []

/-- The fields R77 refuses. -/
def AttachRefused (p : List Byte) : Prop := fieldAt p 4 4 = 0 ∨ 2 < byteAt p 8 ∨ 1 < byteAt p 9

theorem WritePolicy.ofCode_listed {b : Byte} (h : ¬2 < b) :
    WritePolicy.ofCode b = some (if b = 0 then .readOnly else if b = 1 then .acked else .cached) := by
  rcases Byte.le_two (BitVec.not_lt.mp h) with rfl | rfl | rfl <;> rfl

theorem Presentation.ofCode_listed {b : Byte} (h : ¬1 < b) :
    Presentation.ofCode b boot = some (if b = 0 then .persist else .once boot) := by
  rcases Byte.le_one (BitVec.not_lt.mp h) with rfl | rfl <;> rfl

theorem Presentation.ofCode_unlisted {b : Byte} (h : 1 < b) : Presentation.ofCode b boot = none := by
  have h₀ : b ≠ 0 := by rintro rfl; exact absurd h (by decide)
  have h₁ : b ≠ 1 := by rintro rfl; exact absurd h (by decide)
  rw [Presentation.ofCode, if_neg h₀, if_neg h₁]

theorem Medium.ofPayload_refused (h : AttachRefused p) : Medium.ofPayload p boot = none := by
  unfold Medium.ofPayload
  rcases h with h | h | h
  · rw [h]
    cases WritePolicy.ofCode (byteAt p 8) <;> cases Presentation.ofCode (byteAt p 9) boot <;> rfl
  · rw [WritePolicy.ofCode_none _ h]
  · rw [Presentation.ofCode_unlisted h]
    cases WritePolicy.ofCode (byteAt p 8) <;> rfl

theorem Medium.ofPayload_accepted (h : ¬AttachRefused p) : Medium.ofPayload p boot = some (attachedMedium p boot) := by
  simp only [AttachRefused, not_or] at h
  obtain ⟨hcap, hpolicy, hpresent⟩ := h
  rw [Medium.ofPayload, WritePolicy.ofCode_listed hpolicy, Presentation.ofCode_listed hpresent]
  exact if_neg hcap

theorem State.OnlyNode.set (s : State) (n : NodeId) (d : Node) : s.OnlyNode (s.setNd n d) n := by
  rw [State.OnlyNode, State.nd_setNd_same]

/-- The node with a medium attached. -/
def Node.attached (d : Node) (p : List Byte) : Node :=
  { d with media := { d.media with slot := some (attachedMedium p d.power.boot), continuation := none, statePending := true } }

theorem State.attach_badParam (h : AttachRefused p) : s.attach n p = s.answers .badParam (slotBlock (s.slot n)) := by
  rw [State.attach, Medium.ofPayload_refused h]

theorem State.attach_badState (h : ¬AttachRefused p) (hs : s.slot n ≠ none) :
    s.attach n p = s.answers .badState (slotBlock (s.slot n)) := by
  rw [State.attach, Medium.ofPayload_accepted h]
  exact if_pos (Option.isSome_iff_ne_none.mpr hs)

theorem State.attach_ok (h : ¬AttachRefused p) (hs : s.slot n = none) :
    s.attach n p = (s.setNd n ((s.nd n).attached p)).answers .ok (slotBlock (some (attachedMedium p (s.nd n).power.boot))) := by
  rw [State.attach, Medium.ofPayload_accepted h]
  dsimp only
  rw [hs, if_neg (show ¬(none : Option Medium).isSome = true from Bool.false_ne_true)]
  simp [State.slot, State.mapMedia, Node.attached]

/-- Settles O43: the checks of R77 in their order, then the slot. -/
theorem medAttachFillsAnAbsentSlot : Obligations.MedAttachFillsAnAbsentSlot := by
  intro s tag n p h hp bad
  have hl : Frame.lengthOk ⟨0x20, tag, n.toByte, p⟩ = true := Frame.lengthOk_of_mem hp (by decide)
  by_cases hbad : bad
  · have hc : s.takeFrame.attach n p = _ := State.attach_badParam hbad
    exact ⟨_, exec_nodeRequest_answers rfl h hl hc, fun _ => s.refused_replied _ _, fun hn => absurd hbad hn,
      fun hn => absurd hbad hn⟩
  · by_cases hs : s.slot n = none
    · have hc : s.takeFrame.attach n p = _ := State.attach_ok hbad hs
      obtain ⟨honly, hreplied⟩ := (State.OnlyNode.set s.takeFrame n ((s.nd n).attached p)).answered
        (nodeFrame 0x20 tag n p) { result := .ok, fields := slotBlock (some (attachedMedium p (s.nd n).power.boot)) }
      refine ⟨_, exec_nodeRequest_answers rfl h hl hc, fun hb => absurd hb hbad, fun _ hne => absurd hs hne, fun _ _ => ⟨honly, ?_, ?_⟩⟩
      · rw [State.reply_nd, State.nd_setNd_same]
        rfl
      · rw [State.slot, State.reply_nd, State.nd_setNd_same]
        exact hreplied
    · have hc : s.takeFrame.attach n p = _ := State.attach_badState hbad hs
      exact ⟨_, exec_nodeRequest_answers rfl h hl hc, fun hb => absurd hb hbad, fun _ _ => s.refused_replied _ _,
        fun _ hn => absurd hn hs⟩

end

end Sys2Proof.Machine
end


section
/-! PROOFS. The notices: whose turn it is in class 2 and in classes 3 to 5, and what each carries and changes (O23, O24). -/

namespace Sys2Proof.Machine

set_option Elab.async false

/-! ### Whose turn it is (R179, R180) -/

section
variable {s t : State} {n m : NodeId} {k : StateNotice} {b : Bulk}

/-- In this order the first that `p` accepts is `a`. -/
def FirstOf {α : Type} (l : List α) (p : α → Bool) (a : α) : Prop :=
  ∃ before rest, l = before ++ a :: rest ∧ (∀ x ∈ before, p x = false) ∧ p a = true

theorem FirstOf.find?_eq {α : Type} {l : List α} {p : α → Bool} {a : α} (h : FirstOf l p a) : l.find? p = some a := by
  obtain ⟨before, rest, rfl, hbefore, ha⟩ := h
  exact List.find?_eq_some_iff_append.mpr ⟨ha, before, rest, rfl, fun x hx => by rw [hbefore x hx]; rfl⟩

/-- Class 2: the node, and of its kinds the kind, that have the turn (R179). -/
structure State.StateTurn (s : State) (n : NodeId) (k : StateNotice) : Prop where
  node : ∃ before rest, s.link.lastState.after = before ++ n :: rest ∧
    ∀ m ∈ before, ∀ j, s.stateNoticePending m j = false
  kind : FirstOf (s.link.lastKind.get n).after (s.stateNoticePending n) k

theorem State.StateTurn.pick (h : s.StateTurn n k) : s.pickStateNotice = some (n, k) := by
  obtain ⟨before, rest, hnodes, hbefore⟩ := h.node
  obtain ⟨kinds, others, hkinds, -, hk⟩ := h.kind
  have hnode : FirstOf s.link.lastState.after (fun n => (s.link.lastKind.get n).after.any (s.stateNoticePending n)) n :=
    ⟨before, rest, hnodes, fun m hm => List.any_eq_false.mpr fun j _ => by rw [hbefore m hm j]; exact Bool.false_ne_true,
      List.any_eq_true.mpr ⟨k, by rw [hkinds]; simp, hk⟩⟩
  rw [State.pickStateNotice, hnode.find?_eq, Option.bind_some, h.kind.find?_eq, Option.map_some]

theorem State.pickStateNotice_none (h : ∀ m j, s.stateNoticePending m j = false) : s.pickStateNotice = none := by
  rw [State.pickStateNotice, List.find?_eq_none.mpr fun m _ => ?_, Option.bind_none]
  rw [Bool.not_eq_true, List.any_eq_false]
  exact fun j _ => by rw [h m j]; exact Bool.false_ne_true

/-- Classes 3 to 5: the class, and in it the node, that have the turn (R180). -/
structure State.BulkTurn (s : State) (b : Bulk) (n : NodeId) : Prop where
  bulk : ∃ before rest, [s.link.rotation, s.link.rotation.succ, s.link.rotation.succ.succ] = before ++ b :: rest ∧
    ∀ x ∈ before, ∀ m, s.bulkPending m x = false
  node : FirstOf (s.link.lastBulk b).after (fun m => s.bulkPending m b) n

theorem State.BulkTurn.pick (h : s.BulkTurn b n) : s.pickBulk = some (b, n) := by
  obtain ⟨before, rest, horder, hbefore⟩ := h.bulk
  have hnone (x : Bulk) (hx : x ∈ before) : s.pickBulkNode x = none :=
    List.find?_eq_none.mpr fun m _ => by rw [hbefore x hx m]; exact Bool.false_ne_true
  rw [State.pickBulk, horder, List.findSome?_append, List.findSome?_eq_none_iff.mpr fun x hx => by rw [hnone x hx]; rfl,
    Option.none_or, List.findSome?_cons, State.pickBulkNode, h.node.find?_eq]
  rfl

/-! ### An empty CON_EVENT turn (R46) -/

/-- The nodes whose CON_EVENT is pending. -/
def State.eventTurns (s : State) : Nat := NodeId.all.countP fun n => (s.nd n).hist.eventPending

/-- After a CON_EVENT turn of node `n` that found nothing to send: the pointers name it, and its flag is clear. -/
def State.turnPassed (s : State) (n : NodeId) : State :=
  (s.mapLink (fun l => l.stateServed n .evt)).mapHist n (fun h => { h with eventPending := false })

theorem State.eventTurns_turnPassed (h : (s.nd n).hist.eventPending = true) : (s.turnPassed n).eventTurns + 1 = s.eventTurns := by
  have hnode (m : NodeId) : ((s.turnPassed n).nd m).hist.eventPending = if m = n then false else (s.nd m).hist.eventPending := by
    simp only [State.turnPassed, State.mapHist, State.nd_setNd, State.nd_mapLink]
    split <;> rfl
  unfold State.eventTurns NodeId.all
  simp only [List.countP_cons, List.countP_nil, hnode]
  cases n <;> simp [h] <;> omega

theorem State.StateTurn.pending (h : s.pickStateNotice = some (n, k)) : s.stateNoticePending n k = true := by
  obtain ⟨m, -, hm⟩ := Option.bind_eq_some_iff.mp h
  obtain ⟨j, hj, heq⟩ := Option.map_eq_some_iff.mp hm
  obtain ⟨rfl, rfl⟩ := Prod.mk.inj heq
  exact List.find?_some hj

theorem State.grantNotice_passed (h : s.pickStateNotice = some (n, .evt)) (hempty : (s.nd n).hist.eventsToSend = []) (fuel : Nat) :
    s.grantNotice (fuel + 1) = (s.turnPassed n).grantNotice fuel := by
  rw [State.grantNotice, h]
  exact if_pos ⟨rfl, hempty⟩

theorem State.grantNotice_sent (h : s.pickStateNotice = some (n, k)) (hsome : ¬(k = .evt ∧ (s.nd n).hist.eventsToSend = []))
    (fuel : Nat) : s.grantNotice (fuel + 1) = (s.mapLink (fun l => l.stateServed n k)).buildStateNotice n k := by
  rw [State.grantNotice, h]
  exact if_neg hsome

theorem State.grantNotice_bulk (h : s.pickStateNotice = none) (hb : s.pickBulk = some (b, n)) (fuel : Nat) :
    s.grantNotice (fuel + 1) = (s.mapLink (fun l => l.bulkServed b n)).buildBulk n b := by
  rw [State.grantNotice, h]
  dsimp only
  rw [hb]

/-- More choices than there are CON_EVENT turns change nothing: each empty turn clears a flag. -/
theorem State.grantNotice_fuel (fuel : Nat) (s : State) (h : s.eventTurns < fuel) :
    s.grantNotice (fuel + 1) = s.grantNotice fuel := by
  induction fuel generalizing s with
  | zero => exact absurd h (Nat.not_lt_zero _)
  | succ fuel ih =>
    cases hp : s.pickStateNotice with
    | none =>
      cases hb : s.pickBulk with
      | none =>
        simp only [State.grantNotice, hp, hb]
      | some c => rw [State.grantNotice_bulk hp hb, State.grantNotice_bulk hp hb]
    | some c =>
      obtain ⟨n, k⟩ := c
      by_cases hempty : k = .evt ∧ (s.nd n).hist.eventsToSend = []
      · obtain ⟨rfl, hnone⟩ := hempty
        have hfewer := State.eventTurns_turnPassed (s := s) (n := n) (State.StateTurn.pending hp)
        rw [State.grantNotice_passed hp hnone, State.grantNotice_passed hp hnone, ih _ (by omega)]
      · rw [State.grantNotice_sent hp hempty, State.grantNotice_sent hp hempty]

theorem State.eventTurns_le (s : State) : s.eventTurns ≤ 4 := List.countP_le_length

/-! ### The contents of the class 2 notices -/

/-- The entry off the unsent list. -/
def Event.sent (e : Event) : Event := { e with unsent := false }

theorem markSent_map_sent (k : Nat) (es : List Event) : (markSent k es).map Event.sent = es.map Event.sent := by
  induction es generalizing k with
  | nil => cases k <;> rfl
  | cons e es ih =>
    cases k with
    | zero => rfl
    | succ k =>
      unfold markSent
      split
      · rw [List.map_cons, List.map_cons, ih]; rfl
      · rw [List.map_cons, List.map_cons, ih]

theorem markSent_unsent (k : Nat) (es : List Event) : (markSent k es).filter (·.unsent) = (es.filter (·.unsent)).drop k := by
  induction es generalizing k with
  | nil => cases k <;> rfl
  | cons e es ih =>
    cases k with
    | zero => rfl
    | succ k =>
      unfold markSent
      split
      · next he => rw [List.filter_cons_of_neg (by simp), List.filter_cons_of_pos he, ih, List.drop_succ_cons]
      · next he => rw [List.filter_cons_of_neg he, List.filter_cons_of_neg he, ih]

theorem History.eventsToSend_eq_nil_iff (h : History) : h.eventsToSend = [] ↔ ∀ e ∈ h.index, e.unsent = false := by
  rw [History.eventsToSend, List.take_eq_nil_iff]
  simp [List.filter_eq_nil_iff]

/-- What the class 2 notice of this kind carries (R23, R46, R124, R149, R165). -/
def State.noticePayload (s : State) (n : NodeId) : StateNotice → List Byte
  | .pwr => s.powerContent n
  | .liv => s.liveBlock n
  | .med => s.mediaBlock n
  | .evt => (s.nd n).hist.eventPayload
  | .room => leBytes 2 (s.txRoom n)

/-- The node once the notice of this kind has been built. -/
def Node.noticed (d : Node) : StateNotice → Node
  | .pwr => { d with power := { d.power with ended := [], endedLost := 0, statePending := false } }
  | .liv => { d with live := { d.live with warnings := 0, deferrals := 0, statePending := false } }
  | .med => { d with media := { d.media with statePending := false } }
  | .evt => { d with hist := d.hist.eventsSent }
  | .room => { d with line := { d.line with roomPending := false } }

theorem State.buildStateNotice_eq (s : State) (n : NodeId) (k : StateNotice) :
    s.buildStateNotice n k = { s.setNd n ((s.nd n).noticed k) with
      link := { s.link with sending := some { frame := nodeFrame k.kind 0 n (s.noticePayload n k), isReply := false, sent := 0 } } } := by
  cases k <;> rfl

theorem State.noticePayload_served (s : State) (n m : NodeId) (j k : StateNotice) :
    (s.mapLink (fun l => l.stateServed m j)).noticePayload n k = s.noticePayload n k := by
  cases k <;> rfl

/-- A notice sent: the pointers name its turn, and it stands on LTX. -/
def State.notified (s : State) (n : NodeId) (k : StateNotice) : State :=
  { s.setNd n ((s.nd n).noticed k) with
    link :=
      { s.link with
        lastState := n
        lastKind := s.link.lastKind.set n k
        sending := some { frame := nodeFrame k.kind 0 n (s.noticePayload n k), isReply := false, sent := 0 } } }

theorem State.notified_nd (s : State) (n : NodeId) (k : StateNotice) : (s.notified n k).nd n = (s.nd n).noticed k :=
  s.nd_setNd_same n _

theorem State.notified_onlyNodeAndLink (s : State) (n : NodeId) (k : StateNotice) : s.OnlyNodeAndLink (s.notified n k) n := by
  rw [State.OnlyNodeAndLink, State.notified_nd]
  rfl

theorem State.grant_sent (hr : s.link.replies = []) (hd : s.link.restart = none) (hp : s.link.readyPending = false)
    (h : s.StateTurn n k) (hsome : k = .evt → ∃ e ∈ (s.nd n).hist.index, e.unsent = true) : s.grant = s.notified n k := by
  have hkeep : ¬(k = .evt ∧ (s.nd n).hist.eventsToSend = []) := by
    rintro ⟨hevt, hempty⟩
    obtain ⟨e, he, hunsent⟩ := hsome hevt
    rw [(History.eventsToSend_eq_nil_iff _).mp hempty e he] at hunsent
    cases hunsent
  rw [s.grant_notice hr hd hp, State.grantNotice_sent h.pick hkeep, State.buildStateNotice_eq, State.noticePayload_served]
  rfl

theorem State.grant_passed (hr : s.link.replies = []) (hd : s.link.restart = none) (hp : s.link.readyPending = false)
    (h : s.StateTurn n .evt) (hempty : ∀ e ∈ (s.nd n).hist.index, e.unsent = false) : s.grant = (s.turnPassed n).grant := by
  have hfewer := State.eventTurns_turnPassed (s := s) (n := n) (State.StateTurn.pending h.pick)
  have hle := s.eventTurns_le
  have hagain : (s.turnPassed n).grant = (s.turnPassed n).grantNotice 5 := State.grant_notice _ hr hd hp
  rw [s.grant_notice hr hd hp, State.grantNotice_passed h.pick ((History.eventsToSend_eq_nil_iff _).mpr hempty), hagain,
    State.grantNotice_fuel 4 _ (by omega)]

/-- Settles O23: the turn of class 2 is the first of its order, an empty CON_EVENT turn passes, and any other is sent. -/
theorem grantsStateNoticesInTurn : Obligations.GrantsStateNoticesInTurn := by
  refine ⟨fun s n hmay hr hd hp hnode hkind hpending hempty => ?_, fun s n k hmay hr hd hp hnode hkind hpending hsome => ?_⟩
  · obtain ⟨kinds, others, hkinds, hbefore⟩ := hkind
    have hturn : s.StateTurn n .evt := ⟨hnode, kinds, others, hkinds, hbefore, hpending⟩
    have hmay' : (s.turnPassed n).mayGrant = true := hmay
    have hpassed : exec .arbiterGrant (s.turnPassed n) = .next (s.turnPassed n).grant := exec_arbiterGrant hmay'
    rw [exec_arbiterGrant hmay, State.grant_passed hr hd hp hturn hempty]
    exact hpassed.symm
  · obtain ⟨kinds, others, hkinds, hbefore⟩ := hkind
    have hturn : s.StateTurn n k := ⟨hnode, kinds, others, hkinds, hbefore, hpending⟩
    have hnd := s.notified_nd n k
    refine ⟨s.notified n k, s.noticePayload n k, ?_, s.notified_onlyNodeAndLink n k, rfl, ?_, ?_, ?_, ?_, ?_⟩
    · rw [exec_arbiterGrant hmay, State.grant_sent hr hd hp hturn hsome]
    · rintro rfl
      exact ⟨rfl, hnd⟩
    · rintro rfl
      exact ⟨rfl, hnd⟩
    · rintro rfl
      exact ⟨rfl, hnd⟩
    · rintro rfl
      exact ⟨rfl, hnd⟩
    · rintro rfl h u
      rw [hnd]
      refine ⟨?_, markSent_map_sent 8 h.index, markSent_unsent 8 h.index, rfl⟩
      show h.eventPayload = _
      rw [History.eventPayload, History.eventsToSend, List.length_take]
      rfl

end

end Sys2Proof.Machine
end


section
/-! PROOFS. The bulk notices: the run of fetches, the bytes delivered, and the block written out (O24). -/

namespace Sys2Proof.Machine

set_option Elab.async false

section
variable {s : State} {n : NodeId} {b : Bulk}

/-! ### Entries whose state is set -/

/-- The entries in the pages of `ps` are in state `st`. -/
def State.restated (s : State) (ps : List Nat) (st : EntryState) : State :=
  { s with entries := s.entries.map (fun e => if e.page ∈ ps then { e with state := st } else e) }

theorem State.restated_nil (st : EntryState) : s.restated [] st = s := by simp [State.restated]

theorem State.restated_setEntry (p : Nat) (ps : List Nat) (st : EntryState) :
    (s.setEntry p st).restated ps st = s.restated (p :: ps) st := by
  unfold State.restated State.setEntry
  dsimp only
  rw [List.map_map]
  congr 2
  funext e
  by_cases hp : e.page = p
  · simp [hp]
  · simp [hp]

/-- Setting entries one after another, to a state that this does not change, sets them all. -/
theorem State.foldl_setEntry (st : State → EntryState) (hst : ∀ u p x, st (State.setEntry u p x) = st u) (ps : List Nat) (s : State) :
    ps.foldl (fun s p => s.setEntry p (st s)) s = s.restated ps (st s) := by
  induction ps generalizing s with
  | nil => exact (s.restated_nil (st s)).symm
  | cons p ps ih => rw [List.foldl_cons, ih, hst, State.restated_setEntry]

theorem State.setEntry_eq_restated (p : Nat) (st : EntryState) : s.setEntry p st = s.restated [p] st := by
  simp [State.setEntry, State.restated]

/-! ### The run of fetches (R104) -/

theorem State.lbaOf_of_tagged {p : Nat} {e : Entry} (h : s.tagged p = some e) : s.lbaOf p = e.lba := by
  rw [State.lbaOf, h]; rfl

/-- A run of fetches is the longest run of consecutive LBAs, of at most `k`, at the head of the list. -/
theorem fetchRun_says (s : State) (k lba : Nat) (ps : List Nat) (htag : ∀ p ∈ ps, (s.tagged p).isSome = true) :
    ∃ rest, ps = fetchRun s k lba ps ++ rest ∧ (fetchRun s k lba ps).length ≤ k ∧
      (∀ i p, (fetchRun s k lba ps)[i]? = some p → s.lbaOf p = lba + i) ∧
      ((fetchRun s k lba ps).length < k → ∀ p, rest.head? = some p → s.lbaOf p ≠ lba + (fetchRun s k lba ps).length) := by
  induction k generalizing lba ps with
  | zero => exact ⟨ps, rfl, le_rfl, nofun, fun h => absurd h (Nat.not_lt_zero _)⟩
  | succ k ih =>
    cases ps with
    | nil => exact ⟨[], rfl, Nat.zero_le _, nofun, fun _ => nofun⟩
    | cons p ps =>
      obtain ⟨e, he⟩ := Option.isSome_iff_exists.mp (htag p List.mem_cons_self)
      by_cases hlba : e.lba = lba
      · have hrun : fetchRun s (k + 1) lba (p :: ps) = p :: fetchRun s k (lba + 1) ps := by
          rw [fetchRun, he]
          exact if_pos hlba
        obtain ⟨rest, hps, hlen, hlbas, hstop⟩ := ih (lba + 1) ps fun q hq => htag q (List.mem_cons_of_mem p hq)
        rw [hrun]
        refine ⟨rest, congrArg (p :: ·) hps, Nat.succ_le_succ hlen, fun i q hi => ?_, fun h q hq => ?_⟩
        · cases i with
          | zero => rw [← Option.some_inj.mp hi, State.lbaOf_of_tagged he]; exact hlba
          | succ i => have := hlbas i q hi; omega
        · have := hstop (Nat.lt_of_succ_lt_succ h) q hq
          rw [List.length_cons]
          omega
      · have hrun : fetchRun s (k + 1) lba (p :: ps) = [] := by
          rw [fetchRun, he]
          exact if_neg hlba
        rw [hrun]
        refine ⟨p :: ps, rfl, Nat.zero_le _, nofun, fun _ q hq => ?_⟩
        rw [← Option.some_inj.mp hq, State.lbaOf_of_tagged he]
        exact hlba

/-- The head of the list is always fetched. -/
theorem fetchRun_head {p : Nat} {ps : List Nat} {k : Nat} (htag : (s.tagged p).isSome = true) :
    ∃ qs, fetchRun s (k + 1) (s.lbaOf p) (p :: ps) = p :: qs := by
  obtain ⟨e, he⟩ := Option.isSome_iff_exists.mp htag
  rw [fetchRun, he]
  exact ⟨_, if_pos (State.lbaOf_of_tagged he).symm⟩

theorem State.Lists.tagged {f : EntryState → Bool} {l : List Nat} (h : s.Lists n f l) {p : Nat} (hp : p ∈ l) :
    (s.tagged p).isSome = true := by
  obtain ⟨e, he, hpage, -⟩ := (h.2 p).mp hp
  exact List.find?_isSome.mpr ⟨e, he, beq_iff_eq.mpr hpage⟩

/-- What a MED_FETCH notice takes from a list of pending fetches (R104). -/
theorem State.fetchTags_says (hl : s.Lists n (fun x => x == .filling none) (s.nd n).cache.fetches)
    (hsome : (s.nd n).cache.fetches ≠ []) :
    ∃ rest, (s.nd n).cache.fetches = s.fetchTags n ++ rest ∧ s.fetchTags n ≠ [] ∧ (s.fetchTags n).length ≤ 16 ∧
      (∀ i p, (s.fetchTags n)[i]? = some p → s.lbaOf p = s.lbaOf ((s.fetchTags n).headD 0) + i) ∧
      ((s.fetchTags n).length < 16 → ∀ p, rest.head? = some p →
        s.lbaOf p ≠ s.lbaOf ((s.fetchTags n).headD 0) + (s.fetchTags n).length) := by
  cases hf : (s.nd n).cache.fetches with
  | nil => exact absurd hf hsome
  | cons p ps =>
    have htag (q : Nat) (hq : q ∈ p :: ps) : (s.tagged q).isSome = true := hl.tagged (hf ▸ hq)
    obtain ⟨qs, hqs⟩ := fetchRun_head (ps := ps) (k := 15) (htag p List.mem_cons_self)
    have htags : s.fetchTags n = fetchRun s 16 (s.lbaOf p) (p :: ps) := by rw [State.fetchTags, hf]
    have hhead : (s.fetchTags n).headD 0 = p := by rw [htags, hqs]; rfl
    obtain ⟨rest, hps, hlen, hlbas, hstop⟩ := fetchRun_says s 16 (s.lbaOf p) (p :: ps) htag
    rw [hhead, htags]
    exact ⟨rest, hps, by rw [hqs]; exact List.cons_ne_nil _ _, hlen, hlbas, hstop⟩

/-! ### What the three notices leave -/

/-- A bulk notice on LTX, with what building it leaves of the node and of the entries. -/
def State.bulkSent (s : State) (n : NodeId) (kind : Byte) (payload : List Byte) (d : Node) (es : List Entry) : State :=
  { s.setNd n d with
    link := { s.link with sending := some { frame := nodeFrame kind 0 n payload, isReply := false, sent := 0 } }
    entries := es }

theorem State.fetchesSent_eq (tags : List Nat) :
    s.fetchesSent n tags = { s.setNd n { s.nd n with cache := { (s.nd n).cache with
        fetches := (s.nd n).cache.fetches.drop tags.length } } with
      entries := s.entries.map (fun e => if e.page ∈ tags
        then { e with state := .filling (some (s.clock.ticks + (s.set n).tuning.fetchTimeout)) } else e) } := by
  rw [State.fetchesSent, State.foldl_setEntry (fun u => .filling (some (u.clock.ticks + (u.set n).tuning.fetchTimeout)))
    (fun _ _ _ => rfl)]
  rfl

theorem State.buildFetch_eq : s.buildFetch n = s.bulkSent n 0x50
    (leBytes 4 (s.lbaOf ((s.fetchTags n).headD 0)) ++ BitVec.ofNat 8 (s.fetchTags n).length :: (s.fetchTags n).flatMap (leBytes 2))
    { s.nd n with cache := { (s.nd n).cache with fetches := (s.nd n).cache.fetches.drop (s.fetchTags n).length } }
    (s.entries.map (fun e => if e.page ∈ s.fetchTags n
      then { e with state := .filling (some (s.clock.ticks + (s.set n).tuning.fetchTimeout)) } else e)) := by
  rw [State.buildFetch, State.fetchesSent_eq]
  rfl

theorem State.writeOutHead_eq (p : Nat) : s.writeOutHead n p = { s.setNd n { s.nd n with cache := { (s.nd n).cache with
        queue := (s.nd n).cache.queue.tail
        outstanding := (s.nd n).cache.outstanding ++ [p]
        seq := (s.nd n).cache.seq + 1 } } with
      entries := (s.setEntry p (.flushing (s.nd n).cache.seq false (s.clock.ticks + (s.set n).tuning.storeTimeout))).entries } := rfl

theorem State.buildWriteOut_eq {p : Nat} {rest : List Nat} (hq : (s.nd n).cache.queue = p :: rest) :
    s.buildWriteOut n = s.bulkSent n 0x51
      (leBytes 2 (s.nd n).cache.seq.toNat ++ leBytes 4 (s.lbaOf p) ++ leBytes 2 p ++ s.mem.page p)
      { s.nd n with cache := { (s.nd n).cache with
        queue := rest
        outstanding := (s.nd n).cache.outstanding ++ [p]
        seq := (s.nd n).cache.seq + 1 } }
      (s.entries.map (fun e => if e.page ≠ p then e else
        { e with state := .flushing (s.nd n).cache.seq false (s.clock.ticks + (s.set n).tuning.storeTimeout) })) := by
  have hentries (st : EntryState) : (s.setEntry p st).entries =
      s.entries.map (fun e => if e.page ≠ p then e else { e with state := st }) :=
    List.map_congr_left fun e _ => (ite_not _ _ _).symm
  rw [← hentries, State.buildWriteOut, hq]
  dsimp only
  rw [State.writeOutHead_eq, State.bulkSent]
  have htail : (((s.sendNotice n 0x51 (leBytes 2 (s.nd n).cache.seq.toNat ++ leBytes 4 (s.lbaOf p) ++ leBytes 2 p
    ++ s.mem.page p)).nd n).cache.queue).tail = rest := congrArg List.tail hq
  rw [htail]
  rfl

/-- The history after a CON_DATA notice of `c` bytes (R42). -/
def History.delivered (h : History) (d : DeliverySettings) (now c : Nat) : History :=
  { h with
    deliver := h.deliver + c
    gapCount := 0
    pacer :=
      if h.next - (h.deliver + c) = 0 then .idle
      else if d.count ≤ h.next - (h.deliver + c) ∨ h.lineIdle = true then .due
      else .collecting (if d.delay = 0 then none else some (now + d.delay)) }

theorem History.paceAnew_delivered (h : History) (d : DeliverySettings) (now c : Nat) :
    History.paceAnew d now { h with deliver := h.deliver + c, gapCount := 0 } = h.delivered d now c := by
  unfold History.paceAnew History.delivered History.undelivered
  congr 1
  dsimp only
  by_cases hcount : d.count ≤ h.next - (h.deliver + c)
  · rw [if_pos hcount, if_pos (Or.inl hcount)]
  · by_cases hidle : h.lineIdle = true
    · rw [if_neg hcount, if_pos hidle, if_pos (Or.inr hidle)]
    · rw [if_neg hcount, if_neg hidle, if_neg (not_or.mpr ⟨hcount, hidle⟩)]
      rfl

/-- The payload of a CON_DATA notice (R42). -/
def State.dataPayload (s : State) (n : NodeId) : List Byte :=
  let h := (s.nd n).hist
  let c := min 512 (h.next - h.deliver)
  leBytes 6 h.deliver ++ [flagByte (decide (h.gapCount ≠ 0))] ++ leBytes 4 h.gapCount ++ leBytes 2 c
    ++ s.historyBytes n h.deliver c

theorem State.buildData_eq : s.buildData n = s.bulkSent n 0x41 (s.dataPayload n)
    { s.nd n with
      hist := (s.nd n).hist.delivered (s.set n).delivery s.clock.ticks (min 512 ((s.nd n).hist.next - (s.nd n).hist.deliver)) }
    s.entries := by
  have hflag : ((s.nd n).hist.gapCount != 0) = decide ((s.nd n).hist.gapCount ≠ 0) := by
    rw [Bool.eq_iff_iff, bne_iff_ne, decide_eq_true_iff]
  rw [← History.paceAnew_delivered, State.buildData, State.dataPayload, hflag, List.append_assoc (leBytes 6 _)]
  rfl

theorem State.historyBytes_mapLink (f : Link → Link) (n : NodeId) (o k : Nat) :
    (s.mapLink f).historyBytes n o k = s.historyBytes n o k := by
  induction k generalizing o with
  | zero => rfl
  | succ k ih => rw [State.historyBytes, State.historyBytes, ih]; rfl

theorem State.fetchTags_mapLink (f : Link → Link) : (s.mapLink f).fetchTags n = s.fetchTags n := by
  have hrun (k lba : Nat) (ps : List Nat) : fetchRun (s.mapLink f) k lba ps = fetchRun s k lba ps := by
    induction k generalizing lba ps with
    | zero => rfl
    | succ k ih =>
      cases ps with
      | nil => rfl
      | cons p ps =>
        rw [fetchRun, fetchRun]
        simp only [ih]
        rfl
  unfold State.fetchTags
  rw [State.nd_mapLink]
  cases (s.nd n).cache.fetches with
  | nil => rfl
  | cons p ps => exact hrun 16 _ _

theorem State.grant_bulk (hr : s.link.replies = []) (hd : s.link.restart = none) (hp : s.link.readyPending = false)
    (hstate : ∀ m j, s.stateNoticePending m j = false) (h : s.BulkTurn b n) :
    s.grant = (s.mapLink (fun l => l.bulkServed b n)).buildBulk n b := by
  rw [s.grant_notice hr hd hp, State.grantNotice_bulk (State.pickStateNotice_none hstate) h.pick]

/-- A bulk notice granted: the pointers name its turn, and it stands on LTX. -/
def State.bulkGranted (s : State) (b : Bulk) (n : NodeId) (kind : Byte) (payload : List Byte) (d : Node) (es : List Entry) : State :=
  { s.setNd n d with
    link := { s.link.bulkServed b n with sending := some { frame := nodeFrame kind 0 n payload, isReply := false, sent := 0 } }
    entries := es }

theorem State.bulkGranted_nd (kind : Byte) (payload : List Byte) (d : Node) (es : List Entry) :
    (s.bulkGranted b n kind payload d es).nd n = d := s.nd_setNd_same n d

theorem State.bulkGranted_frame (kind : Byte) (payload : List Byte) (d : Node) (es : List Entry) :
    s.bulkGranted b n kind payload d es = { s.setNd n ((s.bulkGranted b n kind payload d es).nd n) with
      link := (s.bulkGranted b n kind payload d es).link, entries := (s.bulkGranted b n kind payload d es).entries } := by
  rw [State.bulkGranted_nd]
  rfl

theorem State.bulkSent_served (kind : Byte) (payload : List Byte) (d : Node) (es : List Entry) :
    (s.mapLink (fun l => l.bulkServed b n)).bulkSent n kind payload d es = s.bulkGranted b n kind payload d es := rfl

/-- Settles O24: the turn, then the notice of its class. -/
theorem grantsBulkNoticesInTurn : Obligations.GrantsBulkNoticesInTurn := by
  intro s b n hlaw hmay hr hd hp hstate hbulk hnode hpending
  obtain ⟨before, rest, hafter, hbefore⟩ := hnode
  have hturn : s.BulkTurn b n := ⟨hbulk, before, rest, hafter, hbefore, hpending⟩
  have hexec := exec_arbiterGrant hmay
  rw [State.grant_bulk hr hd hp hstate hturn] at hexec
  obtain ⟨hpages, -, -, -, hnodes⟩ := hlaw
  cases b with
  | fetch =>
    have hsome : (s.nd n).cache.fetches ≠ [] := by
      intro hnil
      simp [State.bulkPending, hnil] at hpending
    obtain ⟨rest, hfetches, hne, hlen, hlbas, hstop⟩ := State.fetchTags_says (hnodes n).1 hsome
    rw [State.buildBulk, State.buildFetch_eq, State.fetchTags_mapLink, State.bulkSent_served] at hexec
    refine ⟨_, _, hexec, State.bulkGranted_frame _ _ _ _, ⟨_, rfl, rfl⟩, fun _ =>
      ⟨s.fetchTags n, rest, s.lbaOf ((s.fetchTags n).headD 0), hfetches, hne, hlen, hlbas, hstop, rfl, ?_, rfl⟩, nofun, nofun⟩
    rw [State.bulkGranted_nd, State.nd_mapLink]
    have hdrop : (s.nd n).cache.fetches.drop (s.fetchTags n).length = rest := by
      conv_lhs => rw [hfetches]
      exact List.drop_left
    rw [hdrop]
  | data =>
    rw [State.buildBulk, State.buildData_eq, State.bulkSent_served] at hexec
    refine ⟨_, _, hexec, State.bulkGranted_frame _ _ _ _, ⟨_, rfl, rfl⟩, nofun, fun _ => ⟨?_, rfl, ?_⟩, nofun⟩
    · rw [State.dataPayload, State.historyBytes_mapLink]
      rfl
    · rw [State.bulkGranted_nd]
      rfl
  | writeOut =>
    cases hq : (s.nd n).cache.queue with
    | nil => simp [State.bulkPending, State.writeOutPending, hq] at hpending
    | cons p rest =>
      have hbuild := State.buildWriteOut_eq (s := s.mapLink (fun l => l.bulkServed .writeOut n)) hq
      rw [State.buildBulk, hbuild, State.bulkSent_served] at hexec
      refine ⟨_, _, hexec, State.bulkGranted_frame _ _ _ _, ⟨_, rfl, rfl⟩, nofun, nofun, fun _ => ⟨p, rest, rfl, rfl, ?_, rfl⟩⟩
      rw [State.bulkGranted_nd]
      rfl

end

end Sys2Proof.Machine
end


section
/-! PROOFS. The line of a node as its feed is cut and released, through every operation on its action (R24). -/

namespace Sys2Proof.Machine

set_option Elab.async false

/-! ### A line that leaves and comes back (R24) -/

/-- A line whose node becomes CUT at tick `now` (R24). -/
def Line.floated (l : Line) (now : Nat) : Line :=
  { l with
    tx := .floating (match l.tx with | .brk e => some (e - now) | _ => none)
    rx := .idle
    autobaud := match l.autobaud with | .hunting _ => .hunting none | x => x }

/-- A line whose node leaves CUT in state `t` (R24). -/
def State.restoredLine (t : State) (n : NodeId) (l : Line) : Line :=
  { l with
    tx :=
      match l.tx with
      | .floating (some r) => .brk (t.clock.ticks + r)
      | _ => .gap (((t.setNd n { t.nd n with line := l }).charCycles n 1).map (t.clock.cycles + ·))
    rx := .idle
    autobaud := if (t.set n).line.rate = .auto then .hunting none else l.autobaud }

section
variable {s t u : State} {n : NodeId} {l : Line} {a : Action} {q : Option Queued} {ab : Bool} {k : ActionKind} {src : Source}
  {r : ActionResult}

theorem State.condition_cut_iff (s : State) (n : NodeId) : s.condition n = .cut ↔ (s.nd n).power.feedCut = true :=
  Power.condition_eq_cut _

theorem State.condition_ne_cut_iff (s : State) (n : NodeId) : s.condition n ≠ .cut ↔ (s.nd n).power.feedCut = false := by
  rw [ne_eq, s.condition_cut_iff, Bool.not_eq_true]

/-- The Line Unit's following, by FEED_CUTn alone (R128). -/
theorem State.lineFollowed_iff : s.LineFollowed t n l ↔
    ((s.nd n).power.feedCut = false → (t.nd n).power.feedCut = true → (t.nd n).line = l.floated t.clock.ticks) ∧
    ((s.nd n).power.feedCut = true → (t.nd n).power.feedCut = false → (t.nd n).line = t.restoredLine n l) ∧
    ((s.nd n).power.feedCut = (t.nd n).power.feedCut → (t.nd n).line = l) := by
  have hfloat : (t.nd n).line = l.floated t.clock.ticks → t.ctx n = .floating := by
    intro h
    rw [State.ctx, h]
    rfl
  simp only [State.LineFollowed, State.condition_ne_cut_iff, State.condition_cut_iff, ← Bool.eq_iff_iff]
  exact and_congr ⟨fun h hs ht => (h hs ht).2, fun h hs ht => ⟨hfloat (h hs ht), h hs ht⟩⟩ Iff.rfl

/-- Between the two states neither the line of the node, nor its feed, nor what times a line has changed. -/
structure State.SameLine (s t : State) (n : NodeId) : Prop where
  clock : t.clock = s.clock
  cfg : t.cfg = s.cfg
  line : (t.nd n).line = (s.nd n).line
  feedCut : (t.nd n).power.feedCut = (s.nd n).power.feedCut

theorem State.SameLine.refl (s : State) (n : NodeId) : s.SameLine s n := ⟨rfl, rfl, rfl, rfl⟩

theorem State.SameLine.trans (h : s.SameLine t n) (k : t.SameLine u n) : s.SameLine u n :=
  ⟨k.clock.trans h.clock, k.cfg.trans h.cfg, k.line.trans h.line, k.feedCut.trans h.feedCut⟩

theorem State.SameLine.setNd {x : Node} (hl : x.line = (s.nd n).line) (hf : x.power.feedCut = (s.nd n).power.feedCut) :
    s.SameLine (s.setNd n x) n :=
  ⟨rfl, rfl, by rw [State.nd_setNd_same, hl], by rw [State.nd_setNd_same, hf]⟩

theorem State.restoredLine_congr (hclock : u.clock = t.clock) (hcfg : u.cfg = t.cfg) (l : Line) :
    u.restoredLine n l = t.restoredLine n l := by
  have hchar : (u.setNd n { u.nd n with line := l }).charCycles n 1 = (t.setNd n { t.nd n with line := l }).charCycles n 1 :=
    State.charCycles_congr (s := t.setNd n { t.nd n with line := l }) (t := u.setNd n { u.nd n with line := l })
      (by rw [State.nd_setNd_same, State.nd_setNd_same]) hcfg 1
  rw [State.restoredLine, State.restoredLine, hchar, State.set, State.set, hcfg, hclock]

/-- What does not touch the line, after the Line Unit has followed. -/
theorem State.LineFollowed.then (h : s.LineFollowed t n l) (k : t.SameLine u n) : s.LineFollowed u n l := by
  rw [State.lineFollowed_iff] at h ⊢
  rw [k.line, k.feedCut, k.clock, State.restoredLine_congr k.clock k.cfg]
  exact h

/-- The same before it. -/
theorem State.LineFollowed.before (h : t.LineFollowed u n l) (hf : (t.nd n).power.feedCut = (s.nd n).power.feedCut) :
    s.LineFollowed u n l := by
  rw [State.lineFollowed_iff] at h ⊢
  rw [← hf]
  exact h

theorem State.LineFollowed.stays (hl : (t.nd n).line = l) (hf : (t.nd n).power.feedCut = (s.nd n).power.feedCut) :
    s.LineFollowed t n l := by
  refine State.lineFollowed_iff.mpr ⟨fun hs ht => ?_, fun hs ht => ?_, fun _ => hl⟩
  · rw [hf, hs] at ht; cases ht
  · rw [hf, hs] at ht; cases ht

theorem State.SameLine.followed (h : s.SameLine t n) : s.LineFollowed t n (s.nd n).line := .stays h.line h.feedCut

/-! ### The feed is cut and released -/

theorem State.lineEntersCut_line (s : State) (n : NodeId) :
    ((s.lineEntersCut n).nd n).line = (s.nd n).line.floated s.clock.ticks := by
  rw [State.lineEntersCut, State.mapLine, State.nd_setNd_same]
  rfl

theorem State.lineLeavesCut_line (s : State) (n : NodeId) :
    ((s.lineLeavesCut n).nd n).line = s.restoredLine n (s.nd n).line := by
  have hself : s.setNd n { s.nd n with line := (s.nd n).line } = s := s.setNd_nd n
  unfold State.lineLeavesCut State.restoredLine
  rw [hself]
  cases htx : (s.nd n).line.tx with
  | floating d =>
    cases d with
    | none => by_cases hauto : (s.set n).line.rate = .auto <;> simp [hauto, State.beginGap, State.enterHunting, State.mapLine]
    | some r => by_cases hauto : (s.set n).line.rate = .auto <;> simp [hauto, State.enterHunting, State.mapLine]
  | _ => by_cases hauto : (s.set n).line.rate = .auto <;> simp [hauto, State.beginGap, State.enterHunting, State.mapLine]

theorem State.liveFollows_line (s : State) (n : NodeId) (old : Condition) (c : Prop) [Decidable c] :
    ((if old = .on then s.liveLeavesOn n else if c then s.liveBecomesOn n else s).nd n).line = (s.nd n).line := by
  split
  · rw [State.liveLeavesOn_eq, State.nd_setNd_same]
  · split
    · rw [State.liveBecomesOn_eq, State.nd_setNd_same]
    · rfl

/-- The Line Unit follows a change of the condition into CUT and out of it (R24). -/
theorem State.conditionChange_line (s : State) (n : NodeId) (old : Condition) (h : s.condition n ≠ old) :
    ((s.conditionChange n old false).nd n).line =
      if s.condition n = .cut then (s.nd n).line.floated s.clock.ticks
      else if old = .cut then s.restoredLine n (s.nd n).line else (s.nd n).line := by
  have hnotice : ((s.powerNotice n).nd n).line = (s.nd n).line := by
    rw [State.powerNotice, State.mapPower, State.nd_setNd_same]
  unfold State.conditionChange
  dsimp only
  rw [if_neg h, State.liveFollows_line]
  split
  · rw [State.lineEntersCut_line, hnotice]
    rfl
  · split
    · rw [State.lineLeavesCut_line, hnotice]
      exact State.restoredLine_congr (t := s) (u := s.powerNotice n) rfl rfl _
    · exact hnotice

theorem State.assertFeedCut_line (h : (s.nd n).power.feedCut = false) : s.LineFollowed (s.assertFeedCut n) n (s.nd n).line := by
  have heq := s.assertFeedCut_eq n h
  have hfeed : ((s.assertFeedCut n).nd n).power.feedCut = true := by rw [heq, State.nd_setNd_same]
  refine State.lineFollowed_iff.mpr ⟨fun _ _ => ?_, fun hs => (by rw [h] at hs; cases hs), fun hs => (by rw [h, hfeed] at hs; cases hs)⟩
  have hclock : (s.assertFeedCut n).clock = s.clock := by rw [heq]; rfl
  have hcond : (((s.mapPower n (fun p => { p with feedCut := true })).record n .cut).condition n) = .cut := by
    rw [State.condition_cut_iff]
    simp [State.record, State.mapHist, State.mapPower]
  have hne : (((s.mapPower n (fun p => { p with feedCut := true })).record n .cut).condition n) ≠ s.condition n := by
    rw [hcond]
    exact fun hs => by rw [(s.condition_cut_iff n).mp hs.symm] at h; cases h
  rw [hclock, State.assertFeedCut, State.conditionChange_line _ _ _ hne, if_pos hcond]
  simp [State.record, State.mapHist, State.mapPower]

theorem State.releaseFeedCut_line (h : (s.nd n).power.feedCut = true) : s.LineFollowed (s.releaseFeedCut n) n (s.nd n).line := by
  have heq := s.releaseFeedCut_eq n h
  dsimp only at heq
  have hfeed : ((s.releaseFeedCut n).nd n).power.feedCut = false := by rw [heq, State.nd_setNd_same]
  refine State.lineFollowed_iff.mpr ⟨fun hs => (by rw [h] at hs; cases hs), fun _ _ => ?_, fun hs => (by rw [h, hfeed] at hs; cases hs)⟩
  have hclock : (s.releaseFeedCut n).clock = s.clock := by rw [heq]; rfl
  have hcfg : (s.releaseFeedCut n).cfg = s.cfg := by rw [heq]; rfl
  have hcond : ((s.mapPower n (fun p => { p with feedCut := false })).condition n) ≠ .cut := by
    rw [State.condition_ne_cut_iff]
    simp [State.mapPower]
  have hold : s.condition n = .cut := (s.condition_cut_iff n).mpr h
  have hline : ((s.mapPower n (fun p => { p with feedCut := false })).nd n).line = (s.nd n).line := by
    rw [State.mapPower, State.nd_setNd_same]
  rw [State.restoredLine_congr hclock hcfg, State.releaseFeedCut, State.conditionChange_line _ _ _ (by rw [hold]; exact hcond),
    if_neg hcond, if_pos hold, hline]
  exact State.restoredLine_congr (t := s) (u := s.mapPower n (fun p => { p with feedCut := false })) rfl rfl _

/-! ### Actions -/

theorem State.enterPhase_sameLine (s : State) (n : NodeId) (a : Action) (ph : Phase) (ms : Nat) :
    s.SameLine (s.enterPhase n a ph ms) n := .setNd rfl rfl

theorem State.recordEnd_sameLine (s : State) (n : NodeId) (f : FinalRecord) : s.SameLine (s.recordEnd n f) n := by
  rw [State.recordEnd_eq]
  exact .setNd rfl rfl

theorem State.finishLast_sameLine (s : State) (n : NodeId) (a : Action) (r : ActionResult) : s.SameLine (s.finishLast n a r) n := by
  rw [State.finishLast_eq]
  exact .setNd rfl rfl

theorem State.beginCut_line (h : (s.nd n).power.feedCut = false) : s.LineFollowed (s.beginCut n a).1 n (s.nd n).line := by
  unfold State.beginCut
  dsimp only
  split
  · exact (State.assertFeedCut_line h).then (State.enterPhase_sameLine _ _ _ _ _)
  · exact State.assertFeedCut_line h

theorem State.beginOn_line (s : State) (n : NodeId) (a : Action) : s.LineFollowed (s.beginOn n a).1 n (s.nd n).line := by
  unfold State.beginOn
  dsimp only
  split
  · next hcut =>
    have hfed := State.releaseFeedCut_line ((s.condition_cut_iff n).mp hcut)
    split
    · exact hfed
    · exact hfed.then (State.enterPhase_sameLine _ _ _ _ _)
  · split
    · exact (State.SameLine.refl s n).followed
    · exact (State.enterPhase_sameLine _ _ _ _ _).followed

theorem ActionKind.not_cut_of_allowed (h : k.allowed (s.condition n) = true) (hk : k ≠ .on) : (s.nd n).power.feedCut = false := by
  rw [← State.condition_ne_cut_iff]
  intro hcut
  rw [hcut] at h
  cases k with
  | on => exact hk rfl
  | _ => cases h

theorem State.firstStep_line (h : a.kind.allowed (s.condition n) = true) : s.LineFollowed (s.firstStep n a).1 n (s.nd n).line := by
  unfold State.firstStep
  have hphase (ph : Phase) (ms : Nat) : s.LineFollowed (s.enterPhase n a ph ms) n (s.nd n).line :=
    (s.enterPhase_sameLine n a ph ms).followed
  cases hk : a.kind with
  | on => exact s.beginOn_line n a
  | cut => exact State.beginCut_line (ActionKind.not_cut_of_allowed h (by rw [hk]; nofun))
  | offSoft | offHard | reset | diag => exact hphase _ _
  | cycle =>
    dsimp only
    split
    · have hcut := State.beginCut_line (a := a) (ActionKind.not_cut_of_allowed h (by rw [hk]; nofun))
      cases a.method with
      | soft | hard => exact hphase _ _
      | cut =>
        dsimp only
        split
        · exact hcut.then (State.enterPhase_sameLine _ _ _ _ _)
        · exact hcut
    · exact hphase _ _

theorem State.startAction_line (h : k.allowed (s.condition n) = true) :
    s.LineFollowed (s.startAction n k src).1 n (s.nd n).line := by
  have heq := s.startAction_eq n k src
  dsimp only at heq
  rw [heq]
  have hnd : (s.setNd n ((s.nd n).withStart (s.set n).delivery.mask
    ⟨k, src, .none, s.clock.ticks, false, (s.set n).choices.method, false⟩)).nd n = _ := s.nd_setNd_same n _
  have hcond : (s.setNd n ((s.nd n).withStart (s.set n).delivery.mask
    ⟨k, src, .none, s.clock.ticks, false, (s.set n).choices.method, false⟩)).condition n = s.condition n := by
    rw [State.condition_setNd]; rfl
  have hstep := State.firstStep_line (s := s.setNd n ((s.nd n).withStart (s.set n).delivery.mask
    ⟨k, src, .none, s.clock.ticks, false, (s.set n).choices.method, false⟩)) (n := n)
    (a := ⟨k, src, .none, s.clock.ticks, false, (s.set n).choices.method, false⟩) (by rw [hcond]; exact h)
  rw [hnd] at hstep
  exact hstep.before (by rw [hnd]; rfl)

/-- The Line Unit follows an action that starts (R24, R132). -/
theorem State.launch_line (h : k.allowed (s.condition n) = true) : s.LineFollowed (s.launch n k src) n (s.nd n).line := by
  have hstart := State.startAction_line (src := src) h
  unfold State.launch
  dsimp only
  split
  · split
    · exact hstart.then (State.finishLast_sameLine _ _ _ _)
    · exact hstart
  · exact hstart

/-- The Line Unit follows an action that ends, with the queued one that comes up (R24, R145). -/
theorem State.finish_line (hc : (s.nd n).power.ctrl = .acting a q ab) : s.LineFollowed (s.finish n r) n (s.nd n).line := by
  have hlast := s.finishLast_sameLine n a r
  rw [State.finish, hc]
  dsimp only
  cases q with
  | none => exact hlast.followed
  | some z =>
    dsimp only
    rw [State.comeUp]
    split
    · next hok =>
      rw [← hlast.line]
      exact (State.launch_line hok).before hlast.feedCut
    · exact (hlast.trans (State.recordEnd_sameLine _ _ _)).followed

theorem State.recoveryReport_sameLine (s : State) (n : NodeId) (b : Bool) : s.SameLine (s.recoveryReport n b) n := by
  rw [s.recoveryReport_eq n b (if b then .failed else .done) (by cases b <;> simp)]
  exact .setNd rfl rfl

theorem State.lock_sameLine (s : State) (n : NodeId) (c : LockCause) : s.SameLine (s.lock n c) n := by
  unfold State.lock
  split
  · next a q ab hc =>
    have hrest : s.SameLine ((s.releaseButtons n).ctrlTo n (.locked c)) n := ⟨rfl, rfl,
      by simp [State.releaseButtons, State.ctrlTo, State.mapPower], by simp [State.releaseButtons, State.ctrlTo, State.mapPower]⟩
    have hlocked := (hrest.trans (State.recordEnd_sameLine _ n (a.final .failed (some c)))).trans (State.recoveryReport_sameLine _ n true)
    cases q with
    | none => exact hlocked
    | some z => exact hlocked.trans (State.recordEnd_sameLine _ _ _)
  · exact .refl s n

end

end Sys2Proof.Machine
end


section
/-! PROOFS. PWR_ACTION, PWR_ABORT and PWR_CLEAR (O55, O56). -/

namespace Sys2Proof.Machine

set_option Elab.async false

section
variable {s t u : State} {n : NodeId} {a : Action} {q : Option Queued} {ab : Bool} {k : ActionKind} {src : Source} {x : Node}
  {r : ActionResult} {p : List Byte} {f : Frame} {w : Answer} {tag b : Byte}

/-! ### A reply leaves what is said of the node -/

theorem State.reply_sameLine (u : State) (n : NodeId) (f : Frame) (w : Answer) : u.SameLine (u.reply f w) n :=
  ⟨rfl, rfl, congrArg Node.line (State.reply_nd u f w n), congrArg (fun x : Node => x.power.feedCut) (State.reply_nd u f w n)⟩

theorem State.ActionStarted.reply (h : u.ActionStarted n x k src) : (u.reply f w).ActionStarted n x k src := by
  unfold State.ActionStarted at h ⊢
  exact h

theorem State.ActionEnded.reply (h : u.ActionEnded n x a q r) : (u.reply f w).ActionEnded n x a q r := by
  cases q with
  | none => exact h
  | some z =>
    unfold State.ActionEnded at h ⊢
    dsimp only at h ⊢
    split
    · next hok => rw [if_pos hok] at h; exact State.ActionStarted.reply h
    · next hok => rw [if_neg hok] at h; exact h

/-! ### PWR_ACTION (R143) -/

/-- The conditions an action may be started from (R143). -/
theorem ActionKind.allowed_iff (k : ActionKind) (c : Condition) : k.allowed c = true ↔
    c ∈ (match k with
      | .on => [.off, .cut]
      | .cut => [.off, .on]
      | .cycle => [.on, .off]
      | _ => [.on] : List Condition) := by
  cases k <;> cases c <;> decide

theorem exec_pwrAction (h : s.takes (nodeFrame 0x30 tag n [b]) = true) {u : State} {r : Result} {fields : List Byte}
    (hc : s.takeFrame.takeAction n tag [b] = u.answers r fields) :
    exec (.pwrAction tag n.toByte [b]) s = .next (u.reply (nodeFrame 0x30 tag n [b]) { result := r, fields := fields }) :=
  exec_nodeRequest_answers rfl h (Frame.lengthOk_of_mem rfl (show (0x30, 1) ∈ fixedLengths by decide)) hc

theorem State.takeAction_unlisted (h : b = 0 ∨ 7 < b) : s.takeAction n tag [b] = s.answers .badParam (0 :: s.powerBlock n) := by
  rw [State.takeAction, show byteAt [b] 0 = b from rfl, ActionKind.ofCode_none b h]

theorem State.takeAction_refused {r : Result} (h : s.judge n k = .refused r) :
    s.takeAction n tag [k.code] = s.answers r (0 :: s.powerBlock n) := by
  rw [State.takeAction, show byteAt [k.code] 0 = k.code from rfl, k.ofCode_code]
  dsimp only
  rw [h]

theorem State.takeAction_queued (h : s.judge n k = .queued) (hc : (s.nd n).power.ctrl = .acting a none ab) :
    ∃ u, u = s.setNd n { s.nd n with power := { (s.nd n).power with
        ctrl := .acting a (some { kind := k, source := .link tag }) ab, statePending := true } } ∧
      s.takeAction n tag [k.code] = u.answers .ok (2 :: u.powerBlock n) := by
  refine ⟨s.submit n k (.link tag), ?_, ?_⟩
  · rw [State.submit, h]
    simp only [State.mapPower, hc]
  · rw [State.takeAction, show byteAt [k.code] 0 = k.code from rfl, k.ofCode_code]
    dsimp only
    rw [h]

theorem State.takeAction_started (h : s.judge n k = .started) :
    s.takeAction n tag [k.code] = (s.launch n k (.link tag)).answers .ok (1 :: (s.launch n k (.link tag)).powerBlock n) := by
  rw [State.takeAction, show byteAt [k.code] 0 = k.code from rfl, k.ofCode_code]
  dsimp only
  rw [State.submit, h]

theorem State.judge_locked {c : LockCause} (hc : (s.nd n).power.ctrl = .locked c) : s.judge n k = .refused .locked := by
  rw [State.judge, hc]

theorem State.judge_busy {z : Queued} (hc : (s.nd n).power.ctrl = .acting a (some z) ab) : s.judge n k = .refused .busy := by
  rw [State.judge, hc]

theorem State.judge_queued (hc : (s.nd n).power.ctrl = .acting a none ab) : s.judge n k = .queued := by
  rw [State.judge, hc]

theorem State.judge_started (hc : (s.nd n).power.ctrl = .idle)
    (h : k.allowed (s.condition n) = true ∧ (s.nd n).power.pg ≠ .settling) : s.judge n k = .started := by
  rw [State.judge, hc]
  exact if_pos h

theorem State.judge_badState (hc : (s.nd n).power.ctrl = .idle)
    (h : ¬(k.allowed (s.condition n) = true ∧ (s.nd n).power.pg ≠ .settling)) : s.judge n k = .refused .badState := by
  rw [State.judge, hc]
  exact if_neg h

/-- A PWR_ACTION that is refused after its kind (R143). -/
def State.ActionRefused (s t : State) (n : NodeId) (f : Frame) (r : Result) : Prop :=
  s.OnlyLink t ∧ s.Replied t f { result := r, fields := 0 :: s.powerBlock n }

theorem exec_pwrAction_refused (h : s.takes (nodeFrame 0x30 tag n [k.code]) = true) {r : Result}
    (hj : s.judge n k = .refused r) :
    ∃ t, exec (.pwrAction tag n.toByte [k.code]) s = .next t ∧ s.ActionRefused t n (nodeFrame 0x30 tag n [k.code]) r :=
  ⟨_, exec_pwrAction h (State.takeAction_refused (s := s.takeFrame) hj), s.refused_replied _ _⟩

theorem exec_pwrAction_queued (h : s.takes (nodeFrame 0x30 tag n [k.code]) = true)
    (hc : (s.nd n).power.ctrl = .acting a none ab) :
    ∃ t, exec (.pwrAction tag n.toByte [k.code]) s = .next t ∧ s.OnlyNodeAndLink t n ∧
      t.nd n = { s.nd n with power := { (s.nd n).power with
        ctrl := .acting a (some { kind := k, source := .link tag }) ab, statePending := true } } ∧
      s.Replied t (nodeFrame 0x30 tag n [k.code]) { result := .ok, fields := 2 :: t.powerBlock n } := by
  obtain ⟨u, hu, htake⟩ := State.takeAction_queued (s := s.takeFrame) (tag := tag) (State.judge_queued (k := k) hc) hc
  obtain ⟨honly, hreplied⟩ := State.OnlyNode.answered (s := s) (u := u) (n := n) (by rw [hu]; exact .set _ _ _)
    (nodeFrame 0x30 tag n [k.code]) { result := .ok, fields := 2 :: u.powerBlock n }
  refine ⟨_, exec_pwrAction h htake, honly, ?_, hreplied⟩
  rw [State.reply_nd, hu, State.nd_setNd_same]
  rfl

theorem exec_pwrAction_started (h : s.takes (nodeFrame 0x30 tag n [k.code]) = true) (hc : (s.nd n).power.ctrl = .idle)
    (hok : k.allowed (s.condition n) = true ∧ (s.nd n).power.pg ≠ .settling) :
    ∃ t, exec (.pwrAction tag n.toByte [k.code]) s = .next t ∧ s.OnlyNodeAndLink t n ∧
      s.Replied t (nodeFrame 0x30 tag n [k.code]) { result := .ok, fields := 1 :: t.powerBlock n } ∧
      t.ActionStarted n (s.nd n) k (.link tag) ∧ s.LineFollowed t n (s.nd n).line := by
  have hallowed : k.allowed (s.takeFrame.condition n) = true := hok.1
  have hj : s.takeFrame.judge n k = .started := State.judge_started (s := s.takeFrame) hc hok
  obtain ⟨honly, hstarted⟩ := s.takeFrame.launch_started n k (.link tag) hallowed
  have hline := State.launch_line (src := .link tag) hallowed
  obtain ⟨honly, hreplied⟩ := State.OnlyNode.answered honly (nodeFrame 0x30 tag n [k.code])
    { result := .ok, fields := 1 :: (s.takeFrame.launch n k (.link tag)).powerBlock n }
  exact ⟨_, exec_pwrAction h (State.takeAction_started hj), honly, hreplied, hstarted.reply,
    (hline.then (State.reply_sameLine _ n _ _)).before rfl⟩

theorem ActionKind.exists_code (h : ¬(b = 0 ∨ 7 < b)) : ∃ k : ActionKind, k.code = b := by
  have hlisted : (ActionKind.ofCode b).map ActionKind.code = some b := by
    revert h
    revert b
    decide
  obtain ⟨k, -, hk⟩ := Option.map_eq_some_iff.mp hlisted
  exact ⟨k, hk⟩

theorem ActionKind.code_inj {j k : ActionKind} (h : j.code = k.code) : j = k :=
  Option.some_inj.mp (by rw [← j.ofCode_code, h, k.ofCode_code])

/-- Settles O55: the table of R143, and what a launched action leaves. -/
theorem pwrActionIsJudged : Obligations.PwrActionIsJudged := by
  intro s tag b n h f p refuse
  by_cases hbad : b = 0 ∨ 7 < b
  · refine ⟨_, exec_pwrAction h (State.takeAction_unlisted hbad), fun _ => s.refused_replied _ _, fun kind hkind => ?_⟩
    have hlisted := kind.ofCode_code
    rw [hkind, ActionKind.ofCode_none b hbad] at hlisted
    cases hlisted
  · obtain ⟨k, rfl⟩ := ActionKind.exists_code hbad
    have hkind {kind : ActionKind} (h : kind.code = k.code) : kind = k := ActionKind.code_inj h
    cases hc : (s.nd n).power.ctrl with
    | locked c =>
      obtain ⟨t, hexec, hrefused⟩ := exec_pwrAction_refused h (State.judge_locked hc)
      exact ⟨t, hexec, fun hb => absurd hb hbad, fun kind _ => ⟨fun _ _ => hrefused, fun _ _ _ h => (nomatch h),
        fun h => (nomatch h), fun _ _ h => (nomatch h), fun h => (nomatch h)⟩⟩
    | acting a q ab =>
      cases q with
      | some z =>
        obtain ⟨t, hexec, hrefused⟩ := exec_pwrAction_refused h (State.judge_busy hc)
        exact ⟨t, hexec, fun hb => absurd hb hbad, fun kind _ => ⟨fun _ h => (nomatch h), fun _ _ _ _ => hrefused,
          fun h => (nomatch h), fun _ _ h => (nomatch h), fun h => (nomatch h)⟩⟩
      | none =>
        obtain ⟨t, hexec, hqueued⟩ := exec_pwrAction_queued h hc
        refine ⟨t, hexec, fun hb => absurd hb hbad, fun kind hcode => ⟨fun _ h => (nomatch h), fun _ _ _ h => (nomatch h),
          fun h => (nomatch h), fun a' ab' ha => ?_, fun h => (nomatch h)⟩⟩
        obtain ⟨rfl, -, rfl⟩ := Controller.acting.inj ha
        rw [hkind hcode]
        exact hqueued
    | idle =>
      by_cases hok : k.allowed (s.condition n) = true ∧ (s.nd n).power.pg ≠ .settling
      · obtain ⟨t, hexec, hstarted⟩ := exec_pwrAction_started h hc hok
        refine ⟨t, hexec, fun hb => absurd hb hbad, fun kind hcode => ⟨fun _ h => (nomatch h), fun _ _ _ h => (nomatch h),
          fun _ hn => absurd ⟨?_, hok.2⟩ hn, fun _ _ h => (nomatch h), fun _ _ _ => ?_⟩⟩
        · rw [hkind hcode]
          exact (ActionKind.allowed_iff _ _).mp hok.1
        · rw [hkind hcode]
          exact hstarted
      · obtain ⟨t, hexec, hrefused⟩ := exec_pwrAction_refused h (State.judge_badState hc hok)
        refine ⟨t, hexec, fun hb => absurd hb hbad, fun kind hcode => ⟨fun _ h => (nomatch h), fun _ _ _ h => (nomatch h),
          fun _ _ => hrefused, fun _ _ h => (nomatch h), fun _ ha hp => absurd ⟨?_, hp⟩ hok⟩⟩
        rw [← hkind hcode]
        exact (ActionKind.allowed_iff _ _).mpr ha

/-! ### PWR_ABORT and PWR_CLEAR (R146 to R148) -/

theorem State.clearLock_locked {c : LockCause} (hc : (s.nd n).power.ctrl = .locked c) :
    ∃ u, u = s.setNd n { s.nd n with power := { (s.nd n).power with ctrl := .idle, statePending := true } } ∧
      s.clearLock n = u.answers .ok (u.powerBlock n) := by
  refine ⟨(s.ctrlTo n .idle).powerNotice n, ?_, ?_⟩
  · simp [State.powerNotice, State.ctrlTo, State.mapPower]
  · rw [State.clearLock, hc]

theorem State.clearLock_refused (hc : ∀ c, (s.nd n).power.ctrl ≠ .locked c) :
    s.clearLock n = s.answers .badState (s.powerBlock n) := by
  unfold State.clearLock
  split
  · next c h => exact absurd h (hc c)
  · rfl

theorem State.takeAbort_refused (hc : ∀ a q ab, (s.nd n).power.ctrl ≠ .acting a q ab) :
    s.takeAbort n = s.answers .badState (s.powerBlock n) := by
  unfold State.takeAbort
  split
  · next a q ab h => exact absurd h (hc a q ab)
  · rfl

theorem State.takeAbort_acting (hc : (s.nd n).power.ctrl = .acting a q ab) :
    s.takeAbort n = (s.abort n a q ab).answers .ok ((s.abort n a q ab).powerBlock n) := by
  rw [State.takeAbort, hc]

/-- Node `x` once a queued action has been discarded, and been reported first (R146, step 1). -/
def Node.unqueued (mask : Half) (g : Nat) (q : Option Queued) (x : Node) : Node :=
  match q with
  | none => x
  | some z => x.withEnd mask g (z.final .discarded)

theorem State.discardQueued_eq (hc : (s.nd n).power.ctrl = .acting a q ab) :
    ∃ x, x = (s.nd n).unqueued (s.set n).delivery.mask (s.graceFrom n) q ∧
      s.discardQueued n a q ab = s.setNd n { x with power := { x.power with ctrl := .acting a none ab } } := by
  refine ⟨_, rfl, ?_⟩
  cases q with
  | none =>
    rw [State.discardQueued]
    refine (s.setNd_self n _ ?_).symm
    rw [Node.unqueued, ← hc]
  | some z =>
    rw [State.discardQueued, State.recordEnd_eq]
    simp [State.ctrlTo, State.mapPower, Node.unqueued, Node.withEnd, State.graceFrom]

theorem Phase.isAssert_iff (ph : Phase) : ph.isAssert = true ↔ ph = .press ∨ ph = .hold ∨ ph = .pulse := by
  cases ph <;> decide

/-- An abort lets the current phase run on, with the aborting flag set (R146, R147). -/
def State.abortRunsOn (s : State) (n : NodeId) (a : Action) (ab : Bool) : Prop :=
  ab = true ∨ ((s.set n).choices.abort = .phaseEnd ∧ (a.phase = .press ∨ a.phase = .hold ∨ a.phase = .pulse))

theorem State.abort_runsOn (hc : (s.nd n).power.ctrl = .acting a q ab) (hrun : s.abortRunsOn n a ab) :
    ∃ x, x = (s.nd n).unqueued (s.set n).delivery.mask (s.graceFrom n) q ∧
      s.abort n a q ab = s.setNd n { x with power := { x.power with ctrl := .acting a none true } } := by
  obtain ⟨x, hx, hdiscard⟩ := State.discardQueued_eq hc
  refine ⟨x, hx, ?_⟩
  rw [State.abort, hdiscard]
  dsimp only
  cases ab with
  | true => rfl
  | false =>
    have hphase := hrun.resolve_left Bool.false_ne_true
    rw [if_neg Bool.false_ne_true, if_pos (by rw [Phase.isAssert_iff]; exact hphase)]
    simp [State.ctrlTo, State.mapPower]

theorem State.abort_ends (hc : (s.nd n).power.ctrl = .acting a q ab) (hrun : ¬s.abortRunsOn n a ab) :
    s.OnlyNode (s.abort n a q ab) n ∧
      (s.abort n a q ab).ActionEnded n ((s.nd n).unqueued (s.set n).delivery.mask (s.graceFrom n) q) a none .aborted := by
  obtain ⟨x, hx, hdiscard⟩ := State.discardQueued_eq hc
  have hab : ab = false := by
    cases ab with
    | true => exact absurd (.inl rfl) hrun
    | false => rfl
  subst hab
  have habort : s.abort n a q false =
      (s.setNd n { x with power := { x.power with ctrl := .acting a none false } }).finish n .aborted := by
    rw [State.abort, hdiscard]
    dsimp only
    rw [if_neg Bool.false_ne_true, if_neg (by rw [Phase.isAssert_iff]; exact fun hp => hrun (.inr hp))]
  obtain ⟨honly, hended⟩ := (s.setNd n { x with power := { x.power with ctrl := .acting a none false } }).finish_ended n .aborted
    (a := a) (q := none) (ab := false) (by rw [State.nd_setNd_same])
  rw [State.nd_setNd_same] at hended
  rw [State.setNd_setNd] at honly
  rw [habort, ← hx]
  exact ⟨honly, hended.congr fun _ _ _ => rfl⟩

/-- Settles O56: the queued action first, then the current one; and the lock. -/
theorem pwrAbortAndClear : Obligations.PwrAbortAndClear := by
  refine ⟨fun s tag n h => ?_, fun s tag n h => ?_⟩
  · intro f p
    have hl : Frame.lengthOk ⟨0x31, tag, n.toByte, []⟩ = true := rfl
    by_cases hact : ∃ a q ab, p.ctrl = .acting a q ab
    · obtain ⟨a, q, ab, hc⟩ := hact
      have hcarried : s.takeFrame.takeAbort n = _ := State.takeAbort_acting hc
      refine ⟨_, exec_nodeRequest_answers rfl h hl hcarried, fun hn => absurd hc (hn a q ab), fun a' q' ab' hc' => ?_⟩
      obtain ⟨rfl, rfl, rfl⟩ := Controller.acting.inj (hc.symm.trans hc')
      by_cases hrun : s.abortRunsOn n a ab
      · obtain ⟨x, hx, habort⟩ := State.abort_runsOn (s := s.takeFrame) hc hrun
        obtain ⟨honly, hreplied⟩ := State.OnlyNode.answered (s := s) (u := s.takeFrame.abort n a q ab) (n := n)
          (by rw [habort]; exact .set _ _ _) f { result := .ok, fields := (s.takeFrame.abort n a q ab).powerBlock n }
        refine ⟨honly, hreplied, fun _ => ?_, fun hn => absurd hrun hn⟩
        rw [State.reply_nd, habort, State.nd_setNd_same, hx]
        cases q <;> rfl
      · obtain ⟨honly, hended⟩ := State.abort_ends (s := s.takeFrame) hc hrun
        obtain ⟨honly, hreplied⟩ := State.OnlyNode.answered honly f
          { result := .ok, fields := (s.takeFrame.abort n a q ab).powerBlock n }
        refine ⟨honly, hreplied, fun hr => absurd hr hrun, fun _ => ?_⟩
        have hreply := hended.reply (f := f) (w := { result := .ok, fields := (s.takeFrame.abort n a q ab).powerBlock n })
        cases q <;> exact hreply
    · have hno : ∀ a q ab, (s.takeFrame.nd n).power.ctrl ≠ .acting a q ab := fun a q ab hc => hact ⟨a, q, ab, hc⟩
      have hcarried : s.takeFrame.takeAbort n = s.takeFrame.answers .badState (s.powerBlock n) := State.takeAbort_refused hno
      exact ⟨_, exec_nodeRequest_answers rfl h hl hcarried, fun _ => s.refused_replied _ _,
        fun a q ab hc => absurd ⟨a, q, ab, hc⟩ hact⟩
  · intro f p
    have hl : Frame.lengthOk ⟨0x32, tag, n.toByte, []⟩ = true := rfl
    by_cases hlock : ∃ c, p.ctrl = .locked c
    · obtain ⟨c, hc⟩ := hlock
      obtain ⟨u, hu, hcarried⟩ := State.clearLock_locked (s := s.takeFrame) (n := n) (c := c) hc
      obtain ⟨honly, hreplied⟩ := State.OnlyNode.answered (s := s) (u := u) (n := n) (by rw [hu]; exact .set _ _ _) f
        { result := .ok, fields := u.powerBlock n }
      refine ⟨_, exec_nodeRequest_answers rfl h hl hcarried, fun hn => absurd hc (hn c), fun _ _ => ⟨honly, ?_, hreplied⟩⟩
      rw [State.reply_nd, hu, State.nd_setNd_same]
      rfl
    · have hno : ∀ c, (s.takeFrame.nd n).power.ctrl ≠ .locked c := fun c hc => hlock ⟨c, hc⟩
      have hcarried : s.takeFrame.clearLock n = s.takeFrame.answers .badState (s.powerBlock n) := State.clearLock_refused hno
      exact ⟨_, exec_nodeRequest_answers rfl h hl hcarried, fun _ => s.refused_replied _ _, fun c hc => absurd ⟨c, hc⟩ hlock⟩

end

end Sys2Proof.Machine
end


section
/-! PROOFS. The media side of a node as one record: what freeing, returning write-outs and draining make of it (R81 to R86), and
the ONCE rule (R85). -/

namespace Sys2Proof.Machine

set_option Elab.async false

/-! ### The media side of a node -/

/-- The media of a node with the pool it shares: what the Media Function's operations on this node write. -/
structure MediaView where
  media : Media
  cache : NodeCache
  free : List Nat
  entries : List Entry
  lru : List Nat

/-- The media side of node `n`. -/
def State.view (s : State) (n : NodeId) : MediaView := ⟨(s.nd n).media, (s.nd n).cache, s.free, s.entries, s.lru⟩

/-- The part with the media side of node `n` replaced. -/
def State.withView (s : State) (n : NodeId) (v : MediaView) : State := s.withMedia n v.media v.cache v.free v.entries v.lru

section
variable {s t u : State} {n m : NodeId} {v w : MediaView}

theorem State.withView_nd (s : State) (n : NodeId) (v : MediaView) :
    (s.withView n v).nd n = { s.nd n with media := v.media, cache := v.cache } := s.nd_setNd_same n _

@[simp] theorem State.view_withView (s : State) (n : NodeId) (v : MediaView) : (s.withView n v).view n = v := by
  rw [State.view, State.withView_nd]
  rfl

@[simp] theorem State.withView_withView (s : State) (n : NodeId) (v w : MediaView) :
    (s.withView n v).withView n w = s.withView n w := State.withMedia_withMedia _ _ _ _ _ _ _ _ _ _ _ _

@[simp] theorem State.withView_view (s : State) (n : NodeId) : s.withView n (s.view n) = s := by
  have hself : s.setNd n { s.nd n with media := (s.nd n).media, cache := (s.nd n).cache } = s := s.setNd_nd n
  rw [State.withView, State.withMedia, State.view, hself]

theorem State.view_eq_iff : t.view n = u.view n ↔ (t.nd n).media = (u.nd n).media ∧ (t.nd n).cache = (u.nd n).cache ∧
    t.free = u.free ∧ t.entries = u.entries ∧ t.lru = u.lru := by
  simp only [State.view, MediaView.mk.injEq]

theorem State.slot_eq_view (s : State) (n : NodeId) : s.slot n = (s.view n).media.slot := rfl

theorem State.mapMedia_eq_withView (f : Media → Media) :
    s.mapMedia n f = s.withView n { s.view n with media := f (s.nd n).media } := rfl

theorem State.withView_onlyMedia (s : State) (n : NodeId) (v : MediaView) : s.OnlyMedia (s.withView n v) n := by
  rw [State.OnlyMedia, State.withView_nd]
  rfl

/-! ### Freeing entries (R101) -/

/-- The pages of `ps` leave the lists of a node's cache. -/
def NodeCache.dropped (ps : List Nat) (c : NodeCache) : NodeCache :=
  { c with
    fetches := c.fetches.filter (fun q => !ps.contains q)
    queue := c.queue.filter (fun q => !ps.contains q)
    outstanding := c.outstanding.filter (fun q => !ps.contains q) }

/-- The entries in the pages of `ps` are freed (R101). -/
def MediaView.freed (ps : List Nat) (v : MediaView) : MediaView :=
  { v with
    cache := v.cache.dropped ps
    free := ps.foldl (fun f p => insertPage p f) v.free
    entries := v.entries.filter (fun e => !ps.contains e.page)
    lru := v.lru.filter (fun q => !ps.contains q) }

theorem MediaView.freed_nil (v : MediaView) : v.freed [] = v := by
  simp [MediaView.freed, NodeCache.dropped]

theorem MediaView.freed_freed (ps qs : List Nat) (v : MediaView) : (v.freed ps).freed qs = v.freed (ps ++ qs) := by
  have hboth {α : Type} (f : α → Nat) (l : List α) : (l.filter (fun x => !ps.contains (f x))).filter (fun x => !qs.contains (f x)) =
      l.filter (fun x => !(ps ++ qs).contains (f x)) := by
    rw [List.filter_filter]
    refine List.filter_congr fun x _ => ?_
    rw [List.contains_append, Bool.not_or, Bool.and_comm]
  simp only [MediaView.freed, NodeCache.dropped, List.foldl_append, hboth Entry.page,
    show ∀ l : List Nat, (l.filter (fun q => !ps.contains q)).filter (fun q => !qs.contains q) = _ from hboth id]
  rfl

theorem State.freeEntry_eq_withView (s : State) (e : Entry) :
    s.freeEntry e = s.withView e.node ((s.view e.node).freed [e.page]) := by
  have hkept {α : Type} (f : α → Nat) (l : List α) : l.filter (fun x => f x != e.page) = l.filter (fun x => !([e.page].contains (f x))) :=
    List.filter_congr fun x _ => by
      rw [List.contains_cons, List.contains_nil, Bool.or_false]
      rfl
  have hlist (l : List Nat) : without e.page l = l.filter (fun q => !([e.page].contains q)) := hkept id l
  rw [State.freeEntry_eq, hlist, hlist, hlist, hlist, hkept Entry.page]
  rfl

theorem State.freeAll_eq (l : List Entry) (s : State) (hl : ∀ e ∈ l, e.node = n) :
    l.foldl State.freeEntry s = s.withView n ((s.view n).freed (l.map Entry.page)) := by
  induction l generalizing s with
  | nil => rw [List.map_nil, MediaView.freed_nil, State.withView_view]; rfl
  | cons e es ih =>
    obtain ⟨he, hes⟩ := List.forall_mem_cons.mp hl
    rw [List.foldl_cons, ih _ hes, s.freeEntry_eq_withView e, he, State.view_withView, State.withView_withView, MediaView.freed_freed]
    rfl

/-- The pages of the entries that `f` accepts. -/
def MediaView.pagesOf (f : Entry → Bool) (v : MediaView) : List Nat := (v.entries.filter f).map Entry.page

/-- Freeing where `f` accepts frees the pages of those entries, where they all are of one node. -/
theorem State.freeWhere_eq {f : Entry → Bool} (hf : ∀ e, f e = true → e.node = n) :
    s.freeWhere f = s.withView n ((s.view n).freed ((s.view n).pagesOf f)) :=
  State.freeAll_eq _ s fun e he => hf e (List.mem_filter.mp he).2

/-- With one entry for a page, the entries whose pages are not those that `f` accepts are those that it does not. -/
theorem MediaView.filter_pagesOf (hpages : (v.entries.map Entry.page).Nodup) (f : Entry → Bool) :
    v.entries.filter (fun e => !(v.pagesOf f).contains e.page) = v.entries.filter (fun e => !f e) := by
  refine List.filter_congr fun e he => ?_
  congr 1
  rw [Bool.eq_iff_iff, List.contains_iff_mem, MediaView.pagesOf, List.mem_map]
  constructor
  · rintro ⟨g, hg, hpage⟩
    obtain ⟨hmem, haccept⟩ := List.mem_filter.mp hg
    rw [← List.inj_on_of_nodup_map hpages hmem he hpage]
    exact haccept
  · exact fun haccept => ⟨e, List.mem_filter.mpr ⟨he, haccept⟩, rfl⟩

/-! ### Write-outs returned (R118, R119) -/

/-- The node's write-outs are DIRTY again, at the head of the queue. -/
def MediaView.returned (v : MediaView) : MediaView :=
  { v with
    cache := { v.cache with queue := v.cache.outstanding ++ v.cache.queue, outstanding := [] }
    entries := v.entries.map (fun e => if e.page ∈ v.cache.outstanding then { e with state := .dirty } else e) }

theorem State.returnFlushing_eq (s : State) (n : NodeId) : s.returnFlushing n = s.withView n (s.view n).returned := by
  rw [State.returnFlushing, State.foldl_setEntry (fun _ => .dirty) (fun _ _ _ => rfl)]
  rfl

/-! ### Draining (R81, R82) -/

/-- The slot of this record in state `st`, and its current command ended NOT_READY (R76, R79). -/
def Media.left (st : SlotState) (m : Media) : Media :=
  let y : Media := { m with slot := m.slot.map (fun x => { x with state := st }), statePending := true }
  if m.current.isSome then
    { y with current := none, received := none, last := .notReady, out := { status := some .notReady, data := .nothing } }
  else y

/-- The slot of this record ABSENT (R86). -/
def Media.emptied (m : Media) : Media := { m with slot := none, continuation := none, statePending := true }

/-- The entries of node `n` that hold data to be stored. -/
def MediaView.unstored (n : NodeId) (v : MediaView) : Nat := v.entries.countP (fun e => e.node == n && e.state.isUnstored)

/-- The drain of medium `x` up to the end test (R81). -/
def MediaView.draining (n : NodeId) (x : Medium) (v : MediaView) : MediaView :=
  let y := ({ v with media := v.media.left .withdrawing }).freed (v.pagesOf (fun e => e.node == n && e.state.isFilling))
  if x.state = .faulted then y.returned else y

/-- The node has no entry, and its slot is ABSENT (R82, R83). -/
def MediaView.vacated (n : NodeId) (v : MediaView) : MediaView :=
  let y := v.freed (v.pagesOf (fun e => e.node == n))
  { y with media := y.media.emptied }

/-- The drain of medium `x` (R81, R82). -/
def MediaView.drained (n : NodeId) (x : Medium) (v : MediaView) : MediaView :=
  if (v.draining n x).unstored n = 0 then (v.draining n x).vacated n else v.draining n x

theorem State.leaveReady_slotTo (s : State) (n : NodeId) (st : SlotState) :
    (s.slotTo n st).leaveReady n = s.withView n { s.view n with media := (s.nd n).media.left st } := by
  have hcurrent : ((s.slotTo n st).nd n).media.current = (s.nd n).media.current := by
    rw [State.slotTo, State.mapMedia, State.nd_setNd_same]
  unfold State.leaveReady
  rw [hcurrent, State.slotTo, State.mapMedia_eq_withView, Media.left]
  split
  · rw [State.endCommand, State.mapMedia_eq_withView, State.view_withView, State.withView_withView, State.withView_nd]
  · rfl

theorem State.vacated_eq (s : State) (n : NodeId) :
    (s.freeWhere (fun e => e.node == n)).slotAbsent n = s.withView n ((s.view n).vacated n) := by
  rw [State.freeWhere_eq (n := n) (fun e he => beq_iff_eq.mp he), State.slotAbsent, State.mapMedia_eq_withView, State.view_withView,
    State.withView_withView, State.withView_nd]
  rfl

theorem State.drainEnd_eq {x : Medium} (hs : s.slot n = some x) (hw : x.state = .withdrawing) :
    s.drainEnd n = if (s.view n).unstored n = 0 then s.withView n ((s.view n).vacated n) else s := by
  rw [State.drainEnd, hs]
  simp only [hw, true_and, State.vacated_eq]
  rfl

theorem MediaView.draining_media (n : NodeId) (x : Medium) (v : MediaView) : (v.draining n x).media = v.media.left .withdrawing := by
  unfold MediaView.draining
  dsimp only
  split <;> rfl

theorem Media.left_slot (st : SlotState) (m : Media) : (m.left st).slot = m.slot.map (fun x => { x with state := st }) := by
  unfold Media.left
  dsimp only
  split <;> rfl

theorem State.drain_eq {x : Medium} (hs : s.slot n = some x) (hw : x.state ≠ .withdrawing) :
    s.drain n = s.withView n ((s.view n).drained n x) := by
  have hfreed : ((s.slotTo n .withdrawing).leaveReady n).freeWhere (fun e => e.node == n && e.state.isFilling) =
      s.withView n (({ s.view n with media := (s.nd n).media.left .withdrawing } : MediaView).freed
        ((s.view n).pagesOf (fun e => e.node == n && e.state.isFilling))) := by
    rw [State.leaveReady_slotTo, State.freeWhere_eq (n := n) (fun e he => beq_iff_eq.mp (Bool.and_eq_true_iff.mp he).1),
      State.view_withView, State.withView_withView]
    rfl
  have hdraining : (if x.state = .faulted then
        (((s.slotTo n .withdrawing).leaveReady n).freeWhere (fun e => e.node == n && e.state.isFilling)).returnFlushing n
      else ((s.slotTo n .withdrawing).leaveReady n).freeWhere (fun e => e.node == n && e.state.isFilling)) =
      s.withView n ((s.view n).draining n x) := by
    rw [hfreed, State.returnFlushing_eq, State.view_withView, State.withView_withView, MediaView.draining]
    split <;> rfl
  have hslot : (s.withView n ((s.view n).draining n x)).slot n = some { x with state := .withdrawing } := by
    have hmedia : (s.view n).media.slot = some x := hs
    rw [State.slot_eq_view, State.view_withView, MediaView.draining_media, Media.left_slot, hmedia]
    rfl
  rw [State.drain, hs]
  dsimp only
  rw [if_neg hw, hdraining, State.drainEnd_eq hslot rfl, State.view_withView, State.withView_withView, MediaView.drained]
  split <;> rfl

/-- Draining looks at the media side alone. -/
theorem State.drain_view_congr (h : u.view n = s.view n) : (u.drain n).view n = (s.drain n).view n := by
  have hslot : u.slot n = s.slot n := by rw [State.slot_eq_view, State.slot_eq_view, h]
  by_cases hnoop : ∀ x, s.slot n = some x → x.state = .withdrawing
  · rw [State.drain_noop hnoop, State.drain_noop (by rw [hslot]; exact hnoop), h]
  · simp only [not_forall] at hnoop
    obtain ⟨x, hs, hw⟩ := hnoop
    rw [State.drain_eq hs hw, State.drain_eq (hslot.trans hs) hw, State.view_withView, State.view_withView, h]

/-- The lists that the end test of a drain needs: an entry is the only one in its page, and the outstanding list names FLUSHING
entries of the node. -/
structure MediaView.Listed (n : NodeId) (v : MediaView) : Prop where
  pages : (v.entries.map Entry.page).Nodup
  outstanding : ∀ e ∈ v.entries, e.page ∈ v.cache.outstanding ↔ e.node = n ∧ e.state.isFlushing = true

theorem State.CacheLaw.listed (h : s.CacheLaw) (n : NodeId) : (s.view n).Listed n := by
  obtain ⟨hpages, -, -, -, hnodes⟩ := h
  obtain ⟨-, -, hout, -⟩ := hnodes n
  refine ⟨hpages, fun e he => ?_⟩
  show e.page ∈ (s.nd n).cache.outstanding ↔ _
  rw [hout.2]
  constructor
  · rintro ⟨f, hf, hpage, hnode, hflush⟩
    rw [← State.entry_eq_of_page hpages hf he hpage]
    exact ⟨hnode, hflush⟩
  · exact fun ⟨hnode, hflush⟩ => ⟨e, he, rfl, hnode, hflush⟩

theorem MediaView.returned_entries (h : v.Listed n) : v.returned.entries =
    v.entries.map (fun e => if e.node = n ∧ e.state.isFlushing = true then { e with state := .dirty } else e) :=
  List.map_congr_left fun e he => if_congr (h.outstanding e he) rfl rfl

theorem MediaView.returned_unstored (h : v.Listed n) : v.returned.unstored n = v.unstored n := by
  rw [MediaView.unstored, MediaView.returned_entries h, List.countP_map, MediaView.unstored]
  refine List.countP_congr fun e _ => ?_
  by_cases hflush : e.node = n ∧ e.state.isFlushing = true
  · simp [hflush.1, hflush.2, EntryState.isUnstored, EntryState.isDirty]
  · simp [hflush]

/-- The FILLING entries of a node freed. -/
def MediaView.unfilled (n : NodeId) (v : MediaView) : MediaView :=
  v.freed (v.pagesOf (fun e => e.node == n && e.state.isFilling))

theorem MediaView.unfilled_entries (h : v.Listed n) :
    (v.unfilled n).entries = v.entries.filter (fun e => !(e.node == n && e.state.isFilling)) :=
  MediaView.filter_pagesOf h.pages _

theorem EntryState.isUnstored_of_isFilling {x : EntryState} (h : x.isFilling = true) : x.isUnstored = false := by
  cases x <;> simp_all [EntryState.isFilling, EntryState.isUnstored, EntryState.isDirty, EntryState.isFlushing]

theorem EntryState.isUnstored_of_isFlushing {x : EntryState} (h : x.isFlushing = true) : x.isUnstored = true := by
  rw [EntryState.isUnstored, h, Bool.or_true]

theorem MediaView.unfilled_unstored (h : v.Listed n) : (v.unfilled n).unstored n = v.unstored n := by
  rw [MediaView.unstored, MediaView.unfilled_entries h, List.countP_filter, MediaView.unstored]
  refine List.countP_congr fun e _ => ?_
  by_cases hfill : e.state.isFilling = true
  · simp [hfill, EntryState.isUnstored_of_isFilling hfill]
  · simp [hfill]

theorem MediaView.unfilled_outstanding (n : NodeId) (v : MediaView) : (v.unfilled n).cache.outstanding = v.cache.outstanding.filter (fun q =>
    !(v.pagesOf (fun e => e.node == n && e.state.isFilling)).contains q) := rfl

theorem MediaView.unfilled_listed (h : v.Listed n) : (v.unfilled n).Listed n := by
  have hentries := MediaView.unfilled_entries h
  refine ⟨?_, fun e he => ?_⟩
  · rw [hentries]
    exact h.pages.sublist (List.filter_sublist.map _)
  · rw [hentries] at he
    obtain ⟨he, hkept⟩ := List.mem_filter.mp he
    rw [MediaView.unfilled_outstanding, List.mem_filter, h.outstanding e he, and_iff_left_of_imp]
    intro _
    rw [Bool.not_eq_true', ← Bool.not_eq_true, List.contains_iff_mem, MediaView.pagesOf, List.mem_map]
    rintro ⟨f, hf, hpage⟩
    obtain ⟨hf, hfill⟩ := List.mem_filter.mp hf
    rw [List.inj_on_of_nodup_map h.pages hf he hpage] at hfill
    simp [hfill] at hkept

theorem MediaView.draining_eq (n : NodeId) (x : Medium) (v : MediaView) : v.draining n x =
    if x.state = .faulted then (({ v with media := v.media.left .withdrawing } : MediaView).unfilled n).returned
    else ({ v with media := v.media.left .withdrawing } : MediaView).unfilled n := rfl

theorem MediaView.Listed.withMedia (h : v.Listed n) (m : Media) : ({ v with media := m } : MediaView).Listed n := ⟨h.pages, h.outstanding⟩

/-- A drain keeps what is to be stored. -/
theorem MediaView.draining_unstored (h : v.Listed n) (x : Medium) : (v.draining n x).unstored n = v.unstored n := by
  have hfree := MediaView.unfilled_unstored (h.withMedia (v.media.left .withdrawing))
  rw [MediaView.draining_eq]
  split
  · rw [MediaView.returned_unstored (MediaView.unfilled_listed (h.withMedia _)), hfree]
    rfl
  · exact hfree

/-- The slot after a drain (R81, R82). -/
theorem MediaView.drained_slot (h : v.Listed n) {x : Medium} (hs : v.media.slot = some x) :
    (v.drained n x).media.slot = if v.unstored n = 0 then none else some { x with state := .withdrawing } := by
  rw [MediaView.drained, MediaView.draining_unstored h]
  split
  · rfl
  · rw [MediaView.draining_media, Media.left_slot, hs]
    rfl

theorem Media.left_current (st : SlotState) (m : Media) : (m.left st).current = none := by
  unfold Media.left
  dsimp only
  split
  · rfl
  · next h => simpa using h

theorem MediaView.drained_current (n : NodeId) (x : Medium) (v : MediaView) : (v.drained n x).media.current = none := by
  unfold MediaView.drained
  split
  · show (v.draining n x).media.current = none
    rw [MediaView.draining_media, Media.left_current]
  · rw [MediaView.draining_media, Media.left_current]

/-! ### The ONCE rule (R85) -/

/-- A medium is drained at a boot event that ends its presentation. -/
theorem State.onceJudged_of_drain {boots : Prop} (hview : u.view n = s.view n)
    (hboot : (u.nd n).power.boot = (s.nd n).power.boot + 1) (ht : t.view n = (u.onceRule n).view n) (hb : boots) :
    s.OnceJudged t n boots := by
  have hslot : u.slot n = s.slot n := by rw [State.slot_eq_view, State.slot_eq_view, hview]
  refine ⟨fun m a hdue => ?_, fun hnot => ?_⟩
  · obtain ⟨-, hs, hpresent, hlate, hstate⟩ := hdue
    have hw : m.state ≠ .withdrawing := by
      rcases hstate with h | h
      · rw [h]; nofun
      · rw [h]; nofun
    have hrule : u.onceRule n = u.drain n := by
      rw [State.onceRule, hslot, hs]
      dsimp only
      rw [hpresent]
      dsimp only
      rw [hboot, if_pos hlate]
    rw [hrule, State.drain_view_congr hview] at ht
    refine ⟨State.view_eq_iff.mp ht, ?_, fun hlaw => ?_⟩
    · show (t.view n).media.current = none
      rw [ht, State.drain_eq hs hw, State.view_withView, MediaView.drained_current]
    · rw [State.slot_eq_view, ht, State.drain_eq hs hw, State.view_withView, MediaView.drained_slot (hlaw.listed n) hs]
      rfl
  · refine State.view_eq_iff.mp (ht.trans (Eq.trans ?_ hview))
    unfold State.onceRule
    split
    · rfl
    · next m hs =>
      split
      · rfl
      · next a hpresent =>
        split
        · next hlate =>
          have hw : m.state = .withdrawing := by
            cases hst : m.state with
            | withdrawing => rfl
            | ready => exact absurd ⟨hb, hslot.symm.trans hs, hpresent, by rwa [hboot] at hlate, .inl hst⟩ (hnot m a)
            | faulted => exact absurd ⟨hb, hslot.symm.trans hs, hpresent, by rwa [hboot] at hlate, .inr hst⟩ (hnot m a)
          rw [State.drain_noop fun y hy => by rw [← Option.some_inj.mp (hs.symm.trans hy)]; exact hw]
        · rfl

theorem State.onceJudged_of_not {boots : Prop} (hb : ¬boots) (ht : t.view n = s.view n) : s.OnceJudged t n boots :=
  ⟨fun _ _ hdue => absurd hdue.1 hb, fun _ => State.view_eq_iff.mp ht⟩

end

end Sys2Proof.Machine
end


section
/-! PROOFS. What the operations of the Power Controller leave of the line, of the media side and of the boot number, and the ends of
the phases by their timers (O57). -/

namespace Sys2Proof.Machine

set_option Elab.async false

section
variable {s t u v : State} {n : NodeId} {a : Action} {q : Option Queued} {ab : Bool} {x : Node} {r : ActionResult} {ph : Phase}
  {ms : Nat} {c : LockCause}

/-! ### The boot event (R129) -/

/-- A boot event before the ONCE rule (R18, R53, R129, R154). -/
def State.preBoot (s : State) (n : NodeId) : State :=
  (((((s.mapPower n (fun p => { p with boot := p.boot + 1 })).record n .boot).powerNotice n).rearmLine n).watchBoot n).liveBoot n

theorem State.bootEvent_eq_onceRule (s : State) (n : NodeId) : s.bootEvent n = (s.preBoot n).onceRule n := rfl

theorem State.preBoot_eq (s : State) (n : NodeId) : s.preBoot n = s.setNd n
    { (s.nd n).booted (s.set n).delivery.mask (s.graceFrom n) with line := s.lineBooted n } := by
  have hrearm : (((s.mapPower n (fun p => { p with boot := p.boot + 1 })).record n .boot).powerNotice n).rearmLine n =
      s.setNd n { s.nd n with
        line := s.lineBooted n
        hist := (s.nd n).hist.record (s.set n).delivery.mask ((s.nd n).power.boot + 1) .boot 0
        power := { (s.nd n).power with boot := (s.nd n).power.boot + 1, statePending := true } } := by
    unfold State.rearmLine State.lineBooted
    by_cases hauto : (s.set n).line.rate = .auto ∧ (s.set n).line.rearm = true
    · simp [hauto, State.enterHunting, State.mapLine, State.powerNotice, State.record, State.mapPower, State.mapHist]
    · simp [hauto, State.powerNotice, State.record, State.mapPower, State.mapHist]
  rw [State.preBoot, hrearm, State.liveBoot_eq]
  simp [State.watchBoot, State.mapWatch, State.graceFrom, Node.booted]
  rfl

/-- What a boot event leaves of the line, of the feed and of the number of boots (R18, R129). -/
structure State.BootedFrom (s t : State) (n : NodeId) : Prop where
  clock : t.clock = s.clock
  cfg : t.cfg = s.cfg
  line : (t.nd n).line = s.lineBooted n
  feedCut : (t.nd n).power.feedCut = (s.nd n).power.feedCut
  boot : (t.nd n).power.boot = (s.nd n).power.boot + 1

theorem State.bootEvent_from (s : State) (n : NodeId) : s.BootedFrom (s.bootEvent n) n := by
  obtain ⟨m, k, f, e, l, hmedia⟩ := State.MediaSide.onceRule (s.preBoot n) n
  have hnd : (s.bootEvent n).nd n = { (s.preBoot n).nd n with media := m, cache := k } := by
    rw [State.bootEvent_eq_onceRule, hmedia]
    exact State.nd_setNd_same _ _ _
  have hpre : (s.preBoot n).nd n = _ := (congrArg (fun u => State.nd u n) (s.preBoot_eq n)).trans (State.nd_setNd_same _ _ _)
  have hframe : (s.bootEvent n).clock = (s.preBoot n).clock ∧ (s.bootEvent n).cfg = (s.preBoot n).cfg := by
    rw [State.bootEvent_eq_onceRule, hmedia]
    exact ⟨rfl, rfl⟩
  refine ⟨hframe.1.trans ?_, hframe.2.trans ?_, ?_, ?_, ?_⟩
  · rw [State.preBoot_eq]; rfl
  · rw [State.preBoot_eq]; rfl
  · rw [hnd, hpre]
  · rw [hnd, hpre]; rfl
  · rw [hnd, hpre]; rfl

/-- The media side after a boot event is that of the ONCE rule (R85). -/
theorem State.bootEvent_onceJudged {boots : Prop} (hview : u.view n = s.view n) (hboot : (u.nd n).power.boot = (s.nd n).power.boot)
    (ht : t.view n = (u.bootEvent n).view n) (hb : boots) : s.OnceJudged t n boots := by
  have hpre : (u.preBoot n).view n = u.view n := by rw [State.preBoot_eq, State.view, State.nd_setNd_same]; rfl
  refine State.onceJudged_of_drain (u := u.preBoot n) (hpre.trans hview) ?_ ht hb
  rw [State.preBoot_eq, State.nd_setNd_same, ← hboot]
  rfl

/-! ### What an end of an action or of a phase keeps -/

/-- Node `y` has the media side and the boot number of node `x`. -/
def Node.KeepsMedia (x y : Node) : Prop := y.media = x.media ∧ y.cache = x.cache ∧ y.power.boot = x.power.boot

theorem State.GoesOn.keepsMedia (h : t.GoesOn n x a q ab ph ms) : x.KeepsMedia (t.nd n) := by
  rw [h.2]
  exact ⟨rfl, rfl, rfl⟩

theorem State.ActionLocked.keepsMedia (h : t.ActionLocked n x a q c) : x.KeepsMedia (t.nd n) := by
  cases q with
  | none =>
    have hnd : t.nd n = _ := h
    rw [hnd]
    exact ⟨rfl, rfl, rfl⟩
  | some z =>
    have hnd : t.nd n = _ := h
    rw [hnd]
    exact ⟨rfl, rfl, rfl⟩

theorem State.ActionStarted.keepsMedia {k : ActionKind} {src : Source} (h : t.ActionStarted n x k src) : x.KeepsMedia (t.nd n) := by
  unfold State.ActionStarted at h
  dsimp only at h
  split at h
  · rw [h.2]; exact ⟨rfl, rfl, rfl⟩
  · rw [h]; exact ⟨rfl, rfl, rfl⟩

theorem Node.KeepsMedia.withEnd {y : Node} (h : x.KeepsMedia y) (mask : Half) (g : Nat) (f : FinalRecord) :
    x.KeepsMedia (y.withEnd mask g f) := h

theorem State.ActionEnded.keepsMedia (h : t.ActionEnded n x a q r) : x.KeepsMedia (t.nd n) := by
  have hrest : x.KeepsMedia (x.atRest .idle) := ⟨rfl, rfl, rfl⟩
  have hend := hrest.withEnd (t.set n).delivery.mask (t.graceFrom n) (a.final r none)
  cases q with
  | none =>
    have hnd : t.nd n = _ := h
    rw [hnd]
    exact hend
  | some z =>
    unfold State.ActionEnded at h
    dsimp only at h
    split at h
    · obtain ⟨hm, hk, hb⟩ := State.ActionStarted.keepsMedia h
      exact ⟨hm.trans hend.1, hk.trans hend.2.1, hb.trans hend.2.2⟩
    · rw [h]
      exact hend.withEnd _ _ _

theorem State.view_of_keepsMedia (ht : t = s.setNd n (t.nd n)) (hk : (s.nd n).KeepsMedia (t.nd n)) : t.view n = s.view n := by
  obtain ⟨hmedia, hcache, -⟩ := hk
  rw [State.view_eq_iff, hmedia, hcache, ht]
  exact ⟨rfl, rfl, rfl, rfl, rfl⟩

/-! ### The line through the ends of phases (R24) -/

theorem State.dwellExpires_line (hc : (s.nd n).power.ctrl = .acting a q ab) (hone : q = none ∨ (s.nd n).power.pg ≠ .high) :
    s.LineFollowed (s.dwellExpires n a) n (s.nd n).line := by
  have hon := s.beginOn_line n a
  unfold State.dwellExpires
  dsimp only
  split
  · next hended =>
    have hctrl : ((s.beginOn n a).1.nd n).power.ctrl = .acting a q ab ∧ (s.nd n).power.pg = .high := by
      revert hended
      unfold State.beginOn
      dsimp only
      split
      · next hcut =>
        have hfed := s.releaseFeedCut_eq n ((s.condition_cut_iff n).mp hcut)
        dsimp only at hfed
        split
        · next hpg =>
          rw [State.pgHigh, hfed, State.nd_setNd_same] at hpg
          intro _
          dsimp only
          rw [hfed, State.nd_setNd_same]
          exact ⟨hc, by simpa using hpg⟩
        · exact fun h => absurd h Bool.false_ne_true
      · split
        · next hpg => exact fun _ => ⟨hc, by simpa [State.pgHigh] using hpg⟩
        · exact fun h => absurd h Bool.false_ne_true
    have hnone : q = none := hone.resolve_right fun h => h hctrl.2
    subst hnone
    have hfinish : (s.beginOn n a).1.finish n .done = (s.beginOn n a).1.finishLast n a .done := by
      rw [State.finish, hctrl.1]
    rw [hfinish]
    exact hon.then (State.finishLast_sameLine _ _ _ _)
  · exact hon

theorem State.pulseEnds_line (hc : (s.nd n).power.ctrl = .acting a q ab) :
    s.LineFollowed (s.pulseEnds n a) n (if a.kind = .reset then s.lineBooted n else (s.nd n).line) := by
  have hrest : s.SameLine (s.releaseButtons n) n := .setNd rfl rfl
  have hctrl : ((s.releaseButtons n).nd n).power.ctrl = .acting a q ab := by
    rw [State.releaseButtons_eq, State.nd_setNd_same]; exact hc
  unfold State.pulseEnds
  dsimp only
  split
  · next hk =>
    have hboot := (s.releaseButtons n).bootEvent_from n
    obtain ⟨l, m, k, f, e, w, heq⟩ := (s.releaseButtons n).bootEvent_eq n
    have hctrl' : (((s.releaseButtons n).bootEvent n).nd n).power.ctrl = .acting a q ab := by
      rw [heq]
      exact (congrArg (fun x : Node => x.power.ctrl) (State.nd_setNd_same _ n _)).trans hctrl
    have hline : s.lineBooted n = (((s.releaseButtons n).bootEvent n).nd n).line := by
      rw [hboot.line, State.lineBooted, State.lineBooted, hrest.line]
      rfl
    rw [hline]
    exact (State.finish_line hctrl').before (hboot.feedCut.trans hrest.feedCut)
  · rw [← hrest.line]
    exact (State.finish_line hctrl).before hrest.feedCut

/-! ### The phases (R132 to R140) -/

/-- What the timer of phase `ph` does (R133 to R140). -/
def State.phaseEnds (s : State) (n : NodeId) (a : Action) : Phase → State
  | .none => s
  | .settle => s.settleEnds n a
  | .press => s.pressEnds n a
  | .awaitUp => s.lock n .startTimeout
  | .awaitDown => s.awaitDownExpires n a
  | .hold => s.holdEnds n a
  | .cutCheck => s.lock n .cutIneffective
  | .dwell => s.dwellExpires n a
  | .pulse => s.pulseEnds n a

/-- The event of a phase's timer. -/
def Phase.timer (n : NodeId) : Phase → Option Instr
  | .none => Option.none
  | .settle => some (.settleExpiry n)
  | .press => some (.pressEnd n)
  | .awaitUp => some (.awaitUpExpiry n)
  | .awaitDown => some (.awaitDownExpiry n)
  | .hold => some (.holdEnd n)
  | .cutCheck => some (.cutCheckExpiry n)
  | .dwell => some (.dwellExpiry n)
  | .pulse => some (.pulseEnd n)

theorem exec_timer {i : Instr} (hi : ph.timer n = some i) :
    exec i s = .next (s.given (s.inPhase n ph) (fun a => (s.toTick a.ends).phaseEnds n a ph)) := by
  cases ph with
  | none => cases hi
  | settle | press | awaitUp | awaitDown | hold | cutCheck | dwell | pulse => cases hi; rfl

theorem State.inPhase_eq (hc : (s.nd n).power.ctrl = .acting a q ab) (ph : Phase) :
    s.inPhase n ph = if a.phase = ph then some a else none := by
  rw [State.inPhase, hc]

theorem Action.afterHold_iff (a : Action) :
    a.afterHold = true ↔ a.escalated = true ∨ a.kind = .offHard ∨ (a.kind = .cycle ∧ a.method = .hard) := by
  rw [Action.afterHold, Bool.or_eq_true, Bool.or_eq_true, Bool.and_eq_true, beq_iff_eq, beq_iff_eq, beq_iff_eq, or_assoc]

/-- The end of a phase without a boot event leaves of the part the node alone, and of that its media side and its boot number; the
Line Unit follows it. -/
structure State.EndsQuietly (s t : State) (n : NodeId) : Prop where
  only : t = s.setNd n (t.nd n)
  keeps : (s.nd n).KeepsMedia (t.nd n)

theorem State.EndsQuietly.of_goesOn (h : t = s.setNd n (t.nd n)) (hx : (s.nd n).KeepsMedia x) (hg : t.GoesOn n x a q ab ph ms) :
    s.EndsQuietly t n := by
  obtain ⟨hm, hk, hb⟩ := hg.keepsMedia
  exact ⟨h, hm.trans hx.1, hk.trans hx.2.1, hb.trans hx.2.2⟩

theorem Node.KeepsMedia.refl (x : Node) : x.KeepsMedia x := ⟨rfl, rfl, rfl⟩

/-- The state at the end of a phase: the clock has come to it. -/
structure State.ComesTo (s t : State) (n : NodeId) (e : Nat) : Prop where
  ticks : t.clock.ticks = max s.clock.ticks e
  others : ∀ k, k ≠ n → t.nd k = s.nd k
  frame : t = { s with nodes := t.nodes, clock := t.clock, free := t.free, entries := t.entries, lru := t.lru }

theorem State.EndsQuietly.comesTo {e : Nat} (h : (s.toTick e).EndsQuietly t n) : s.ComesTo t n e := by
  have hclock : t.clock = (s.toTick e).clock := by rw [h.only]; rfl
  refine ⟨?_, fun k hk => ?_, ?_⟩
  · rw [hclock]
    exact Clock.toTick_ticks _ _ _
  · rw [h.only, State.nd_setNd_ne _ _ hk]; rfl
  · rw [h.only]; rfl

theorem State.EndsQuietly.onceJudged {e : Nat} {boots : Prop} (h : (s.toTick e).EndsQuietly t n) (hb : ¬boots) :
    s.OnceJudged t n boots :=
  State.onceJudged_of_not hb (State.view_of_keepsMedia (s := s.toTick e) h.only h.keeps)

end

end Sys2Proof.Machine
end


section
/-! PROOFS. The ends of the phases by their timers (O57). -/

namespace Sys2Proof.Machine

set_option Elab.async false

section
variable {s t u v : State} {n : NodeId} {a b : Action} {q : Option Queued} {ab : Bool} {x : Node} {r : ActionResult} {ph : Phase}
  {ms : Nat} {c : LockCause}

/-- The phases that end without a boot event and without moving the feed. -/
structure State.EndsFed (s t : State) (n : NodeId) : Prop extends s.EndsQuietly t n where
  line : s.LineFollowed t n (s.nd n).line

theorem State.enterPhase_ends (hc : (s.nd n).power.ctrl = .acting a q ab) (b : Action) (ph : Phase) (ms : Nat) :
    s.EndsFed (s.enterPhase n b ph ms) n ∧ (s.enterPhase n b ph ms).GoesOn n (s.nd n) b q ab ph ms := by
  obtain ⟨honly, hgoes⟩ := s.enterPhase_goesOn n (s.nd n) b a q ab ph ms hc rfl
  exact ⟨⟨⟨honly, hgoes.keepsMedia⟩, (s.enterPhase_sameLine n b ph ms).followed⟩, hgoes⟩

theorem State.finish_ends (hc : (s.nd n).power.ctrl = .acting a q ab) (r : ActionResult) :
    s.EndsFed (s.finish n r) n ∧ (s.finish n r).ActionEnded n (s.nd n) a q r := by
  obtain ⟨honly, hended⟩ := s.finish_ended n r hc
  exact ⟨⟨⟨honly, hended.keepsMedia⟩, State.finish_line hc⟩, hended⟩

theorem State.lock_ends (hc : (s.nd n).power.ctrl = .acting a q ab) (c : LockCause) :
    s.EndsFed (s.lock n c) n ∧ (s.lock n c).ActionLocked n (s.nd n) a q c := by
  obtain ⟨honly, hlocked⟩ := s.lock_locked n c hc
  exact ⟨⟨⟨honly, hlocked.keepsMedia⟩, (s.lock_sameLine n c).followed⟩, hlocked⟩

/-- An end of a phase of `v`, which is `s` with the clock come to it, is one of `s` (R126, R141). -/
theorem State.EndsFed.since {e : Nat} (h : (s.toTick e).EndsFed t n) : s.LineFollowed t n (s.nd n).line := h.line.before rfl

theorem State.EndsFed.boot {e : Nat} (h : (s.toTick e).EndsFed t n) : (t.nd n).power.boot = (s.nd n).power.boot := h.keeps.2.2

theorem State.aborting_eq (hc : (s.nd n).power.ctrl = .acting a q ab) : s.aborting n = ab := by rw [State.aborting, hc]

theorem State.pressEnds_says (hc : (s.nd n).power.ctrl = .acting a q ab) : s.EndsFed (s.pressEnds n a) n ∧
    (ab = true → (s.pressEnds n a).ActionEnded n (s.nd n) a q .aborted) ∧
    (ab = false → a.onPart = true → (s.pressEnds n a).GoesOn n (s.nd n) a q ab .awaitUp (s.set n).timings.startWait) ∧
    (ab = false → a.onPart = false → (s.pressEnds n a).GoesOn n (s.nd n) a q ab .awaitDown (s.set n).timings.softOffWait) := by
  rw [State.pressEnds, State.aborting_eq hc]
  cases ab with
  | true =>
    obtain ⟨hends, hended⟩ := State.finish_ends hc .aborted
    exact ⟨hends, fun _ => hended, nofun, nofun⟩
  | false =>
    rw [if_neg Bool.false_ne_true]
    cases hon : a.onPart with
    | true =>
      obtain ⟨hends, hgoes⟩ := State.enterPhase_ends hc a .awaitUp (s.timings n).startWait
      exact ⟨hends, nofun, fun _ _ => hgoes, nofun⟩
    | false =>
      obtain ⟨hends, hgoes⟩ := State.enterPhase_ends hc a .awaitDown (s.timings n).softOffWait
      exact ⟨hends, nofun, nofun, fun _ _ => hgoes⟩

theorem State.holdEnds_says (hc : (s.nd n).power.ctrl = .acting a q ab) : s.EndsFed (s.holdEnds n a) n ∧
    (ab = true → (s.holdEnds n a).ActionEnded n (s.nd n) a q .aborted) ∧
    (ab = false → (s.holdEnds n a).GoesOn n (s.nd n) a q ab .awaitDown (s.set n).timings.hardOffCheck) := by
  rw [State.holdEnds, State.aborting_eq hc]
  cases ab with
  | true =>
    obtain ⟨hends, hended⟩ := State.finish_ends hc .aborted
    exact ⟨hends, fun _ => hended, nofun⟩
  | false =>
    obtain ⟨hends, hgoes⟩ := State.enterPhase_ends hc a .awaitDown (s.timings n).hardOffCheck
    exact ⟨hends, nofun, fun _ => hgoes⟩

theorem State.awaitDownExpires_says (hc : (s.nd n).power.ctrl = .acting a q ab) : s.EndsFed (s.awaitDownExpires n a) n ∧
    (a.afterHold = true → (s.awaitDownExpires n a).ActionLocked n (s.nd n) a q .holdIneffective) ∧
    (¬a.afterHold = true → (a.kind = .cycle ∨ (s.set n).choices.escalation = .hard) →
      (s.awaitDownExpires n a).GoesOn n (s.nd n) { a with escalated := true } q ab .hold (s.set n).timings.hold) ∧
    (¬a.afterHold = true → a.kind ≠ .cycle → (s.set n).choices.escalation = .none →
      (s.awaitDownExpires n a).ActionEnded n (s.nd n) a q .failed) := by
  unfold State.awaitDownExpires
  by_cases hhold : a.afterHold = true
  · obtain ⟨hends, hlocked⟩ := State.lock_ends hc .holdIneffective
    rw [if_pos hhold]
    exact ⟨hends, fun _ => hlocked, fun h => absurd hhold h, fun h => absurd hhold h⟩
  · rw [if_neg hhold]
    by_cases hescalate : a.kind = .cycle ∨ (s.set n).choices.escalation = .hard
    · obtain ⟨hends, hgoes⟩ := State.enterPhase_ends hc { a with escalated := true } .hold (s.timings n).hold
      rw [if_pos hescalate]
      refine ⟨hends, fun h => absurd h hhold, fun _ _ => hgoes, fun _ hk hnone => ?_⟩
      rcases hescalate with h | h
      · exact absurd h hk
      · rw [hnone] at h; cases h
    · obtain ⟨hends, hended⟩ := State.finish_ends hc .failed
      rw [if_neg hescalate]
      exact ⟨hends, fun h => absurd h hhold, fun _ h => absurd h hescalate, fun _ _ _ => hended⟩

theorem State.dwellExpires_keepsMedia (hc : (s.nd n).power.ctrl = .acting a q ab) :
    (s.nd n).KeepsMedia ((s.dwellExpires n a).nd n) := by
  obtain ⟨-, hoff, hcut, hhigh⟩ := s.dwellExpires_says n a q ab hc
  by_cases hpg : (s.nd n).power.pg = .high
  · obtain ⟨hm, hk, hb⟩ := (hhigh hpg).keepsMedia
    exact ⟨hm, hk, hb⟩
  · by_cases hfeed : (s.nd n).power.feedCut = true
    · obtain ⟨hm, hk, hb⟩ := (hcut ((s.condition_cut_iff n).mpr hfeed) hpg).keepsMedia
      exact ⟨hm, hk, hb⟩
    · refine (hoff ?_).keepsMedia
      have hclear : (s.nd n).power.feedCut = false := Bool.not_eq_true _ ▸ hfeed
      simp [State.condition, Power.condition, hclear, hpg]

/-- The end of a PULSE: of a RESET with a boot event (R129, R139). -/
theorem State.pulseEnds_once {e : Nat} {boots : Prop} (hc : (s.nd n).power.ctrl = .acting a q ab) (hk : a.kind = .reset) (hb : boots) :
    s.OnceJudged ((s.toTick e).pulseEnds n a) n boots ∧
      (((s.toTick e).pulseEnds n a).nd n).power.boot = (s.nd n).power.boot + 1 := by
  obtain ⟨w, hw⟩ : ∃ w, w = ((s.toTick e).releaseButtons n).bootEvent n := ⟨_, rfl⟩
  have hfrom := ((s.toTick e).releaseButtons n).bootEvent_from n
  rw [← hw] at hfrom
  have hrest : ((s.toTick e).releaseButtons n).nd n = { s.nd n with power :=
      { (s.nd n).power with btnPwr := false, btnRst := false, diag := false } } := by
    rw [State.releaseButtons_eq, State.nd_setNd_same]; rfl
  have hctrl : (w.nd n).power.ctrl = .acting a q ab := by
    obtain ⟨l, m, k, f, es, z, heq⟩ := ((s.toTick e).releaseButtons n).bootEvent_eq n
    rw [hw, heq]
    refine (congrArg (fun x : Node => x.power.ctrl) (State.nd_setNd_same _ n _)).trans ?_
    show (((s.toTick e).releaseButtons n).nd n).power.ctrl = _
    rw [hrest]
    exact hc
  have ht : (s.toTick e).pulseEnds n a = w.finish n (if (s.toTick e).aborting n then .aborted else .done) := by
    rw [State.pulseEnds, if_pos hk, ← hw]
  obtain ⟨⟨⟨honly, hkeeps⟩, -⟩, -⟩ := State.finish_ends hctrl (if (s.toTick e).aborting n then .aborted else .done)
  rw [ht]
  refine ⟨State.bootEvent_onceJudged (u := (s.toTick e).releaseButtons n) ?_ ?_ ?_ hb, ?_⟩
  · rw [State.view, hrest]; rfl
  · rw [hrest]
  · rw [State.view_of_keepsMedia honly hkeeps, hw]
  · rw [hkeeps.2.2, hfrom.boot, hrest]

theorem State.pulseEnds_quiet (hc : (s.nd n).power.ctrl = .acting a q ab) (hk : a.kind ≠ .reset) :
    s.EndsQuietly (s.pulseEnds n a) n := by
  obtain ⟨v, hv⟩ : ∃ v, v = s.releaseButtons n := ⟨_, rfl⟩
  have hctrl : (v.nd n).power.ctrl = .acting a q ab := by rw [hv, State.releaseButtons_eq, State.nd_setNd_same]; exact hc
  obtain ⟨⟨⟨honly, hm, hca, hb⟩, -⟩, -⟩ := State.finish_ends hctrl (if s.aborting n then .aborted else .done)
  have hpulse : s.pulseEnds n a = v.finish n (if s.aborting n then .aborted else .done) := by
    rw [State.pulseEnds, if_neg hk, ← hv]
  have hkeep : (s.nd n).KeepsMedia (v.nd n) := by
    rw [hv, State.releaseButtons_eq, State.nd_setNd_same]
    exact ⟨rfl, rfl, rfl⟩
  rw [hpulse]
  refine ⟨?_, hm.trans hkeep.1, hca.trans hkeep.2.1, hb.trans hkeep.2.2⟩
  refine honly.trans ?_
  have hset (y : Node) : v.setNd n y = s.setNd n y := by rw [hv, State.releaseButtons_eq, State.setNd_setNd]
  exact hset _

/-- Settles O57: phase by phase, on the state whose clock has come to the phase's end. -/
theorem phasesEndByTheirTimers : Obligations.PhasesEndByTheirTimers := by
  intro s n a q ab hheld hc x p y afterHold ends e he
  obtain ⟨ph, i, rfl, hi⟩ : ∃ ph i, e = (ph, i) ∧ ph.timer n = some i := by
    simp only [ends, List.mem_cons, List.not_mem_nil, or_false] at he
    rcases he with rfl | rfl | rfl | rfl | rfl | rfl | rfl | rfl
    all_goals exact ⟨_, _, rfl, rfl⟩
  have hexec := exec_timer (s := s) hi
  rw [State.inPhase_eq hc] at hexec
  refine ⟨fun hne => ?_, fun hph => ?_⟩
  · rw [hexec, if_neg hne, State.given_none]
  · dsimp only at hph
    rw [if_pos hph, State.given_some hheld] at hexec
    have hv : ((s.toTick a.ends).nd n).power.ctrl = .acting a q ab := hc
    refine ⟨_, hexec, ?_⟩
    have hafter : a.afterHold = true ↔ afterHold := a.afterHold_iff
    cases ph with
    | none => cases hi
    | settle =>
      obtain ⟨hends, hgoes⟩ := (s.toTick a.ends).enterPhase_ends hv a .press y.press
      obtain ⟨hticks, hothers, hframe⟩ := hends.comesTo
      refine ⟨hticks, hothers, hframe, ?_⟩
      simp only [hph, reduceCtorEq, false_implies, true_implies, false_and, false_or, if_false, and_true, true_and]
      exact ⟨hgoes, hends.boot, hends.onceJudged id, hends.since⟩
    | awaitUp =>
      obtain ⟨hends, hlocked⟩ := State.lock_ends hv .startTimeout
      obtain ⟨hticks, hothers, hframe⟩ := hends.comesTo
      refine ⟨hticks, hothers, hframe, ?_⟩
      simp only [hph, reduceCtorEq, false_implies, true_implies, false_and, false_or, if_false, and_true, true_and]
      exact ⟨hlocked, hends.boot, hends.onceJudged id, hends.since⟩
    | cutCheck =>
      obtain ⟨hends, hlocked⟩ := State.lock_ends hv .cutIneffective
      obtain ⟨hticks, hothers, hframe⟩ := hends.comesTo
      refine ⟨hticks, hothers, hframe, ?_⟩
      simp only [hph, reduceCtorEq, false_implies, true_implies, false_and, false_or, if_false, and_true, true_and]
      exact ⟨hlocked, hends.boot, hends.onceJudged id, hends.since⟩
    | press =>
      obtain ⟨hends, haborted, hup, hdown⟩ := State.pressEnds_says hv
      obtain ⟨hticks, hothers, hframe⟩ := hends.comesTo
      refine ⟨hticks, hothers, hframe, ?_⟩
      simp only [hph, reduceCtorEq, false_implies, true_implies, false_and, true_or, if_false, and_true, true_and]
      exact ⟨hup, hdown, haborted, hends.boot, hends.onceJudged id, hends.since⟩
    | hold =>
      obtain ⟨hends, haborted, hcheck⟩ := State.holdEnds_says hv
      obtain ⟨hticks, hothers, hframe⟩ := hends.comesTo
      refine ⟨hticks, hothers, hframe, ?_⟩
      simp only [hph, reduceCtorEq, false_implies, true_implies, false_and, or_true, if_false, and_true, true_and]
      exact ⟨hcheck, haborted, hends.boot, hends.onceJudged id, hends.since⟩
    | awaitDown =>
      obtain ⟨hends, hlocked, hescalated, hfailed⟩ := State.awaitDownExpires_says hv
      obtain ⟨hticks, hothers, hframe⟩ := hends.comesTo
      refine ⟨hticks, hothers, hframe, ?_⟩
      simp only [hph, reduceCtorEq, false_implies, true_implies, false_and, false_or, if_false, true_and]
      exact ⟨fun h => hlocked (hafter.mpr h), fun h => hescalated (mt hafter.mp h), fun h => hfailed (mt hafter.mp h), hends.boot,
        hends.onceJudged id, hends.since⟩
    | dwell =>
      obtain ⟨honly, hoff, hcut, hhigh⟩ := (s.toTick a.ends).dwellExpires_says n a q ab hv
      have hends : (s.toTick a.ends).EndsQuietly ((s.toTick a.ends).dwellExpires n a) n :=
        ⟨honly, State.dwellExpires_keepsMedia hv⟩
      obtain ⟨hticks, hothers, hframe⟩ := hends.comesTo
      refine ⟨hticks, hothers, hframe, ?_⟩
      simp only [hph, reduceCtorEq, false_implies, true_implies, false_and, false_or, if_false, true_and]
      exact ⟨⟨hoff, hcut, hhigh⟩, hends.keeps.2.2, hends.onceJudged id, fun hone => (State.dwellExpires_line hv hone).before rfl⟩
    | pulse =>
      obtain ⟨hframe, hothers, hended⟩ := (s.toTick a.ends).pulseEnds_says n a q ab hv
      have hclock : ((s.toTick a.ends).pulseEnds n a).clock = (s.toTick a.ends).clock := by rw [hframe]
      have hline : s.LineFollowed ((s.toTick a.ends).pulseEnds n a) n (if a.kind = .reset then s.lineBooted n else (s.nd n).line) :=
        (State.pulseEnds_line hv).before rfl
      have hsince : (s.toTick a.ends).pulseEnds n a = { s with
          nodes := ((s.toTick a.ends).pulseEnds n a).nodes
          clock := ((s.toTick a.ends).pulseEnds n a).clock
          free := ((s.toTick a.ends).pulseEnds n a).free
          entries := ((s.toTick a.ends).pulseEnds n a).entries
          lru := ((s.toTick a.ends).pulseEnds n a).lru } := by
        rw [hclock]
        exact hframe
      refine ⟨(congrArg Clock.ticks hclock).trans (Clock.toTick_ticks _ _ _), hothers, hsince, ?_⟩
      simp only [hph, reduceCtorEq, false_implies, true_implies, false_or, true_and]
      by_cases hk : a.kind = .reset
      · obtain ⟨honce, hboot⟩ := State.pulseEnds_once (e := a.ends) (boots := a.kind = .reset) hc hk hk
        rw [if_pos hk] at hended hline ⊢
        rw [if_pos hk, if_pos hk]
        exact ⟨hended, hboot, honce, hline⟩
      · have hends := State.pulseEnds_quiet hv hk
        rw [if_neg hk] at hended hline ⊢
        rw [if_neg hk, if_neg hk]
        exact ⟨hended, hends.keeps.2.2, hends.onceJudged hk, hline⟩

end

end Sys2Proof.Machine
end


section
/-! PROOFS. PG_SENSEn: its debounce, and what an accepted level leaves of its node (O58). -/

namespace Sys2Proof.Machine

set_option Elab.async false

section
variable {s t u v w : State} {n : NodeId} {a : Action} {q : Option Queued} {ab : Bool} {x : Node} {high : Bool} {e : Nat}

/-! ### The debounce interval (R127) -/

/-- Node `n` with this level of PG_SENSEn and this debounce interval. -/
def State.sensed (s : State) (n : NodeId) (high : Bool) (d : Option Nat) : State :=
  s.setNd n { s.nd n with power := { (s.nd n).power with sense := high, debounce := d } }

theorem State.mapPower_sense (s : State) (n : NodeId) (high : Bool) :
    s.mapPower n (fun p => { p with sense := high }) = s.sensed n high (s.nd n).power.debounce := rfl

theorem State.sensed_debounce (d : Option Nat) : (s.sensed n high (s.nd n).power.debounce).mapPower n (fun p => { p with debounce := d }) =
    s.sensed n high d := by
  simp [State.sensed, State.mapPower]

/-- The level of PG_SENSEn is accepted whatever the interval was (R127). -/
theorem State.acceptPg_sensed (d : Option Nat) : (s.sensed n high d).acceptPg n = (s.sensed n high (s.nd n).power.debounce).acceptPg n := by
  have hpower (f : Power → Power) (hf : ∀ p : Power, f { p with debounce := d } = f { p with debounce := (s.nd n).power.debounce }) :
      (s.sensed n high d).mapPower n f = (s.sensed n high (s.nd n).power.debounce).mapPower n f := by
    have h := hf { (s.nd n).power with sense := high }
    simp only [State.sensed, State.mapPower, State.nd_setNd_same, State.setNd_setNd]
    rw [h]
  have hcond : (s.sensed n high d).condition n = (s.sensed n high (s.nd n).power.debounce).condition n := by
    simp [State.condition, State.sensed, Power.condition]
  have hsense (d : Option Nat) : ((s.sensed n high d).nd n).power.sense = high := by simp [State.sensed]
  have hpg (d : Option Nat) : ((s.sensed n high d).nd n).power.pg = (s.nd n).power.pg := by simp [State.sensed]
  unfold State.acceptPg
  rw [hsense, hsense, hpg, hpg]
  cases (s.nd n).power.pg with
  | settling =>
    dsimp only
    rw [State.initialPg, State.initialPg, hpower _ (fun _ => rfl), hcond]
  | low =>
    dsimp only
    rw [State.pgRise, State.pgRise, hpower _ (fun _ => rfl), hpower _ (fun _ => rfl), hcond]
  | high =>
    dsimp only
    rw [State.pgFall, State.pgFall, hpower _ (fun _ => rfl), hpower _ (fun _ => rfl), hcond]

theorem Power.unsettled_iff (p : Power) : p.unsettled = true ↔
    p.pg = .settling ∨ (p.pg = .low ∧ p.sense = true) ∨ (p.pg = .high ∧ p.sense = false) := by
  unfold Power.unsettled
  cases p.pg <;> simp

/-- An interval ends at once where the debounce time is 0. -/
theorem State.sensed_accepted (s : State) (n : NodeId) (high : Bool) (hheld : s.held = false) :
    exec (.pgAccepted n) (s.sensed n high (some s.clock.ticks)) = .next ((s.sensed n high (s.nd n).power.debounce).acceptPg n) := by
  have hd : ((s.sensed n high (some s.clock.ticks)).nd n).power.debounce = some s.clock.ticks := by simp [State.sensed]
  have hnow : (s.sensed n high (some s.clock.ticks)).toTick s.clock.ticks = _ := State.toTick_of_le le_rfl
  refine congrArg Host.Outcome.next ?_
  rw [State.given_eq (s := s.sensed n high (some s.clock.ticks)) hheld hd, ← State.acceptPg_sensed (some s.clock.ticks)]
  exact congrArg (fun u => State.acceptPg u n) hnow

/-! ### What the running action makes of a change of pg (R141) -/

theorem Node.KeepsMedia.trans {x y z : Node} (h : x.KeepsMedia y) (k : y.KeepsMedia z) : x.KeepsMedia z :=
  ⟨k.1.trans h.1, k.2.1.trans h.2.1, k.2.2.trans h.2.2⟩

theorem State.EndsQuietly.trans (h : s.EndsQuietly t n) (k : t.EndsQuietly u n) : s.EndsQuietly u n := by
  refine ⟨?_, h.keeps.trans k.keeps⟩
  rw [k.only, h.only, State.setNd_setNd, State.nd_setNd_same]

theorem State.EndsQuietly.setNd (hx : (s.nd n).KeepsMedia x) : s.EndsQuietly (s.setNd n x) n := by
  refine ⟨?_, ?_⟩
  · rw [State.nd_setNd_same]
  · rw [State.nd_setNd_same]; exact hx

theorem State.EndsFed.refl (s : State) (n : NodeId) : s.EndsFed s n :=
  ⟨⟨(s.setNd_nd n).symm, .refl _⟩, (State.SameLine.refl s n).followed⟩

theorem State.actionFall_ends (s : State) (n : NodeId) : s.EndsFed (s.actionFall n) n := by
  unfold State.actionFall
  split
  · next a q ab hc =>
    split
    · split
      · exact (State.finish_ends hc .aborted).1
      · split
        · exact (State.lock_ends hc .resetDroppedPower).1
        · split
          · exact (State.enterPhase_ends hc a .dwell (s.timings n).dwell).1
          · exact (State.finish_ends hc .done).1
    · exact .refl s n
  · exact .refl s n

theorem State.releaseFeedCut_ends (h : (s.nd n).power.feedCut = true) : s.EndsQuietly (s.releaseFeedCut n) n := by
  have heq := s.releaseFeedCut_eq n h
  dsimp only at heq
  rw [heq]
  exact .setNd ⟨rfl, rfl, rfl⟩

theorem State.releaseFeedCut_ctrl (h : (s.nd n).power.feedCut = true) :
    ((s.releaseFeedCut n).nd n).power.ctrl = (s.nd n).power.ctrl := by
  have heq := s.releaseFeedCut_eq n h
  dsimp only at heq
  rw [heq, State.nd_setNd_same]

theorem State.actionRise_ends (s : State) (n : NodeId) : s.EndsQuietly (s.actionRise n) n := by
  unfold State.actionRise
  split
  · next a q ab hc =>
    split
    · split
      · exact (State.finish_ends hc .aborted).1.toEndsQuietly
      · split
        · next hdwell =>
          have hctrl := (State.releaseFeedCut_ctrl hdwell.2).trans hc
          exact (State.releaseFeedCut_ends hdwell.2).trans (State.finish_ends hctrl .done).1.toEndsQuietly
        · exact (State.finish_ends hc .done).1.toEndsQuietly
    · exact (State.EndsFed.refl s n).toEndsQuietly
  · exact (State.EndsFed.refl s n).toEndsQuietly

/-- The Line Unit follows an action that a rise ends, where the feed moves once at most (R24, R138). -/
theorem State.actionRise_line (hone : ∀ a q ab, (s.nd n).power.ctrl = .acting a q ab → a.phase = .dwell →
    q = none ∨ (s.nd n).power.feedCut = false) : s.LineFollowed (s.actionRise n) n (s.nd n).line := by
  unfold State.actionRise
  split
  · next a q ab hc =>
    split
    · split
      · exact (State.finish_ends hc .aborted).1.line
      · split
        · next hdwell =>
          have hctrl := (State.releaseFeedCut_ctrl hdwell.2).trans hc
          have hnone : q = none := by
            refine (hone a q ab hc hdwell.1).resolve_right fun hf => ?_
            rw [hdwell.2] at hf
            cases hf
          subst hnone
          have hlast : (s.releaseFeedCut n).finish n .done = (s.releaseFeedCut n).finishLast n a .done := by
            rw [State.finish, hctrl]
          rw [hlast]
          exact (State.releaseFeedCut_line hdwell.2).then (State.finishLast_sameLine _ _ _ _)
        · exact (State.finish_ends hc .done).1.line
    · exact (State.EndsFed.refl s n).line
  · exact (State.EndsFed.refl s n).line

/-! ### The accepted level (R127, R151) -/

/-- Node `x`, of a node whose condition was `c`, after a fall of pg and before it reaches the action (R127, R154). -/
def Node.fell (mask : Half) (c : Condition) (g : Nat) (x : Node) : Node :=
  { x.accepted false with
    hist := x.hist.record mask x.power.boot .pgDown 0
    live := x.live.followed c (x.accepted false).power.condition g }

/-- Node `x` after a rise of pg and before its boot event (R127). -/
def Node.rose (mask : Half) (x : Node) : Node :=
  { x.accepted true with hist := x.hist.record mask x.power.boot .pgUp 0 }

/-- Node `x`, of a node whose condition was `c`, after the first acceptance of a level (R151, R154). -/
def Node.firstAccepted (mask : Half) (c : Condition) (g : Nat) (high : Bool) (x : Node) : Node :=
  { x.accepted high with
    hist := if high then x.hist.record mask x.power.boot .pgUp 0 else x.hist
    live := x.live.followed c (x.accepted high).power.condition g }

theorem State.acceptPg_first (hpg : (s.nd n).power.pg = .settling) : s.acceptPg n = s.setNd n
    ((s.nd n).firstAccepted (s.set n).delivery.mask (s.condition n) (s.graceFrom n) (s.nd n).power.sense) := by
  rw [State.acceptPg, hpg]
  exact s.initialPg_says n _

theorem State.acceptPg_fall (hpg : (s.nd n).power.pg = .high) (hs : (s.nd n).power.sense = false) : s.acceptPg n =
    (s.setNd n ((s.nd n).fell (s.set n).delivery.mask (s.condition n) (s.graceFrom n))).actionFall n := by
  rw [State.acceptPg, hpg, hs]
  exact s.pgFall_says n

theorem State.acceptPg_rise (hpg : (s.nd n).power.pg = .low) (hs : (s.nd n).power.sense = true) : s.acceptPg n =
    ((s.setNd n ((s.nd n).rose (s.set n).delivery.mask)).bootEvent n).actionRise n := by
  rw [State.acceptPg, hpg, hs]
  exact s.pgRise_says n hpg

theorem State.acceptPg_same (hpg : (s.nd n).power.pg = if (s.nd n).power.sense then .high else .low) :
    s.acceptPg n = s.setNd n { s.nd n with power := { (s.nd n).power with debounce := none } } := by
  rw [State.acceptPg, hpg]
  cases hs : (s.nd n).power.sense <;> rfl

theorem exec_pgAccepted (hheld : s.held = false) (hd : (s.nd n).power.debounce = some e) :
    exec (.pgAccepted n) s = .next ((s.toTick e).acceptPg n) :=
  congrArg Host.Outcome.next (State.given_eq hheld hd _)

/-- What the end of the debounce interval leaves of the part around the node (R127). -/
structure State.AcceptsInto (s t : State) (n : NodeId) (e : Nat) (boots : Prop) (l : Line) : Prop extends s.ComesTo t n e where
  once : s.OnceJudged t n boots
  line : (∀ a q ab, (s.nd n).power.ctrl = .acting a q ab → a.phase = .dwell → q = none ∨ (s.nd n).power.feedCut = false) →
    s.LineFollowed t n l

theorem State.EndsQuietly.acceptsInto {boots : Prop} (h : (s.toTick e).EndsQuietly t n) (hb : ¬boots)
    (hline : s.LineFollowed t n (s.nd n).line) : s.AcceptsInto t n e boots (s.nd n).line :=
  ⟨h.comesTo, h.onceJudged hb, fun _ => hline⟩

theorem State.setNd_acceptsInto {boots : Prop} (hx : (s.nd n).KeepsMedia x) (hl : x.line = (s.nd n).line)
    (hf : x.power.feedCut = (s.nd n).power.feedCut) (hb : ¬boots) :
    s.AcceptsInto ((s.toTick e).setNd n x) n e boots (s.nd n).line :=
  State.EndsQuietly.acceptsInto (.setNd hx) hb (.stays (by rw [State.nd_setNd_same, hl]) (by rw [State.nd_setNd_same, hf]))

theorem State.fall_acceptsInto {boots : Prop} (hx : (s.nd n).KeepsMedia x) (hl : x.line = (s.nd n).line)
    (hf : x.power.feedCut = (s.nd n).power.feedCut) (hb : ¬boots) :
    s.AcceptsInto (((s.toTick e).setNd n x).actionFall n) n e boots (s.nd n).line := by
  have hends := ((s.toTick e).setNd n x).actionFall_ends n
  have hline := hends.line
  rw [State.nd_setNd_same, hl] at hline
  refine State.EndsQuietly.acceptsInto (State.EndsQuietly.trans (.setNd hx) hends.toEndsQuietly) hb (hline.before ?_)
  rw [State.nd_setNd_same, hf]

/-- What a rise of pg leaves around the node (R18, R85, R129). -/
theorem State.rise_acceptsInto {boots : Prop} (hx : (s.nd n).KeepsMedia x) (hl : x.line = (s.nd n).line)
    (hf : x.power.feedCut = (s.nd n).power.feedCut) (hc : x.power.ctrl = (s.nd n).power.ctrl) (hb : boots) :
    s.AcceptsInto ((((s.toTick e).setNd n x).bootEvent n).actionRise n) n e boots (s.lineBooted n) := by
  obtain ⟨u, hu⟩ : ∃ u, u = (s.toTick e).setNd n x := ⟨_, rfl⟩
  have hnd : u.nd n = x := by rw [hu, State.nd_setNd_same]
  have hfrom := u.bootEvent_from n
  obtain ⟨l, m, k, f, es, z, heq⟩ := u.bootEvent_eq n
  have hwnd : (u.bootEvent n).nd n = _ := (congrArg (fun v => State.nd v n) heq).trans (State.nd_setNd_same u n _)
  have hends := (u.bootEvent n).actionRise_ends n
  have hclock : ((u.bootEvent n).actionRise n).clock = (s.toTick e).clock := by
    rw [hends.only]
    exact hfrom.clock.trans (by rw [hu]; rfl)
  have hfeed : ((u.bootEvent n).nd n).power.feedCut = (s.nd n).power.feedCut := by rw [hfrom.feedCut, hnd, hf]
  have hctrl : ((u.bootEvent n).nd n).power.ctrl = (s.nd n).power.ctrl := by
    rw [hwnd]
    show (u.nd n).power.ctrl = _
    rw [hnd, hc]
  have hline : ((u.bootEvent n).nd n).line = s.lineBooted n := by
    rw [hfrom.line, State.lineBooted, State.lineBooted, hnd, hl, hu]
    rfl
  rw [← hu]
  refine ⟨⟨?_, fun j hj => ?_, ?_⟩, ?_, fun hone => ?_⟩
  · rw [hclock]
    exact Clock.toTick_ticks _ _ _
  · rw [hends.only, State.nd_setNd_ne _ _ hj, heq]
    refine (State.nd_setNd_ne (s := u) _ hj).trans ?_
    rw [hu, State.nd_setNd_ne _ _ hj]
    rfl
  · rw [hends.only, heq, hu]
    rfl
  · refine State.bootEvent_onceJudged (u := u) ?_ ?_ (State.view_of_keepsMedia hends.only hends.keeps) hb
    · obtain ⟨hm, hk, -⟩ := hx
      rw [State.view_eq_iff, hnd, hm, hk, hu]
      exact ⟨rfl, rfl, rfl, rfl, rfl⟩
    · rw [hnd, hx.2.2]
  · rw [← hline]
    refine State.LineFollowed.before (State.actionRise_line fun a q ab ha hdwell => ?_) hfeed
    rw [hfeed]
    exact hone a q ab (hctrl ▸ ha) hdwell

/-- A node as its boot event leaves it, with the line and the media side that it has come to. -/
def State.riseNode (t : State) (n : NodeId) (mask : Half) (x : Node) : Node :=
  { (x.rose mask).booted mask (t.graceFrom n) with line := (t.nd n).line, media := (t.nd n).media, cache := (t.nd n).cache }

/-- What a rise of pg leaves of the node (R127, R129, R141). -/
theorem State.acceptPg_rise_says (hpg : (s.nd n).power.pg = .low) (hs : (s.nd n).power.sense = true) :
    let t := s.acceptPg n
    let rose := t.riseNode n (s.set n).delivery.mask (s.nd n)
    ((∀ a q ab, (s.nd n).power.ctrl ≠ .acting a q ab) → t.nd n = rose) ∧
    ∀ a q ab, (s.nd n).power.ctrl = .acting a q ab →
      let upEnds := a.phase = .settle ∨ a.phase = .awaitUp ∨ a.phase = .dwell ∨ (a.phase = .press ∧ a.onPart = true)
      let fed : Node := { rose with
        power := { rose.power with feedCut := false }, live := rose.live.followed .cut .on (t.graceFrom n) }
      (¬upEnds → t.nd n = rose) ∧ (upEnds → ab = true → t.ActionEnded n rose a q .aborted) ∧
      (upEnds → ab = false →
        t.ActionEnded n (if a.phase = .dwell ∧ (s.nd n).power.feedCut = true then fed else rose) a q .done) := by
  obtain ⟨u, hu⟩ : ∃ u, u = s.setNd n ((s.nd n).rose (s.set n).delivery.mask) := ⟨_, rfl⟩
  have hnd : u.nd n = (s.nd n).rose (s.set n).delivery.mask := by rw [hu, State.nd_setNd_same]
  obtain ⟨l, m, k, f, es, z, heq⟩ := u.bootEvent_eq n
  obtain ⟨w, hw⟩ : ∃ w, w = u.bootEvent n := ⟨_, rfl⟩
  have hwnd : w.nd n = { (u.nd n).booted (u.set n).delivery.mask (u.graceFrom n) with line := l, media := m, cache := k } := by
    rw [hw]
    exact (congrArg (fun v => State.nd v n) heq).trans (State.nd_setNd_same u n _)
  rw [State.acceptPg_rise hpg hs, ← hu, ← hw]
  intro t rose
  have hends := w.actionRise_ends n
  obtain ⟨-, hidle, hacting⟩ := w.actionRise_says n
  have hgrace : t.graceFrom n = u.graceFrom n := by
    have hclock : t.clock = u.clock ∧ t.cfg = u.cfg := by
      show (w.actionRise n).clock = _ ∧ (w.actionRise n).cfg = _
      rw [hends.only, hw, heq]
      exact ⟨rfl, rfl⟩
    rw [State.graceFrom, State.graceFrom, State.set, State.set, hclock.1, hclock.2]
  have hset : u.set n = s.set n := by rw [hu]; rfl
  obtain ⟨hmedia, hcache, -⟩ := hends.keeps
  have hrose : { w.nd n with line := (t.nd n).line } = rose := by
    show _ = t.riseNode n (s.set n).delivery.mask (s.nd n)
    rw [State.riseNode, hgrace, show (t.nd n).media = (w.nd n).media from hmedia, show (t.nd n).cache = (w.nd n).cache from hcache,
      hwnd, hnd, hset]
  have hrises (h : t.nd n = w.nd n) : t.nd n = rose := by
    rw [← hrose, ← h]
  have hctrl : (w.nd n).power.ctrl = (s.nd n).power.ctrl := by
    rw [hwnd, hnd]
    rfl
  have hfeed : (w.nd n).power.feedCut = (s.nd n).power.feedCut := by
    rw [hwnd, hnd]
    rfl
  have hhigh : (w.nd n).power.pg = .high := by
    rw [hwnd, hnd]
    rfl
  refine ⟨fun hno => hrises (hidle (by rw [hctrl]; exact hno)), fun a q ab hc => ?_⟩
  obtain ⟨hruns, haborted, hdone⟩ := hacting a q ab (hctrl.trans hc) hhigh
  refine ⟨fun h => hrises (hruns h), fun h hab => ?_, fun h hab => ?_⟩
  · rw [← hrose]
    exact (haborted h hab).line
  · have hend := hdone h hab
    rw [hfeed] at hend
    rw [← hrose]
    by_cases hdwell : a.phase = .dwell ∧ (s.nd n).power.feedCut = true
    · rw [if_pos hdwell] at hend ⊢
      exact hend
    · rw [if_neg hdwell] at hend ⊢
      exact hend

/-- What a fall of pg leaves of the node (R127, R141). -/
theorem State.acceptPg_fall_says (hpg : (s.nd n).power.pg = .high) (hs : (s.nd n).power.sense = false) :
    let t := s.acceptPg n
    let fell := (s.nd n).fell (s.set n).delivery.mask (s.condition n) (t.graceFrom n)
    ((∀ a q ab, (s.nd n).power.ctrl ≠ .acting a q ab) → t.nd n = fell) ∧
    ∀ a q ab, (s.nd n).power.ctrl = .acting a q ab →
      let downEnds := (a.phase = .press ∧ a.onPart = false) ∨ a.phase = .awaitDown ∨ a.phase = .hold ∨
        a.phase = .cutCheck ∨ (a.phase = .pulse ∧ a.kind = .reset)
      (¬downEnds → t.nd n = fell) ∧ (downEnds → ab = true → t.ActionEnded n fell a q .aborted) ∧
      (downEnds → ab = false → a.kind = .reset → t.ActionLocked n fell a q .resetDroppedPower) ∧
      (downEnds → ab = false → a.kind = .cycle → t.GoesOn n fell a q ab .dwell (s.set n).timings.dwell) ∧
      (downEnds → ab = false → a.kind ≠ .reset → a.kind ≠ .cycle → t.ActionEnded n fell a q .done) := by
  obtain ⟨u, hu⟩ : ∃ u, u = s.setNd n ((s.nd n).fell (s.set n).delivery.mask (s.condition n) (s.graceFrom n)) := ⟨_, rfl⟩
  have hnd : u.nd n = (s.nd n).fell (s.set n).delivery.mask (s.condition n) (s.graceFrom n) := by rw [hu, State.nd_setNd_same]
  obtain ⟨honly, hidle, hacting⟩ := u.actionFall_says n
  have hgrace : (u.actionFall n).graceFrom n = s.graceFrom n := by
    rw [honly, State.graceFrom_setNd, hu, State.graceFrom_setNd]
  have hset : u.set n = s.set n := by rw [hu]; rfl
  rw [State.acceptPg_fall hpg hs, ← hu]
  dsimp only
  rw [hgrace, ← hnd]
  rw [hset] at hacting
  have hctrl : (u.nd n).power.ctrl = (s.nd n).power.ctrl := by rw [hnd]; rfl
  rw [hctrl] at hidle hacting
  exact ⟨hidle, hacting⟩

/-- A level accepted that is neither a rise nor a fall (R127, R151). -/
theorem State.acceptPg_quiet (hr : ¬((s.nd n).power.sense = true ∧ (s.nd n).power.pg = .low))
    (hf : ¬((s.nd n).power.sense = false ∧ (s.nd n).power.pg = .high)) :
    ∃ y, s.acceptPg n = s.setNd n y ∧ (s.nd n).KeepsMedia y ∧ y.line = (s.nd n).line ∧
      y.power.feedCut = (s.nd n).power.feedCut ∧
      ((s.nd n).power.pg = .settling → y = (s.nd n).firstAccepted (s.set n).delivery.mask (s.condition n) (s.graceFrom n)
        (s.nd n).power.sense) ∧
      ((s.nd n).power.pg ≠ .settling → y = { s.nd n with power := { (s.nd n).power with debounce := none } }) := by
  by_cases hpg : (s.nd n).power.pg = .settling
  · exact ⟨_, State.acceptPg_first hpg, ⟨rfl, rfl, rfl⟩, rfl, rfl, fun _ => rfl, fun h => absurd hpg h⟩
  · have hsame : (s.nd n).power.pg = if (s.nd n).power.sense then .high else .low := by
      cases hlevel : (s.nd n).power.pg <;> cases hsense : (s.nd n).power.sense <;> simp_all
    exact ⟨_, State.acceptPg_same hsame, ⟨rfl, rfl, rfl⟩, rfl, rfl, fun h => absurd h hpg, fun _ => rfl⟩

/-- Settles O58: the debounce interval, then the accepted level by the level before it. -/
theorem powerGoodIsAccepted : Obligations.PowerGoodIsAccepted := by
  refine ⟨fun s n high h => congrArg Host.Outcome.next (if_pos h), fun s n high hne => ?_, fun s n h => ?_, ?_⟩
  · intro p u differs
    have hexec : exec (.pgSenseChange n high) s = .next (s.senseChange n high) := congrArg Host.Outcome.next (if_neg hne)
    have hunsettled : ((s.sensed n high p.debounce).nd n).power.unsettled = true ↔ differs := by
      rw [Power.unsettled_iff, State.sensed, State.nd_setNd_same]
    refine ⟨fun hheld => ?_, fun hheld hsame => ?_, fun hheld hdiff hd => ?_, fun hheld hdiff hd => ?_⟩
    · rw [hexec, State.senseChange, State.mapPower_sense, if_pos hheld]
      rfl
    · rw [hexec, State.senseChange, State.mapPower_sense, if_neg (by rw [hheld]; exact Bool.false_ne_true), State.debouncePg,
        if_neg (mt hunsettled.mp hsame), State.sensed_debounce]
      rfl
    · rw [hexec, State.senseChange, State.mapPower_sense, if_neg (by rw [hheld]; exact Bool.false_ne_true), State.debouncePg,
        if_pos (hunsettled.mpr hdiff),
        if_neg (show ¬((s.sensed n high (s.nd n).power.debounce).timings n).debounce = 0 from hd), State.sensed_debounce]
      rfl
    · rw [hexec, State.senseChange, State.mapPower_sense, if_neg (by rw [hheld]; exact Bool.false_ne_true), State.debouncePg,
        if_pos (hunsettled.mpr hdiff),
        if_pos (show ((s.sensed n high (s.nd n).power.debounce).timings n).debounce = 0 from hd)]
      exact (s.sensed_accepted n high hheld).symm
  · exact congrArg Host.Outcome.next (State.given_of_none h _)
  · intro s n e hheld hd x p mask rises falls
    refine ⟨_, exec_pgAccepted hheld hd, ?_⟩
    by_cases hr : rises
    · have hsettled : p.pg ≠ .settling := fun h => nomatch hr.2.symm.trans h
      have hf : ¬falls := fun h => nomatch hr.2.symm.trans h.2
      have haccepts : s.AcceptsInto ((s.toTick e).acceptPg n) n e rises (s.lineBooted n) := by
        rw [State.acceptPg_rise (s := s.toTick e) hr.2 hr.1]
        exact State.rise_acceptsInto ⟨rfl, rfl, rfl⟩ rfl rfl rfl hr
      have hsays := State.acceptPg_rise_says (s := s.toTick e) hr.2 hr.1
      dsimp only at hsays
      obtain ⟨hidle, hacting⟩ := hsays
      obtain ⟨⟨hticks, hothers, hframe⟩, honce, hline⟩ := haccepts
      refine ⟨hticks, hothers, hframe, honce, by rw [if_pos hr]; exact hline, fun h => absurd h hsettled,
        fun _ h => absurd hr h, fun hno => ⟨fun _ => ?_, fun h => absurd h hf⟩, fun a q ab hc => ?_⟩
      · rw [show p.sense = true from hr.1]
        exact hidle hno
      · obtain ⟨hruns, haborted, hdone⟩ := hacting a q ab hc
        rw [show p.sense = true from hr.1]
        exact ⟨fun _ => hruns, fun h => absurd h hf, fun _ => haborted, fun _ => hdone, fun h => absurd h hf,
          fun h => absurd h hf, fun h => absurd h hf, fun h => absurd h hf⟩
    · by_cases hf : falls
      · have hsettled : p.pg ≠ .settling := fun h => nomatch hf.2.symm.trans h
        have hfall := State.acceptPg_fall (s := s.toTick e) hf.2 hf.1
        have haccepts : s.AcceptsInto ((s.toTick e).acceptPg n) n e rises x.line := by
          rw [hfall]
          exact State.fall_acceptsInto ⟨rfl, rfl, rfl⟩ rfl rfl hr
        have hsays := State.acceptPg_fall_says (s := s.toTick e) (n := n) hf.2 hf.1
        dsimp only at hsays
        obtain ⟨hidle, hacting⟩ := hsays
        obtain ⟨⟨hticks, hothers, hframe⟩, honce, hline⟩ := haccepts
        refine ⟨hticks, hothers, hframe, honce, by rw [if_neg hr]; exact hline, fun h => absurd h hsettled,
          fun _ _ h => absurd hf h, fun hno => ⟨fun h => absurd h hr, fun _ => ?_⟩, fun a q ab hc => ?_⟩
        · rw [show p.sense = false from hf.1]
          exact hidle hno
        · obtain ⟨hruns, haborted, hlocked, hdwell, hdone⟩ := hacting a q ab hc
          rw [show p.sense = false from hf.1]
          exact ⟨fun h => absurd h hr, fun _ => hruns, fun h => absurd h hr, fun h => absurd h hr, fun _ => haborted,
            fun _ => hlocked, fun _ => hdwell, fun _ => hdone⟩
      · obtain ⟨y, hy, hkeeps, hl, hfeed, hfirst, hsame⟩ := State.acceptPg_quiet (s := s.toTick e) (n := n) hr hf
        have haccepts : s.AcceptsInto ((s.toTick e).acceptPg n) n e rises x.line := by
          rw [hy]
          exact State.setNd_acceptsInto hkeeps hl hfeed hr
        obtain ⟨⟨hticks, hothers, hframe⟩, honce, hline⟩ := haccepts
        refine ⟨hticks, hothers, hframe, honce, by rw [if_neg hr]; exact hline, fun h => ?_, fun h _ _ => ?_,
          fun _ => ⟨fun h => absurd h hr, fun h => absurd h hf⟩, fun a q ab _ => ⟨fun h => absurd h hr, fun h => absurd h hf,
            fun h => absurd h hr, fun h => absurd h hr, fun h => absurd h hf, fun h => absurd h hf, fun h => absurd h hf,
            fun h => absurd h hf⟩⟩
        · rw [hy, State.nd_setNd_same, hfirst h]
          rfl
        · rw [hy, State.nd_setNd_same, hsame h]
          rfl

end

end Sys2Proof.Machine
end


section
/-! PROOFS. MED_DETACH: what draining and discarding leave of the entries, the lists and the pool (O44). -/

namespace Sys2Proof.Machine

set_option Elab.async false

section
variable {s t u : State} {n m : NodeId} {v w : MediaView} {ps qs : List Nat} {e : Entry} {x : Medium}

/-! ### The lists of a lawful cache -/

/-- A page of a node's list is that of an entry of the node in the state that the list is for. -/
theorem State.Lists.entry {f : EntryState → Bool} {l : List Nat} {p : Nat} (h : s.Lists n f l) (hp : p ∈ l) :
    ∃ e ∈ s.entries, e.page = p ∧ e.node = n ∧ f e.state = true := (h.2 p).mp hp

/-- Taking out pages of entries that a list is not for leaves the list. -/
theorem State.Lists.filter_pages {f : EntryState → Bool} {l : List Nat} (h : s.Lists n f l) (hpages : s.entryPages.Nodup)
    {g : Entry → Bool} (hg : ∀ e ∈ s.entries, g e = true → e.node = n → f e.state = false) :
    l.filter (fun q => !((s.view n).pagesOf g).contains q) = l := by
  refine List.filter_eq_self.mpr fun p hp => ?_
  obtain ⟨e, he, rfl, hn, hf⟩ := h.entry hp
  rw [Bool.not_eq_true', ← Bool.not_eq_true, List.contains_iff_mem, MediaView.pagesOf, List.mem_map]
  rintro ⟨k, hk, hpage⟩
  obtain ⟨hk, haccept⟩ := List.mem_filter.mp hk
  rw [State.entry_eq_of_page hpages hk he hpage] at haccept
  rw [hg e he haccept hn] at hf
  cases hf

/-- Taking out the pages of all the entries that a list may hold empties it. -/
theorem State.Lists.filter_all {f : EntryState → Bool} {l : List Nat} (h : s.Lists n f l) {g : Entry → Bool}
    (hg : ∀ e ∈ s.entries, e.node = n → f e.state = true → g e = true) :
    l.filter (fun q => !((s.view n).pagesOf g).contains q) = [] := by
  refine List.filter_eq_nil_iff.mpr fun p hp => ?_
  obtain ⟨e, he, rfl, hn, hf⟩ := h.entry hp
  rw [Bool.not_eq_true', Bool.not_eq_false, List.contains_iff_mem, MediaView.pagesOf, List.mem_map]
  exact ⟨e, List.mem_filter.mpr ⟨he, hg e he hn hf⟩, rfl⟩

theorem State.CacheLaw.lru_filter (h : s.CacheLaw) {g : Entry → Bool} (hg : ∀ e ∈ s.entries, g e = true → e.state ≠ .valid) :
    s.lru.filter (fun q => !((s.view n).pagesOf g).contains q) = s.lru := by
  obtain ⟨hpages, -, -, hlru, -⟩ := h
  refine List.filter_eq_self.mpr fun p hp => ?_
  obtain ⟨e, he, rfl, hvalid⟩ := (hlru p).mp hp
  rw [Bool.not_eq_true', ← Bool.not_eq_true, List.contains_iff_mem, MediaView.pagesOf, List.mem_map]
  rintro ⟨k, hk, hpage⟩
  obtain ⟨hk, haccept⟩ := List.mem_filter.mp hk
  rw [State.entry_eq_of_page hpages hk he hpage] at haccept
  exact hg e he haccept hvalid

/-! ### What is freed, by its pages alone -/

theorem MediaView.freed_congr (h : ∀ q, q ∈ ps ↔ q ∈ qs) (v : MediaView) :
    v.freed ps = { v.freed qs with free := ps.foldl (fun f p => insertPage p f) v.free } := by
  have hcontains (q : Nat) : ps.contains q = qs.contains q := by
    rw [Bool.eq_iff_iff, List.contains_iff_mem, List.contains_iff_mem, h]
  simp only [MediaView.freed, NodeCache.dropped, hcontains]

theorem MediaView.freed_free_perm (ps : List Nat) (v : MediaView) : (v.freed ps).free.Perm (v.free ++ ps) := insertPages_perm ps v.free

/-! ### Leaving READY, and the lists after it -/

/-- The record with its current command ended NOT_READY (R79). -/
def Media.stopped (m : Media) : Media :=
  if m.current.isSome then
    { m with current := none, received := none, last := .notReady, out := { status := some .notReady, data := .nothing } }
  else m

theorem Media.stopped_slot (m : Media) : m.stopped.slot = m.slot := by unfold Media.stopped; split <;> rfl
theorem Media.stopped_continuation (m : Media) : m.stopped.continuation = m.continuation := by unfold Media.stopped; split <;> rfl
theorem Media.stopped_statePending (m : Media) : m.stopped.statePending = m.statePending := by unfold Media.stopped; split <;> rfl
theorem Media.stopped_current (m : Media) : m.stopped.current = none := by
  unfold Media.stopped
  split
  · rfl
  · next h => simpa using h
theorem Media.stopped_received (m : Media) : m.stopped.received = if m.current.isSome then none else m.received := by
  unfold Media.stopped; split <;> rfl
theorem Media.stopped_last (m : Media) : m.stopped.last = if m.current.isSome then .notReady else m.last := by
  unfold Media.stopped; split <;> rfl

theorem Media.left_eq (st : SlotState) (m : Media) :
    m.left st = ({ m with slot := m.slot.map (fun x => { x with state := st }), statePending := true } : Media).stopped := rfl

theorem State.leaveReady_eq (s : State) (n : NodeId) :
    s.leaveReady n = s.withView n { s.view n with media := (s.nd n).media.stopped } := by
  unfold State.leaveReady Media.stopped
  split
  · exact State.mapMedia_eq_withView _
  · exact (s.withView_view n).symm

/-- The discard of the node's entries (R83). -/
theorem State.discard_eq (s : State) (n : NodeId) :
    s.discard n = s.withView n (({ s.view n with media := (s.nd n).media.stopped } : MediaView).vacated n) := by
  rw [State.discard, State.vacated_eq, State.leaveReady_eq, State.view_withView, State.withView_withView]

/-! ### The node's entries -/

/-- The node's FILLING entries freed, of a lawful cache: the lists of the others stay (R81, R101). -/
theorem State.CacheLaw.unfilled (h : s.CacheLaw) (n : NodeId) : (s.view n).unfilled n =
    { s.view n with
      cache := { (s.nd n).cache with fetches := [] }
      free := ((s.view n).unfilled n).free
      entries := s.entries.filter (fun e => !(e.node == n && e.state.isFilling)) } := by
  obtain ⟨hpages, -, -, -, hnodes⟩ := id h
  obtain ⟨hfetches, hqueue, hout, -⟩ := hnodes n
  have hfill {e : Entry} (hg : (e.node == n && e.state.isFilling) = true) : e.state.isFilling = true :=
    (Bool.and_eq_true_iff.mp hg).2
  have hf := hfetches.filter_all (g := fun e => e.node == n && e.state.isFilling) fun e _ hn hst => by
    simp only [beq_iff_eq] at hst
    simp [hn, hst, EntryState.isFilling]
  have hq := hqueue.filter_pages hpages (g := fun e => e.node == n && e.state.isFilling) fun e _ hg _ => by
    have := hfill hg
    cases hst : e.state <;> simp_all [EntryState.isFilling, EntryState.isDirty]
  have ho := hout.filter_pages hpages (g := fun e => e.node == n && e.state.isFilling) fun e _ hg _ => by
    have := hfill hg
    cases hst : e.state <;> simp_all [EntryState.isFilling, EntryState.isFlushing]
  have hl := h.lru_filter (n := n) (g := fun e => e.node == n && e.state.isFilling) fun e _ hg hvalid => by
    have := hfill hg
    rw [hvalid] at this
    cases this
  have hentries := MediaView.unfilled_entries (h.listed n)
  rw [MediaView.unfilled] at hentries
  simp only [MediaView.unfilled, MediaView.freed, NodeCache.dropped] at hentries ⊢
  rw [hentries]
  simp only [State.view] at hf hq ho hl ⊢
  rw [hf, hq, ho, hl]

/-- The pages of the node's entries. -/
def State.minePages (s : State) (n : NodeId) : List Nat := (s.entries.filter (fun e => e.node == n)).map Entry.page

/-- The cache of a node without entries. -/
theorem State.CacheLaw.dropped_mine (h : s.CacheLaw) (n : NodeId) :
    (s.nd n).cache.dropped (s.minePages n) = { (s.nd n).cache with fetches := [], queue := [], outstanding := [] } := by
  obtain ⟨-, -, -, -, hnodes⟩ := h
  obtain ⟨hfetches, hqueue, hout, -⟩ := hnodes n
  have hf := hfetches.filter_all (g := fun e => e.node == n) fun e _ hn _ => beq_iff_eq.mpr hn
  have hq := hqueue.filter_all (g := fun e => e.node == n) fun e _ hn _ => beq_iff_eq.mpr hn
  have ho := hout.filter_all (g := fun e => e.node == n) fun e _ hn _ => beq_iff_eq.mpr hn
  have hpages : s.minePages n = (s.view n).pagesOf (fun e => e.node == n) := rfl
  rw [NodeCache.dropped, hpages, hf, hq, ho]

/-- A node left without entries: what its media side holds then (R82, R83, R86). -/
structure State.VacatedTo (s : State) (n : NodeId) (v : MediaView) : Prop where
  slot : v.media.slot = none
  continuation : v.media.continuation = none
  statePending : v.media.statePending = true
  cache : v.cache = { (s.nd n).cache with fetches := [], queue := [], outstanding := [] }
  entries : v.entries = s.entries.filter (fun e => e.node != n)
  lru : v.lru = s.lru.filter (fun q => !(s.minePages n).contains q)
  free : v.free.Perm (s.free ++ s.minePages n)

theorem State.CacheLaw.vacatedTo_freed (h : s.CacheLaw) (hp : ps.Perm (s.minePages n)) {y : Media} :
    s.VacatedTo n { (s.view n).freed ps with media := y.emptied } := by
  have hentries := MediaView.filter_pagesOf (v := s.view n) h.1 (fun e => e.node == n)
  rw [MediaView.freed_congr (fun q => hp.mem_iff)]
  refine ⟨rfl, rfl, rfl, h.dropped_mine n, hentries, rfl, ?_⟩
  exact (insertPages_perm ps s.free).trans (hp.append_left s.free)

theorem State.CacheLaw.vacated (h : s.CacheLaw) (y : Media) :
    s.VacatedTo n (({ s.view n with media := y } : MediaView).vacated n) :=
  h.vacatedTo_freed (y := y) (List.Perm.refl _)

theorem filter_filter_perm {α : Type} (f g : α → Bool) (l : List α) (hfg : ∀ x ∈ l, f x = true → g x = true) :
    (l.filter f ++ (l.filter (fun x => !f x)).filter g).Perm (l.filter g) := by
  have hpart := List.filter_append_perm f (l.filter g)
  rw [List.filter_filter, List.filter_filter] at hpart
  rw [List.filter_filter]
  refine List.Perm.trans (List.Perm.of_eq ?_) hpart
  congr 1
  · exact List.filter_congr fun x hx => by
      cases hf : f x with
      | false => rfl
      | true => rw [hfg x hx hf]; rfl
  · exact List.filter_congr fun x _ => Bool.and_comm _ _

/-- A drain with nothing to be stored leaves the node without entries (R82). -/
theorem State.CacheLaw.drained_vacated (h : s.CacheLaw) (hu : s.unstoredCount n = 0) (x : Medium) :
    s.VacatedTo n ((s.view n).drained n x) := by
  obtain ⟨v, hv⟩ : ∃ v, v = ({ s.view n with media := (s.nd n).media.left .withdrawing } : MediaView) := ⟨_, rfl⟩
  have hlisted := (h.listed n).withMedia ((s.nd n).media.left .withdrawing)
  have hout : (s.nd n).cache.outstanding = [] := by
    refine List.eq_nil_iff_forall_not_mem.mpr fun p hp => ?_
    obtain ⟨e, he, -, hn, hflush⟩ := ((h.2.2.2.2 n).2.2.1).entry hp
    have hnone := List.countP_eq_zero.mp hu e he
    simp [hn, EntryState.isUnstored_of_isFlushing hflush] at hnone
  have hreturned : (v.unfilled n).returned = v.unfilled n := by
    have hnil : (v.unfilled n).cache.outstanding = [] := by
      rw [MediaView.unfilled_outstanding, hv]
      exact (congrArg (List.filter _) hout).trans rfl
    simp [MediaView.returned, hnil]
    rw [← hnil]
  have hdraining : (s.view n).draining n x = v.unfilled n := by
    rw [MediaView.draining_eq]
    show (if x.state = .faulted then (({ s.view n with media := (s.nd n).media.left .withdrawing } : MediaView).unfilled n).returned
      else ({ s.view n with media := (s.nd n).media.left .withdrawing } : MediaView).unfilled n) = _
    rw [← hv, hreturned, ite_self]
  have hzero : ((s.view n).draining n x).unstored n = 0 := (MediaView.draining_unstored (h.listed n) x).trans hu
  rw [MediaView.drained, if_pos hzero, hdraining, MediaView.vacated, MediaView.unfilled, MediaView.freed_freed]
  have hrest : (v.freed (v.pagesOf (fun e => e.node == n && e.state.isFilling))).pagesOf (fun e => e.node == n) =
      ((s.entries.filter (fun e => !(e.node == n && e.state.isFilling))).filter (fun e => e.node == n)).map Entry.page := by
    have hentries := MediaView.unfilled_entries hlisted
    rw [← hv] at hentries
    exact congrArg (fun es : List Entry => (es.filter (fun e => e.node == n)).map Entry.page) (hentries.trans (by rw [hv]))
  have hperm : (v.pagesOf (fun e => e.node == n && e.state.isFilling) ++
      (v.freed (v.pagesOf (fun e => e.node == n && e.state.isFilling))).pagesOf (fun e => e.node == n)).Perm (s.minePages n) := by
    rw [hrest, hv]
    refine List.Perm.trans (List.Perm.of_eq (List.map_append).symm)
      ((filter_filter_perm (fun e => e.node == n && e.state.isFilling) (fun e => e.node == n) s.entries ?_).map Entry.page)
    exact fun e _ hf => (Bool.and_eq_true_iff.mp hf).1
  have hvac := h.vacatedTo_freed hperm (y := (s.nd n).media.left .withdrawing)
  rw [hv] at hvac ⊢
  exact hvac

/-- An entry of a FAULTED slot's drain: a FLUSHING one is DIRTY again (R81, R118). -/
def Entry.resent (x : Medium) (n : NodeId) (e : Entry) : Entry :=
  if x.state = .faulted ∧ e.node = n ∧ e.state.isFlushing = true then { e with state := .dirty } else e

theorem Entry.resent_node (x : Medium) (n : NodeId) (e : Entry) : (e.resent x n).node = e.node := by
  unfold Entry.resent; split <;> rfl

theorem Entry.resent_of_ne (h : e.node ≠ n) : e.resent x n = e := if_neg fun hc => h hc.2.1

/-- A drain up to its end test (R81). -/
theorem State.CacheLaw.draining (h : s.CacheLaw) (x : Medium) : (s.view n).draining n x =
    { media := (s.nd n).media.left .withdrawing
      cache := { (s.nd n).cache with
        fetches := []
        queue := if x.state = .faulted then (s.nd n).cache.outstanding ++ (s.nd n).cache.queue else (s.nd n).cache.queue
        outstanding := if x.state = .faulted then [] else (s.nd n).cache.outstanding }
      free := ((s.view n).unfilled n).free
      entries := (s.entries.filter (fun e => !(e.node == n && e.state.isFilling))).map (Entry.resent x n)
      lru := s.lru } := by
  have hunfilled := h.unfilled n
  have hmedia : ({ s.view n with media := (s.nd n).media.left .withdrawing } : MediaView).unfilled n =
      { (s.view n).unfilled n with media := (s.nd n).media.left .withdrawing } := rfl
  have hdrain : (s.view n).draining n x = if x.state = .faulted
      then ({ (s.view n).unfilled n with media := (s.nd n).media.left .withdrawing } : MediaView).returned
      else { (s.view n).unfilled n with media := (s.nd n).media.left .withdrawing } := by
    rw [← hmedia]
    rfl
  have hlisted := (MediaView.unfilled_listed (h.listed n)).withMedia ((s.nd n).media.left .withdrawing)
  rw [hdrain]
  by_cases hf : x.state = .faulted
  · have hentries := MediaView.returned_entries hlisted
    rw [if_pos hf, if_pos hf, if_pos hf]
    have hresent (es : List Entry) : es.map (fun e => if e.node = n ∧ e.state.isFlushing = true then { e with state := .dirty } else e) =
        es.map (Entry.resent x n) := List.map_congr_left fun e _ => if_congr (by rw [hf]; simp) rfl rfl
    rw [hresent] at hentries
    have hfields (w : MediaView) : w.returned = { w with
        cache := { w.cache with queue := w.cache.outstanding ++ w.cache.queue, outstanding := [] }
        entries := w.returned.entries } := rfl
    rw [hfields, hentries, hunfilled]
    rfl
  · have hkeep (es : List Entry) : es.map (Entry.resent x n) = es :=
      (List.map_congr_left fun e _ => if_neg fun hc => hf hc.1).trans (List.map_id es)
    rw [if_neg hf, if_neg hf, if_neg hf, hkeep, hunfilled]
    rfl

theorem State.CacheLaw.draining_mine (h : s.CacheLaw) (x : Medium) : ((s.view n).draining n x).entries.filter (fun e => e.node == n) =
    ((s.entries.filter (fun e => e.node == n)).filter (fun e => !e.state.isFilling)).map
      (fun e => if x.state = .faulted ∧ e.state.isFlushing = true then { e with state := .dirty } else e) := by
  have hnode : (fun e : Entry => e.node == n) ∘ Entry.resent x n = fun e => e.node == n := by
    funext e
    simp [Entry.resent_node]
  rw [h.draining]
  dsimp only
  rw [List.filter_map, hnode, List.filter_filter, List.filter_filter]
  have hkept : s.entries.filter (fun e => (e.node == n) && !(e.node == n && e.state.isFilling)) =
      s.entries.filter (fun e => (!e.state.isFilling) && (e.node == n)) :=
    List.filter_congr fun e _ => by cases e.node == n <;> cases e.state.isFilling <;> rfl
  rw [hkept]
  refine List.map_congr_left fun e he => if_congr ?_ rfl rfl
  have hn : e.node = n := by simpa using (Bool.and_eq_true_iff.mp (List.mem_filter.mp he).2).2
  simp [hn]

theorem State.CacheLaw.draining_others (h : s.CacheLaw) (x : Medium) :
    ((s.view n).draining n x).entries.filter (fun e => e.node != n) = s.entries.filter (fun e => e.node != n) := by
  have hnode : (fun e : Entry => e.node != n) ∘ Entry.resent x n = fun e => e.node != n := by
    funext e
    simp [Entry.resent_node]
  rw [h.draining]
  dsimp only
  rw [List.filter_map, hnode, List.filter_filter]
  have hkept : s.entries.filter (fun e => (e.node != n) && !(e.node == n && e.state.isFilling)) =
      s.entries.filter (fun e => e.node != n) := List.filter_congr fun e _ => by
    simp only [bne]
    cases e.node == n <;> cases e.state.isFilling <;> rfl
  rw [hkept]
  refine (List.map_congr_left fun e he => Entry.resent_of_ne ?_).trans (List.map_id _)
  simpa using (List.mem_filter.mp he).2

/-! ### MED_DETACH (R81, R83) -/

/-- The pages of the node's FILLING entries join the free list (R67). -/
theorem State.unfilled_free_perm (s : State) (n : NodeId) : ((s.view n).unfilled n).free.Perm
    (s.free ++ ((s.entries.filter (fun e => e.node == n)).filter (fun e => e.state.isFilling)).map Entry.page) := by
  refine (MediaView.freed_free_perm _ (s.view n)).trans (List.Perm.append_left _ (List.Perm.of_eq ?_))
  rw [MediaView.pagesOf, List.filter_filter]
  exact congrArg (List.map Entry.page) (List.filter_congr fun e _ => Bool.and_comm _ _)

variable {f : Frame} {r : Result} {fields : List Byte}

/-- A media request whose media side has become `v`, answered. -/
def State.viewAnswered (s : State) (n : NodeId) (v : MediaView) (f : Frame) (r : Result) (fields : List Byte) : State :=
  (s.takeFrame.withView n v).reply f { result := r, fields := fields }

theorem State.viewAnswered_view (s : State) (n : NodeId) (v : MediaView) (f : Frame) (r : Result) (fields : List Byte) :
    (s.viewAnswered n v f r fields).view n = v := by
  have hview : (s.viewAnswered n v f r fields).view n = (s.takeFrame.withView n v).view n := by
    rw [State.view_eq_iff, State.viewAnswered, State.reply_nd]
    exact ⟨rfl, rfl, rfl, rfl, rfl⟩
  rw [hview, State.view_withView]

/-- It changes the media side of the node and the link, and makes its one reply (R173, R175). -/
theorem State.viewAnswered_frame (s : State) (n : NodeId) (v : MediaView) (f : Frame) (r : Result) (fields : List Byte) :
    s.OnlyMedia (s.viewAnswered n v f r fields) n ∧ s.Replied (s.viewAnswered n v f r fields) f { result := r, fields := fields } := by
  refine ⟨?_, State.replied_of_link rfl _ _⟩
  have hmedia : ((s.viewAnswered n v f r fields).nd n).media = v.media := congrArg MediaView.media (s.viewAnswered_view n v f r fields)
  have hcache : ((s.viewAnswered n v f r fields).nd n).cache = v.cache := congrArg MediaView.cache (s.viewAnswered_view n v f r fields)
  rw [State.OnlyMedia, hmedia, hcache]
  rfl

/-- A withdrawal from READY or FAULTED leaves the current command, the status that is pending and the entries of the other nodes
alike, whether the slot is emptied or not (R79, R81, R83). -/
structure State.LeftTo (s : State) (n : NodeId) (v : MediaView) : Prop where
  current : v.media.current = none
  received : v.media.received = if (s.nd n).media.current.isSome then none else (s.nd n).media.received
  last : v.media.last = if (s.nd n).media.current.isSome then .notReady else (s.nd n).media.last
  statePending : v.media.statePending = true
  seq : v.cache.seq = (s.nd n).cache.seq
  others : v.entries.filter (fun e => e.node != n) = s.entries.filter (fun e => e.node != n)

theorem State.VacatedTo.leftTo (h : s.VacatedTo n v) (hc : v.media.current = none)
    (hr : v.media.received = if (s.nd n).media.current.isSome then none else (s.nd n).media.received)
    (hl : v.media.last = if (s.nd n).media.current.isSome then .notReady else (s.nd n).media.last) : s.LeftTo n v where
  current := hc
  received := hr
  last := hl
  statePending := h.statePending
  seq := by rw [h.cache]
  others := by rw [h.entries, List.filter_filter]; simp

theorem State.CacheLaw.discard_leftTo (h : s.CacheLaw) :
    s.LeftTo n (({ s.view n with media := (s.nd n).media.stopped } : MediaView).vacated n) :=
  (h.vacated _).leftTo (Media.stopped_current _) (Media.stopped_received _) (Media.stopped_last _)

theorem State.CacheLaw.draining_leftTo (h : s.CacheLaw) (x : Medium) : s.LeftTo n ((s.view n).draining n x) where
  current := by rw [MediaView.draining_media, Media.left_current]
  received := by rw [MediaView.draining_media, Media.left_eq, Media.stopped_received]; rfl
  last := by rw [MediaView.draining_media, Media.left_eq, Media.stopped_last]; rfl
  statePending := by rw [MediaView.draining_media, Media.left_eq, Media.stopped_statePending]
  seq := by rw [h.draining]
  others := h.draining_others x

theorem State.CacheLaw.drained_eq (h : s.CacheLaw) (n : NodeId) (x : Medium) : (s.view n).drained n x =
    if s.unstoredCount n = 0 then ((s.view n).draining n x).vacated n else (s.view n).draining n x := by
  rw [MediaView.drained, MediaView.draining_unstored (h.listed n)]
  rfl

theorem State.CacheLaw.drained_leftTo (h : s.CacheLaw) (x : Medium) : s.LeftTo n ((s.view n).drained n x) := by
  obtain ⟨hcurrent, hreceived, hlast, -, -, -⟩ := h.draining_leftTo (n := n) x
  by_cases hu : s.unstoredCount n = 0
  · have hvacated := h.drained_vacated hu x
    rw [h.drained_eq, if_pos hu] at hvacated ⊢
    exact hvacated.leftTo hcurrent hreceived hlast
  · rw [h.drained_eq, if_neg hu]
    exact h.draining_leftTo x

/-- MED_DETACH is refused for its mode, or for the slot (R81, R195). -/
theorem State.detach_badParam {b : Byte} (hb : 1 < b) (s : State) (n : NodeId) :
    s.detach n [b] = s.answers .badParam (slotCode (s.slot n) :: leBytes 2 (s.unstoredCount n)) := by
  have hmode : discardOfCode (byteAt [b] 0) = none :=
    onOffOfCode_unlisted (b := b) (fun h => by rw [h] at hb; exact absurd hb (by decide))
      (fun h => by rw [h] at hb; exact absurd hb (by decide))
  rw [State.detach, hmode]

theorem State.detach_listed {b : Byte} (hb : b = 0 ∨ b = 1) (s : State) (n : NodeId) : s.detach n [b] =
    if s.slot n = none then s.answers .badState (0 :: leBytes 2 0)
    else if b = 1 then (s.discard n).answers .ok (slotCode ((s.discard n).slot n) :: leBytes 2 (s.unstoredCount n))
    else (s.drain n).answers .ok (slotCode ((s.drain n).slot n) :: leBytes 2 ((s.drain n).unstoredCount n)) := by
  have hmode : discardOfCode (byteAt [b] 0) = some (b == 1) := onOffOfCode_zero_one hb
  rw [State.detach, hmode]
  cases hs : s.slot n with
  | none => rcases hb with rfl | rfl <;> rfl
  | some x => rcases hb with rfl | rfl <;> rfl

/-- What MED_DETACH makes of a slot that holds a medium, as its media side and its reply's slot code. -/
theorem exec_medDetach {tag b : Byte} (h : s.takes (nodeFrame 0x21 tag n [b]) = true) {c : Byte} {k : Nat}
    (hd : s.takeFrame.detach n [b] = (s.takeFrame.withView n v).answers .ok (c :: leBytes 2 k)) :
    exec (.medDetach tag n.toByte [b]) s = .next (s.viewAnswered n v (nodeFrame 0x21 tag n [b]) .ok (c :: leBytes 2 k)) :=
  exec_nodeRequest_answers rfl h (Frame.lengthOk_of_mem rfl (show (0x21, 1) ∈ fixedLengths by decide)) hd

theorem State.CacheLaw.discarded (h : s.CacheLaw) (hs : s.slot n = some x) : s.takeFrame.detach n [1] =
    (s.takeFrame.withView n (({ s.view n with media := (s.nd n).media.stopped } : MediaView).vacated n)).answers .ok
      (0 :: leBytes 2 (s.unstoredCount n)) := by
  have hslot : s.takeFrame.slot n = some x := hs
  have hdiscard : s.takeFrame.discard n =
      s.takeFrame.withView n (({ s.view n with media := (s.nd n).media.stopped } : MediaView).vacated n) :=
    s.takeFrame.discard_eq n
  rw [State.detach_listed (.inr rfl), if_neg (by rw [hslot]; nofun), if_pos rfl, hdiscard, State.slot_eq_view, State.view_withView,
    (h.vacated _).slot]
  rfl

theorem State.CacheLaw.drainedAnswer (h : s.CacheLaw) (hs : s.slot n = some x) (hw : x.state ≠ .withdrawing) :
    s.takeFrame.detach n [0] = (s.takeFrame.withView n ((s.view n).drained n x)).answers .ok
      ((if s.unstoredCount n = 0 then 0 else 3) :: leBytes 2 (s.unstoredCount n)) := by
  have hslot : s.takeFrame.slot n = some x := hs
  have hdrain : s.takeFrame.drain n = s.takeFrame.withView n ((s.view n).drained n x) := State.drain_eq hslot hw
  have hcount (u : State) (v : MediaView) : (u.withView n v).unstoredCount n = v.unstored n := rfl
  rw [State.detach_listed (.inl rfl), if_neg (by rw [hslot]; nofun), if_neg (by decide), hdrain, State.slot_eq_view, State.view_withView,
    hcount]
  by_cases hu : s.unstoredCount n = 0
  · have hvacated := h.drained_vacated hu x
    have hzero : ((s.view n).drained n x).unstored n = 0 := by
      rw [MediaView.unstored, hvacated.entries]
      refine List.countP_eq_zero.mpr fun e he => ?_
      have hne := (List.mem_filter.mp he).2
      simp only [bne_iff_ne] at hne
      simp [hne]
    rw [hvacated.slot, hzero, if_pos hu, hu]
    rfl
  · have hview : (s.view n).drained n x = (s.view n).draining n x := by rw [h.drained_eq, if_neg hu]
    have hslot' : (s.view n).media.slot = some x := hs
    rw [hview, MediaView.draining_unstored (h.listed n), MediaView.draining_media, Media.left_slot, hslot', if_neg hu]
    rfl

theorem State.OnlyLink.onlyMedia (h : s.OnlyLink t) (n : NodeId) : s.OnlyMedia t n := by
  have hnd : t.nd n = s.nd n := by rw [h]; rfl
  have hself : s.setNd n { s.nd n with media := (s.nd n).media, cache := (s.nd n).cache } = s := s.setNd_nd n
  rw [State.OnlyMedia, hnd, hself]
  rw [h]

theorem medDetachMode_cases {b : Byte} : 1 < b ∧ b ≠ 0 ∧ b ≠ 1 ∨ b = 0 ∨ b = 1 := by
  revert b; decide

theorem State.viewAnswered_nd (s : State) (n : NodeId) (v : MediaView) (f : Frame) (r : Result) (fields : List Byte) :
    ((s.viewAnswered n v f r fields).nd n).media = v.media ∧ ((s.viewAnswered n v f r fields).nd n).cache = v.cache :=
  ⟨congrArg MediaView.media (s.viewAnswered_view n v f r fields), congrArg MediaView.cache (s.viewAnswered_view n v f r fields)⟩

theorem State.viewAnswered_slot (s : State) (n : NodeId) (v : MediaView) (f : Frame) (r : Result) (fields : List Byte) :
    (s.viewAnswered n v f r fields).slot n = v.media.slot := congrArg Media.slot (s.viewAnswered_nd n v f r fields).1

/-- What a withdrawal that leaves data to be stored, or not, says of the answered state. -/
theorem State.VacatedTo.answered (h : s.VacatedTo n v) (f : Frame) (k : Nat) :
    (s.viewAnswered n v f .ok (0 :: leBytes 2 k)).slot n = none ∧
      ((s.viewAnswered n v f .ok (0 :: leBytes 2 k)).nd n).media.continuation = none ∧
      (∀ e ∈ (s.viewAnswered n v f .ok (0 :: leBytes 2 k)).entries, e.node ≠ n) ∧
      (s.viewAnswered n v f .ok (0 :: leBytes 2 k)).free.Perm (s.free ++ s.minePages n) ∧
      (s.viewAnswered n v f .ok (0 :: leBytes 2 k)).lru = s.lru.filter (fun q => !(s.minePages n).contains q) ∧
      ((s.viewAnswered n v f .ok (0 :: leBytes 2 k)).nd n).cache =
        { (s.nd n).cache with fetches := [], queue := [], outstanding := [] } ∧
      s.Replied (s.viewAnswered n v f .ok (0 :: leBytes 2 k)) f { result := .ok, fields := 0 :: leBytes 2 k } := by
  obtain ⟨hmedia, hcache⟩ := s.viewAnswered_nd n v f .ok (0 :: leBytes 2 k)
  rw [State.viewAnswered_slot, hmedia, hcache]
  refine ⟨h.slot, h.continuation, fun e he => ?_, h.free, h.lru, h.cache, (s.viewAnswered_frame n v f .ok _).2⟩
  have hkept : e ∈ v.entries := he
  rw [h.entries] at hkept
  simpa using (List.mem_filter.mp hkept).2

theorem State.LeftTo.answered (h : s.LeftTo n v) (f : Frame) (r : Result) (fields : List Byte) :
    ((s.viewAnswered n v f r fields).nd n).media.current = none ∧
      ((s.viewAnswered n v f r fields).nd n).media.received =
        (if (s.nd n).media.current.isSome then none else (s.nd n).media.received) ∧
      ((s.viewAnswered n v f r fields).nd n).media.last =
        (if (s.nd n).media.current.isSome then .notReady else (s.nd n).media.last) ∧
      ((s.viewAnswered n v f r fields).nd n).media.statePending = true ∧
      ((s.viewAnswered n v f r fields).nd n).cache.seq = (s.nd n).cache.seq ∧
      (s.viewAnswered n v f r fields).entries.filter (fun e => e.node != n) = s.entries.filter (fun e => e.node != n) := by
  obtain ⟨hmedia, hcache⟩ := s.viewAnswered_nd n v f r fields
  rw [hmedia, hcache]
  exact ⟨h.current, h.received, h.last, h.statePending, h.seq, h.others⟩

/-- A drain that leaves data to be stored, as the answered state shows it. -/
theorem State.CacheLaw.draining_answered (h : s.CacheLaw) (hs : s.slot n = some x) (f : Frame) (fields : List Byte) :
    (s.viewAnswered n ((s.view n).draining n x) f .ok fields).slot n = some { x with state := .withdrawing } ∧
      ((s.viewAnswered n ((s.view n).draining n x) f .ok fields).nd n).media.continuation = (s.nd n).media.continuation ∧
      (s.viewAnswered n ((s.view n).draining n x) f .ok fields).entries.filter (fun e => e.node == n) =
        ((s.entries.filter (fun e => e.node == n)).filter (fun e => !e.state.isFilling)).map
          (fun e => if x.state = .faulted ∧ e.state.isFlushing = true then { e with state := .dirty } else e) ∧
      (s.viewAnswered n ((s.view n).draining n x) f .ok fields).free.Perm
        (s.free ++ ((s.entries.filter (fun e => e.node == n)).filter (fun e => e.state.isFilling)).map Entry.page) ∧
      (s.viewAnswered n ((s.view n).draining n x) f .ok fields).lru = s.lru ∧
      ((s.viewAnswered n ((s.view n).draining n x) f .ok fields).nd n).cache.fetches = [] ∧
      ((s.viewAnswered n ((s.view n).draining n x) f .ok fields).nd n).cache.queue =
        (if x.state = .faulted then (s.nd n).cache.outstanding ++ (s.nd n).cache.queue else (s.nd n).cache.queue) ∧
      ((s.viewAnswered n ((s.view n).draining n x) f .ok fields).nd n).cache.outstanding =
        (if x.state = .faulted then [] else (s.nd n).cache.outstanding) ∧
      s.Replied (s.viewAnswered n ((s.view n).draining n x) f .ok fields) f { result := .ok, fields := fields } := by
  obtain ⟨v, hv⟩ : ∃ v, v = (s.view n).draining n x := ⟨_, rfl⟩
  have hall := h.draining (n := n) x
  have hslot : (s.view n).media.slot = some x := hs
  have hmine := h.draining_mine (n := n) x
  rw [← hv] at hall hmine ⊢
  obtain ⟨hmedia, hcache⟩ := s.viewAnswered_nd n v f .ok fields
  rw [State.viewAnswered_slot, hmedia, hcache]
  refine ⟨?_, ?_, hmine, ?_, ?_, ?_, ?_, ?_, (s.viewAnswered_frame n v f .ok fields).2⟩
  · rw [hv, MediaView.draining_media, Media.left_slot, hslot]
    rfl
  · rw [hv, MediaView.draining_media, Media.left_eq, Media.stopped_continuation]
    rfl
  · have hfree : (s.viewAnswered n v f .ok fields).free = ((s.view n).unfilled n).free := by
      show v.free = _
      rw [hall]
    rw [hfree]
    exact s.unfilled_free_perm n
  · show v.lru = _
    rw [hall]
  · rw [hall]
  · rw [hall]
  · rw [hall]

/-- Settles O44: the mode and the slot say which of refusal, rest, drain and discard it is; the drain ends at once where nothing is
to be stored. -/
theorem medDetachWithdrawsTheMedium : Obligations.MedDetachWithdrawsTheMedium := by
  intro s tag mode n _ h htakes c mine
  have hl : Frame.lengthOk ⟨0x21, tag, n.toByte, [mode]⟩ = true :=
    Frame.lengthOk_of_mem rfl (show (0x21, 1) ∈ fixedLengths by decide)
  obtain ⟨f, hf⟩ : ∃ f, f = nodeFrame 0x21 tag n [mode] := ⟨_, rfl⟩
  have hrefused (a : Answer) := s.refused_replied f a
  rw [← hf]
  rcases medDetachMode_cases (b := mode) with ⟨hbad, h0, h1⟩ | hmode
  · refine ⟨_, hf ▸ exec_nodeRequest_answers rfl htakes hl (State.detach_badParam hbad s.takeFrame n),
      (hrefused _).1.onlyMedia n, rfl, rfl, fun _ => hrefused _, fun hle => absurd hbad (by simpa using hle),
      fun _ hm => absurd hm h0, fun _ _ hm => ?_, fun _ hm => absurd hm h0, fun _ _ hm => ?_⟩
    · exact hm.elim (fun hm => absurd hm.1 h0) (fun hm => absurd hm h1)
    · exact hm.elim (fun hm => absurd hm.1 h0) (fun hm => absurd hm h1)
  have hlisted : ¬1 < mode := by
    rcases hmode with rfl | rfl
    · decide
    · decide
  cases hs : s.slot n with
  | none =>
    have hslot : s.takeFrame.slot n = none := hs
    have hcarried := State.detach_listed hmode s.takeFrame n
    rw [if_pos hslot] at hcarried
    exact ⟨_, hf ▸ exec_nodeRequest_answers rfl htakes hl hcarried, (hrefused _).1.onlyMedia n, rfl, rfl,
      fun hb => absurd hb hlisted, fun _ _ => hrefused _, fun _ _ hm => (nomatch hm), fun _ hm => (nomatch hm),
      fun _ _ hm => (nomatch hm), fun _ hm => (nomatch hm)⟩
  | some x =>
    have hone : (1 : Byte) ≠ 0 := by decide
    rcases hmode with rfl | rfl
    · by_cases hw : x.state = .withdrawing
      · have hdrain : s.takeFrame.drain n = s.takeFrame :=
          State.drain_noop fun y hy => Option.some.inj (hs.symm.trans hy) ▸ hw
        have hslot : s.takeFrame.slot n = some x := hs
        have hcarried : s.takeFrame.detach n [0] = s.takeFrame.answers .ok (3 :: leBytes 2 (s.unstoredCount n)) := by
          rw [State.detach_listed (.inl rfl), if_neg (by rw [hslot]; nofun), if_neg hone.symm, hdrain, hslot, slotCode, hw]
          rfl
        exact ⟨_, hf ▸ exec_nodeRequest_answers rfl htakes hl hcarried, (hrefused _).1.onlyMedia n, rfl, rfl,
          fun hb => absurd hb hlisted, fun _ hm => (nomatch hm), fun _ _ _ _ => hrefused _,
          fun y hy hm => absurd (Option.some.inj hy ▸ hw) (hm.elim (fun hm => hm.2) fun hm => absurd hm.symm hone),
          fun y _ hy hm => absurd (Option.some.inj hy ▸ hw) hm,
          fun y hy hm => absurd (Option.some.inj hy ▸ hw) (hm.elim (fun hm => hm.2.1) fun hm => absurd hm.symm hone)⟩
      · have hexec := exec_medDetach htakes (h.drainedAnswer hs hw)
        rw [← hf] at hexec
        refine ⟨_, hexec, (s.viewAnswered_frame n _ f .ok _).1, rfl, rfl, fun hb => absurd hb hlisted, fun _ hm => (nomatch hm),
          fun y _ hy hm => absurd (Option.some.inj hy ▸ hm) hw, fun _ _ _ => (h.drained_leftTo x).answered f .ok _,
          fun y _ hy _ hu => ?_, fun y hy hm => ?_⟩
        · obtain rfl := Option.some.inj hy
          rw [if_neg hu, h.drained_eq, if_neg hu]
          exact h.draining_answered hs f _
        · have hu : s.unstoredCount n = 0 := hm.elim (fun hm => hm.2.2) fun hm => absurd hm.symm hone
          rw [if_pos hu]
          exact (h.drained_vacated hu x).answered f _
    · have hexec := exec_medDetach htakes (h.discarded hs)
      rw [← hf] at hexec
      exact ⟨_, hexec, (s.viewAnswered_frame n _ f .ok _).1, rfl, rfl, fun hb => absurd hb hlisted, fun _ hm => (nomatch hm),
        fun _ hm => absurd hm hone, fun _ _ _ => h.discard_leftTo.answered f .ok _, fun _ hm => absurd hm hone,
        fun _ _ _ => (h.vacated _).answered f _⟩

end

end Sys2Proof.Machine
end


section
/-! PROOFS. Fetches that fail or time out (O46), and store timeouts and the recovery from them (O50). -/

namespace Sys2Proof.Machine

set_option Elab.async false

section
variable {s t u : State} {n : NodeId} {v : MediaView} {e : Entry} {x : Medium} {f : Frame} {p : List Byte} {tag : Byte}

/-! ### Ending a command -/

/-- The record with its command ended with a status and data (R74). -/
def Media.ended (st : NodeStatus) (d : PortData) (m : Media) : Media :=
  { m with current := none, received := none, last := st, out := { status := some st, data := d } }

theorem State.endCommand_eq_withView (s : State) (n : NodeId) (st : NodeStatus) (d : PortData) :
    s.endCommand n st d = s.withView n { s.view n with media := (s.nd n).media.ended st d } := State.mapMedia_eq_withView _

/-! ### A FILLING entry that ends without data (R95, R107, R108) -/

/-- The entry is freed, and the READ that waits on it is ended. -/
def MediaView.failed (e : Entry) (waits : Bool) (st : NodeStatus) (v : MediaView) : MediaView :=
  { v.freed [e.page] with media := if waits then v.media.ended st .nothing else v.media }

theorem State.failFill_eq (s : State) (e : Entry) (st : NodeStatus) :
    s.failFill e st = s.withView e.node ((s.view e.node).failed e (s.waitsOn e.node e.lba) st) := by
  rw [State.failFill, State.freeEntry_eq_withView, MediaView.failed]
  split
  · rw [State.endCommand_eq_withView, State.view_withView, State.withView_withView, State.withView_nd]
    rfl
  · rfl

theorem filter_contains_singleton {α : Type} (g : α → Nat) (p : Nat) (l : List α) :
    l.filter (fun a => !([p].contains (g a))) = l.filter (fun a => g a != p) :=
  List.filter_congr fun a _ => by
    rw [List.contains_cons, List.contains_nil, Bool.or_false]
    rfl

/-- A FILLING entry's page is in the pending fetch list at most, so freeing it leaves the other lists. -/
theorem State.CacheLaw.freedEntry (h : s.CacheLaw) (he : e ∈ s.entries) (hfilling : e.state.isFilling = true) {st : NodeStatus}
    (honly : s.OnlyMedia t e.node) (hmem : t.mem = s.mem)
    (hview : t.view e.node = (s.view e.node).failed e (s.waitsOn e.node e.lba) st) : s.FreedEntry t e st := by
  obtain ⟨hlru, hqueue, hout⟩ := h.filling_unlisted he hfilling e.node
  have hkept {l : List Nat} (hp : e.page ∉ l) : l.filter (fun q => !([e.page].contains q)) = l :=
    (filter_contains_singleton id e.page l).trans (without_of_not_mem hp)
  obtain ⟨hmedia, hcache, hfree, hentries, hlru'⟩ := (MediaView.mk.injEq ..).mp hview
  refine ⟨honly, hmem, hlru'.trans (hkept hlru), hentries.trans (filter_contains_singleton Entry.page e.page _), ?_, ?_, ?_, ?_⟩
  · rw [hfree]
    exact insertPage_perm e.page s.free
  · have hdropped : (t.nd e.node).cache = (s.nd e.node).cache.dropped [e.page] := hcache
    have hfetches := filter_contains_singleton id e.page (s.nd e.node).cache.fetches
    simp only [id] at hfetches
    rw [hdropped, NodeCache.dropped, hkept hqueue, hkept hout, hfetches]
  · intro hwaits
    rw [hmedia, hwaits]
    rfl
  · intro hwaits
    rw [hmedia, hwaits]
    rfl

/-- A MED_FILL_FAIL by its tag and by the entry that it names (R107). -/
theorem State.takeFillFail_badParam (h : 1023 < leNat (p.take 2)) (s : State) (n : NodeId) : s.takeFillFail n p = s.answers .badParam [] := by
  rw [State.takeFillFail, fieldAt_zero]
  exact if_pos h

theorem State.takeFillFail_stale (hp : p.length = 6) (h : ¬1023 < leNat (p.take 2))
    (hnone : s.fillable n (leNat (p.take 2)) (leNat (p.drop 2)) = none) : s.takeFillFail n p = s.answers .stale [] := by
  rw [← fieldAt_last (i := 2) (k := 4) hp] at hnone
  rw [State.takeFillFail, fieldAt_zero]
  rw [if_neg h, hnone]

theorem State.takeFillFail_ok (hp : p.length = 6) (h : ¬1023 < leNat (p.take 2))
    (hsome : s.fillable n (leNat (p.take 2)) (leNat (p.drop 2)) = some e) :
    s.takeFillFail n p = (s.failFill e .mediumError).answers .ok [] := by
  rw [← fieldAt_last (i := 2) (k := 4) hp] at hsome
  rw [State.takeFillFail, fieldAt_zero]
  rw [if_neg h, hsome]

theorem State.sentFetch_eq (h : s.CacheLaw) (he : e ∈ s.entries) {d : Nat} (hst : e.state = .filling (some d)) :
    s.sentFetch e.page = some (e, d) := by
  have htagged : s.tagged e.page = some e := (State.tagged_eq_some_iff h.1 _).mpr ⟨he, rfl⟩
  obtain ⟨x, hslot, -, -⟩ := (h.2.2.2.2 e.node).2.2.2.2.2.2.1 e he rfl
  rw [State.sentFetch, htagged]
  dsimp only
  rw [hst]
  dsimp only
  rw [hslot]
  rfl

theorem State.sentFetch_none {page : Nat} (h : ∀ e ∈ s.entries, e.page = page → ∀ d, e.state ≠ .filling (some d)) :
    s.sentFetch page = none := by
  rw [State.sentFetch]
  cases htagged : s.tagged page with
  | none => rfl
  | some e =>
    have hpage : e.page = page := by simpa using List.find?_some htagged
    have hst := h e (List.mem_of_find?_eq_some htagged) hpage
    dsimp only
    split
    · next d hd => exact absurd hd (hst d)
    · rfl

/-- Settles O46: both ways free the entry, and differ in the status that a waiting READ ends with. -/
theorem failedFetchFreesItsEntry : Obligations.FailedFetchFreesItsEntry := by
  refine ⟨fun s tag n p h htakes hp => ?_, fun s e d hheld h he hst => ?_, fun s page h => ?_⟩
  · intro page lba
    have hl : Frame.lengthOk ⟨0x23, tag, n.toByte, p⟩ = true := Frame.lengthOk_of_mem hp (by decide)
    by_cases hbad : 1023 < page
    · have hcarried : carried s.takeFrame n (.medFillFail tag n.toByte p) = _ := State.takeFillFail_badParam hbad s.takeFrame n
      exact ⟨_, exec_nodeRequest_answers rfl htakes hl hcarried, fun _ => s.refused_replied _ _, fun hle => absurd hbad hle.not_gt,
        fun _ _ hle => absurd hbad hle.not_gt⟩
    cases hfound : s.fillable n page lba with
    | none =>
      have hcarried : carried s.takeFrame n (.medFillFail tag n.toByte p) = _ := State.takeFillFail_stale hp hbad hfound
      have hnone := (State.fillable_eq_none_iff h.1 page lba).mp hfound
      exact ⟨_, exec_nodeRequest_answers rfl htakes hl hcarried, fun hgt => absurd hgt hbad, fun _ _ => s.refused_replied _ _,
        fun e he _ hpage hnode hlba hst => absurd ⟨hpage, hnode, hlba, hst⟩ (hnone e he)⟩
    | some e =>
      obtain ⟨he, hpage, rfl, hlba, hst⟩ := (State.fillable_eq_some_iff h.1 page lba).mp hfound
      have hcarried : carried s.takeFrame e.node (.medFillFail tag e.node.toByte p) = _ := State.takeFillFail_ok hp hbad hfound
      rw [State.failFill_eq] at hcarried
      have hframe := s.viewAnswered_frame e.node ((s.view e.node).failed e (s.waitsOn e.node e.lba) .mediumError)
        (nodeFrame 0x23 tag e.node p) .ok []
      refine ⟨_, exec_nodeRequest_answers rfl htakes hl hcarried, fun hgt => absurd hgt hbad,
        fun _ hnone => absurd ⟨hpage, rfl, hlba, hst⟩ (hnone e he), fun g hg _ hgpage _ _ _ => ?_⟩
      obtain rfl := State.entry_eq_of_page h.1 hg he (hgpage.trans hpage.symm)
      exact ⟨h.freedEntry he hst hframe.1 rfl (State.viewAnswered_view _ _ _ _ _ _), rfl, hframe.2⟩
  · refine ⟨_, congrArg Host.Outcome.next (State.given_eq hheld (State.sentFetch_eq h he hst) _), ?_, ?_, ?_⟩
    · rw [State.failFill_eq]
      exact s.toTick_ticks d
    · rw [State.failFill_eq]
      rfl
    · rw [State.failFill_eq]
      refine h.freedEntry he (by rw [hst]; rfl) ?_ rfl (State.view_withView _ _ _)
      rw [State.OnlyMedia, State.withView_nd]
      rfl
  · exact congrArg Host.Outcome.next (State.given_of_none (State.sentFetch_none h) _)

/-! ### Write-outs that come back, and slots that fault (R117 to R119) -/

/-- What returning the write-outs leaves, whatever becomes of the slot. -/
theorem State.CacheLaw.returnedFlushing (h : s.CacheLaw) {y : Media} (honly : s.OnlyMedia t n) (hmem : t.mem = s.mem)
    (hview : t.view n = { (s.view n).returned with media := y }) : s.ReturnedFlushing t n := by
  obtain ⟨-, hcache, hfree, hentries, hlru⟩ := (MediaView.mk.injEq ..).mp hview
  exact ⟨honly, hmem, hfree, hlru, hentries.trans (MediaView.returned_entries (h.listed n)), hcache⟩

theorem State.slotTo_eq_withView (hs : s.slot n = some x) (st : SlotState) : s.slotTo n st =
    s.withView n { s.view n with
      media := { (s.nd n).media with slot := some { x with state := st }, statePending := true } } := by
  have hslot : (s.nd n).media.slot = some x := hs
  rw [State.slotTo, State.mapMedia_eq_withView, hslot]
  rfl

theorem State.slotFaulted_iff : s.slotFaulted n = true ↔ ∃ x, s.slot n = some x ∧ x.state = .faulted := by
  rw [State.slotFaulted]
  cases s.slot n with
  | none => simp
  | some x => simp

/-- MED_RECOVER outside FAULTED is refused. -/
theorem State.recoverMedia_refused (h : ∀ x, s.slot n = some x → x.state ≠ .faulted) : s.recoverMedia n =
    s.answers .badState [0, BitVec.ofNat 8 (s.nd n).cache.queue.length] := by
  have hfaulted : ¬s.slotFaulted n = true := fun hf =>
    let ⟨x, hs, hx⟩ := State.slotFaulted_iff.mp hf
    h x hs hx
  rw [State.recoverMedia, if_neg hfaulted]
  rfl

/-- The slot of medium `x` READY again, and its write-outs returned (R119). -/
def MediaView.recovered (x : Medium) (v : MediaView) : MediaView :=
  { v.returned with media := { v.media with slot := some { x with state := .ready }, statePending := true } }

theorem State.recoverMedia_ok (hs : s.slot n = some x) (hx : x.state = .faulted) : s.recoverMedia n =
    (s.withView n ((s.view n).recovered x)).answers .ok
      [BitVec.ofNat 8 (s.nd n).cache.outstanding.length, BitVec.ofNat 8 ((s.view n).recovered x).cache.queue.length] := by
  have hfaulted : s.slotFaulted n = true := State.slotFaulted_iff.mpr ⟨x, hs, hx⟩
  have hrecovered : (s.slotTo n .ready).returnFlushing n = s.withView n ((s.view n).recovered x) := by
    rw [State.slotTo_eq_withView hs, State.returnFlushing_eq, State.view_withView, State.withView_withView]
    rfl
  have hcache : ((s.withView n ((s.view n).recovered x)).nd n).cache = ((s.view n).recovered x).cache := by rw [State.withView_nd]
  rw [State.recoverMedia, if_pos hfaulted, hrecovered]
  dsimp only
  rw [hcache]
  rfl

/-- The deadline that is watched is that of the front of the outstanding list. -/
theorem State.storeDeadline_eq (h : s.CacheLaw) (hs : s.slot n = some x) (hx : x.state ≠ .faulted) {q : Nat} {r : List Nat}
    (hout : (s.nd n).cache.outstanding = q :: r) (he : e ∈ s.entries) (hpage : e.page = q) {c : Half} {w : Bool} {d : Nat}
    (hst : e.state = .flushing c w d) : s.storeDeadline n = some d := by
  have hslot : (s.nd n).media.slot = some x := hs
  have htagged : s.tagged q = some e := (State.tagged_eq_some_iff h.1 _).mpr ⟨he, hpage⟩
  rw [State.storeDeadline, hslot]
  dsimp only
  rw [if_neg hx, hout]
  dsimp only
  rw [htagged, Option.map_some, hst]

theorem State.storeDeadline_none (h : s.slot n = none ∨ (∃ x, s.slot n = some x ∧ x.state = .faulted) ∨ (s.nd n).cache.outstanding = []) :
    s.storeDeadline n = none := by
  have hslot : (s.nd n).media.slot = s.slot n := rfl
  rw [State.storeDeadline, hslot]
  rcases h with hs | ⟨x, hs, hx⟩ | hout
  · rw [hs]
  · rw [hs]
    exact if_pos hx
  · rw [hout]
    split
    · rfl
    · exact ite_self none

theorem exec_storeTimeout {d : Nat} (hheld : s.held = false) (hd : s.storeDeadline n = some d) :
    exec (.storeTimeout n) s = .next ((s.toTick d).storeTimesOut n) := congrArg Host.Outcome.next (State.given_eq hheld hd _)

theorem exec_storeTimeout_none (hd : s.storeDeadline n = none) : exec (.storeTimeout n) s = .next s :=
  congrArg Host.Outcome.next (State.given_of_none hd _)

theorem State.storeTimesOut_ready (hs : s.slot n = some x) (hx : x.state = .ready) :
    s.storeTimesOut n = s.withView n { s.view n with media := (s.nd n).media.left .faulted } := by
  rw [State.storeTimesOut, hs]
  dsimp only
  rw [hx]
  dsimp only
  rw [State.leaveReady_slotTo]

theorem State.storeTimesOut_withdrawing (hs : s.slot n = some x) (hx : x.state = .withdrawing) :
    s.storeTimesOut n = s.withView n (s.view n).returned := by
  rw [State.storeTimesOut, hs]
  dsimp only
  rw [hx]
  exact s.returnFlushing_eq n

/-- Settles O50: the write-outs come back by MED_RECOVER and by the deadline of a WITHDRAWING slot; a READY one is faulted. -/
theorem storeTimeoutsFaultAndRecover : Obligations.StoreTimeoutsFaultAndRecover := by
  refine ⟨fun s tag n h htakes => ?_, fun s n m p r e q w d hheld h hs hout he hpage hst => ⟨fun hm => ?_, fun hm => ?_, fun hm => ?_⟩,
    fun s n h => exec_storeTimeout_none (State.storeDeadline_none (h.imp_right .inr))⟩
  · have hl : Frame.lengthOk ⟨0x26, tag, n.toByte, []⟩ = true :=
      Frame.lengthOk_of_mem rfl (show (0x26, 0) ∈ fixedLengths by decide)
    by_cases hf : ∃ x, s.slot n = some x ∧ x.state = .faulted
    · obtain ⟨x, hs, hx⟩ := hf
      have hcarried : carried s.takeFrame n (.medRecover tag n.toByte []) = _ := State.recoverMedia_ok hs hx
      obtain ⟨v, hv⟩ : ∃ v, v = (s.view n).recovered x := ⟨_, rfl⟩
      have hview : s.takeFrame.view n = s.view n := rfl
      have hnd : s.takeFrame.nd n = s.nd n := rfl
      rw [hview, ← hv, hnd] at hcarried
      obtain ⟨honly, hreplied⟩ := s.viewAnswered_frame n v (nodeFrame 0x26 tag n []) .ok
        [BitVec.ofNat 8 (s.nd n).cache.outstanding.length, BitVec.ofNat 8 v.cache.queue.length]
      obtain ⟨hmedia, hcache⟩ := s.viewAnswered_nd n v (nodeFrame 0x26 tag n []) .ok
        [BitVec.ofNat 8 (s.nd n).cache.outstanding.length, BitVec.ofNat 8 v.cache.queue.length]
      refine ⟨_, exec_nodeRequest_answers rfl htakes hl hcarried, fun hne => absurd hx (hne x hs), fun y hy _ => ?_⟩
      obtain rfl := Option.some.inj (hs.symm.trans hy)
      refine ⟨h.returnedFlushing honly rfl ((State.viewAnswered_view _ _ _ _ _ _).trans hv), rfl, ?_, ?_⟩
      · exact hmedia.trans (by rw [hv]; rfl)
      · rw [State.viewAnswered] at hcache hreplied
        rw [hcache]
        exact hreplied
    · have hne : ∀ x, s.takeFrame.slot n = some x → x.state ≠ .faulted := fun x hs hx => hf ⟨x, hs, hx⟩
      have hcarried : carried s.takeFrame n (.medRecover tag n.toByte []) = _ := State.recoverMedia_refused hne
      exact ⟨_, exec_nodeRequest_answers rfl htakes hl hcarried, fun _ => s.refused_replied _ _,
        fun x hs hx => absurd ⟨x, hs, hx⟩ hf⟩
  · have hd := State.storeDeadline_eq h hs (by rw [hm]; nofun) hout he hpage hst
    have hend : (s.toTick d).storeTimesOut n = (s.toTick d).withView n { s.view n with media := (s.nd n).media.left .faulted } :=
      State.storeTimesOut_ready hs hm
    refine ⟨_, exec_storeTimeout hheld hd, ?_⟩
    have hnd := (s.toTick d).withView_nd n { s.view n with media := (s.nd n).media.left .faulted }
    have hmedia : (s.nd n).media.slot = some m := hs
    rw [hend, State.OnlyNodeAndClock, State.slot, hnd]
    refine ⟨s.toTick_ticks d, rfl, rfl, ?_, ?_, Media.left_current _ _, ?_⟩
    · dsimp only
      rw [Media.left_slot, hmedia]
      rfl
    · rw [Media.left_eq, Media.stopped_statePending]
    · rw [Media.left_eq, Media.stopped_last]
  · have hd := State.storeDeadline_eq h hs (by rw [hm]; nofun) hout he hpage hst
    have hend : (s.toTick d).storeTimesOut n = (s.toTick d).withView n (s.view n).returned :=
      State.storeTimesOut_withdrawing hs hm
    refine ⟨_, exec_storeTimeout hheld hd, ?_⟩
    rw [hend, State.withView_nd]
    refine ⟨s.toTick_ticks d, h.returnedFlushing ?_ rfl (State.view_withView _ _ _), rfl, rfl⟩
    rw [State.OnlyMedia, State.withView_nd]
    rfl
  · exact exec_storeTimeout_none (State.storeDeadline_none (.inr (.inl ⟨m, hs, hm⟩)))

end

end Sys2Proof.Machine
end


section
/-! PROOFS. MED_EXTENTS_SET: a WRITE whose list holds a block that wants an entry (O49). -/

namespace Sys2Proof.Machine

set_option Elab.async false

/-! ### The block that no request is made for

R92 lets the blocks of a READ alone want a FILLING entry, and `Command.wanting` names none of a WRITE. The law of a command
does not say that a WRITE's blocks are ready, so a lawful WRITE may hold a block that wants an entry. -/

/-- N0 with a medium of one block, and a WRITE of that block, which wants an entry. -/
def wantingWrite : State :=
  { State.reset with link := { State.reset.link with up := true, readyPending := false } }.mapMedia .n0 (fun m =>
    { m with
      slot := some
        { state := .ready, imageId := 0, capacity := 1, policy := .cached, present := .persist, removable := false,
          changed := false, protect := [], zero := [] }
      current := some { write := true, lba := 0, count := 1, finished := 0, list := [⟨0, .wanting⟩], unstored := 0 } })

theorem wantingWrite_cacheLaw : wantingWrite.CacheLaw := State.cacheLaw_of_check (by decide +kernel)

theorem wantingWrite_pageLaw : wantingWrite.PageLaw :=
  State.pageLaw_of_runs (k := 32) (by decide +kernel) rfl (by decide) List.nodup_nil (by intro p h; cases h)

/-- A WRITE makes no request for a FILLING entry (R92). -/
theorem State.serveRequests_write {s : State} {n : NodeId} {c : Command} (hc : (s.nd n).media.current = some c) (hw : c.write = true)
    (k : Nat) : State.serveRequests k n s = s := by
  have hnone : s.serveRequest n = none := by
    rw [State.serveRequest, hc]
    dsimp only
    rw [Command.wanting, if_pos hw]
  cases k with
  | zero => rfl
  | succ k => rw [State.serveRequests, hnone]

/-- Refutes O49: an empty ZERO list for `wantingWrite` makes no request, so its block still wants an entry, although the node is
below the FILLING cap and pages are free. -/
theorem not_medExtentsSetReplacesATable : ¬ Obligations.MedExtentsSetReplacesATable := by
  intro h
  obtain ⟨t, -, -, -, -, hzero⟩ := h wantingWrite 9 0 0 .n0 [] wantingWrite_cacheLaw (by decide +kernel) rfl
  obtain ⟨-, -, hset⟩ := hzero _ rfl rfl (by decide)
  obtain ⟨-, -, -, -, ⟨u, -, -, -, hentries, hfree, -, -, hmedia, ht, -, -, hserved⟩, -⟩ :=
    hset (by decide) (by intro e he; cases he)
  have hcurrent : (u.nd .n0).media.current =
      some { write := true, lba := 0, count := 1, finished := 0, list := [⟨0, .wanting⟩], unstored := 0 } := by
    rw [hmedia]
    rfl
  rw [State.serveRequests_write hcurrent rfl] at ht
  obtain ⟨-, -, hblocks⟩ := hserved wantingWrite_pageLaw
  obtain ⟨list, hlist, hall⟩ := hblocks _ hcurrent
  have hempty : t.entries = [] := by
    rw [ht]
    exact hentries
  have htcurrent : (t.nd .n0).media.current = (u.nd .n0).media.current := by rw [ht]; rfl
  have hkept : list = [⟨0, .wanting⟩] := by
    rw [htcurrent, hcurrent] at hlist
    exact (congrArg Command.list (Option.some.inj hlist)).symm
  rw [hkept] at hall
  obtain ⟨⟨-, -, hwanting⟩, -⟩ := List.forall₂_cons.mp hall
  rcases hwanting rfl with ⟨hstatus, -⟩ | ⟨-, hcap | ⟨hnone, -⟩⟩
  · cases hstatus
  · rw [State.fillingCount, State.countEntries, hempty] at hcap
    cases hcap
  · have huempty : u.free = [] := by
      rw [ht] at hnone
      exact hnone
    rw [huempty] at hfree
    have hlength := hfree.length_eq
    rw [List.length_append] at hlength
    exact absurd hlength.symm (Nat.ne_of_gt (Nat.add_pos_left (by decide +kernel) _))

end Sys2Proof.Machine
end


section
/-! PROOFS. The requests of a READ's blocks: the pages, the entries and the block list that a run of them leaves (R65, R66, R92,
R93, R100, R103). -/

namespace Sys2Proof.Machine

set_option Elab.async false

section
variable {s t u : State} {n m : NodeId} {v w : MediaView} {c d : Command} {b : BlockPlace} {p q lba : Nat} {ps : List Nat} {e : Entry}

/-! ### What the pool gives -/

/-- The pages that the pool can give are distinct, and the free ones are those of no entry. -/
def State.Stocked (s : State) : Prop := s.supply.Nodup ∧ ∀ p ∈ s.free, p ∉ s.entryPages

theorem State.PageLaw.stocked (h : s.PageLaw) : s.Stocked := by
  obtain ⟨hperm, hsorted, hlru, hmem⟩ := h
  have hnodup : (s.free ++ s.ringPages ++ s.entryPages).Nodup := hperm.nodup_iff.mpr List.nodup_range'
  have hdisjoint : ∀ p ∈ s.free, p ∉ s.entryPages := fun p hp he =>
    (List.nodup_append.mp hnodup).2.2 p (List.mem_append_left _ hp) p he rfl
  refine ⟨List.nodup_append.mpr ⟨hsorted.imp Nat.ne_of_lt, hlru, fun p hp q hq hpq => ?_⟩, hdisjoint⟩
  exact hdisjoint p hp (hmem p (hpq ▸ hq))

/-- The media side without the first page that the pool can give, `p`: an entry in that page is evicted. -/
def MediaView.supplied (p : Nat) (v : MediaView) : MediaView :=
  { v with
    free := v.free.tail
    lru := if v.free = [] then v.lru.tail else v.lru
    entries := v.entries.filter (fun e => e.page != p) }

theorem State.getPage_eq_supplied (h : s.Stocked) (n : NodeId) (hp : s.supply = p :: ps) :
    s.getPage = some (p, s.withView n ((s.view n).supplied p)) := by
  rcases s.getPage_cases with ⟨q, qs, hf, hg⟩ | ⟨q, qs, hf, hl, hg⟩ | ⟨hf, hl, hg⟩
  · have hq : q = p := (List.cons.inj (show q :: (qs ++ s.lru) = p :: ps by rw [← hp, State.supply, hf]; rfl)).1
    subst hq
    have hkept : s.entries.filter (fun e => e.page != q) = s.entries := by
      refine List.filter_eq_self.mpr fun e he => ?_
      rw [bne_iff_ne]
      rintro rfl
      exact h.2 e.page (by rw [hf]; exact List.mem_cons_self ..) (List.mem_map_of_mem he)
    have hview : (s.view n).supplied q = { s.view n with free := qs } := by
      simp only [MediaView.supplied, State.view, hkept, hf, List.tail_cons, reduceCtorEq, if_false]
    rw [hg, hview]
    exact congrArg (fun u : State => some (q, { u with free := qs })) (s.withView_view n).symm
  · have hq : q = p := (List.cons.inj (show q :: qs = p :: ps by rw [← hp, State.supply, hf, hl]; rfl)).1
    subst hq
    have hview : (s.view n).supplied q = { s.view n with lru := qs, entries := s.entries.filter (fun e => e.page != q) } := by
      simp only [MediaView.supplied, State.view, hf, hl, List.tail_nil, List.tail_cons, if_true]
    rw [hg, hview]
    exact congrArg (fun u : State => some (q, { u with lru := qs, entries := s.entries.filter (fun e => e.page != q) }))
      (s.withView_view n).symm
  · rw [State.supply, hf, hl] at hp
    cases hp

/-! ### One request (R92, R93) -/

/-- A FILLING entry is created in page `p` (R100, R103). -/
def MediaView.newFilling (n : NodeId) (lba p : Nat) (v : MediaView) : MediaView :=
  { v with
    entries := insertEntry ⟨p, n, lba, .filling none⟩ v.entries
    cache := { v.cache with fetches := v.cache.fetches ++ [p] } }

theorem State.newFilling_eq_withView (s : State) (n : NodeId) (lba p : Nat) :
    s.newFilling n lba p = s.withView n ((s.view n).newFilling n lba p) := rfl

theorem State.mapCommand_eq_withView (s : State) (n : NodeId) (f : Command → Command) : s.mapCommand n f =
    s.withView n { s.view n with media := { (s.nd n).media with current := (s.nd n).media.current.map f } } := rfl

/-- The request of the block `lba` of command `c`, which receives page `p`. -/
def MediaView.requested (n : NodeId) (c : Command) (lba p : Nat) (v : MediaView) : MediaView :=
  { (v.supplied p).newFilling n lba p with media := { v.media with current := some (c.mark lba .waiting) } }

theorem State.serveRequest_eq_none (h : ∀ c, (s.nd n).media.current = some c → ∀ lba, c.wanting = some lba →
    Config.fillingCap ≤ s.fillingCount n ∨ s.supply = []) : s.serveRequest n = none := by
  unfold State.serveRequest
  split
  · rfl
  · next c hc =>
    split
    · rfl
    · next lba hl =>
      rcases h c hc lba hl with hcap | hempty
      · rw [if_pos hcap]
      · rw [s.getPage_eq_none.mpr hempty, ite_self]

theorem State.serveRequest_eq_some (h : s.Stocked) (hc : (s.nd n).media.current = some c) (hw : c.wanting = some lba)
    (hcap : s.fillingCount n < Config.fillingCap) (hp : s.supply = p :: ps) :
    s.serveRequest n = some (s.withView n ((s.view n).requested n c lba p)) := by
  have hserved : ((s.withView n ((s.view n).supplied p)).newFilling n lba p).mapCommand n (fun c => c.mark lba .waiting) =
      s.withView n ((s.view n).requested n c lba p) := by
    rw [State.newFilling_eq_withView, State.mapCommand_eq_withView]
    simp only [State.view_withView, State.withView_withView, State.withView_nd]
    have hcurrent : (((s.view n).supplied p).newFilling n lba p).media.current = some c := hc
    rw [hcurrent]
    rfl
  rw [State.serveRequest, hc]
  dsimp only
  rw [hw]
  dsimp only
  rw [if_neg (Nat.not_le.mpr hcap), State.getPage_eq_supplied h n hp]
  dsimp only
  rw [hserved]

/-! ### What a request leaves of the pool and the entries -/

theorem MediaView.supplied_supply (hp : v.free ++ v.lru = p :: ps) : (v.supplied p).free ++ (v.supplied p).lru = ps := by
  unfold MediaView.supplied
  dsimp only
  cases hf : v.free with
  | nil =>
    rw [hf, List.nil_append] at hp
    rw [if_pos rfl, hp]
    rfl
  | cons q qs =>
    rw [hf] at hp
    rw [if_neg (List.cons_ne_nil q qs), List.tail_cons]
    exact (List.cons.inj hp).2

theorem MediaView.supplied_free_subset (p : Nat) (v : MediaView) : (v.supplied p).free ⊆ v.free := fun _ => List.mem_of_mem_tail

theorem State.requested_supply (hp : s.supply = p :: ps) (c : Command) (lba : Nat) :
    (s.withView n ((s.view n).requested n c lba p)).supply = ps :=
  MediaView.supplied_supply (v := s.view n) hp

theorem State.requested_entries (s : State) (n : NodeId) (c : Command) (lba p : Nat) :
    (s.withView n ((s.view n).requested n c lba p)).entries =
      insertEntry ⟨p, n, lba, .filling none⟩ (s.entries.filter (fun e => e.page != p)) := rfl

theorem State.requested_entries_perm (s : State) (n : NodeId) (c : Command) (lba p : Nat) :
    (s.withView n ((s.view n).requested n c lba p)).entries.Perm
      (⟨p, n, lba, .filling none⟩ :: s.entries.filter (fun e => e.page != p)) := insertEntry_perm _ _

theorem State.requested_stocked (h : s.Stocked) (hp : s.supply = p :: ps) (c : Command) (lba : Nat) :
    (s.withView n ((s.view n).requested n c lba p)).Stocked := by
  obtain ⟨hnodup, hfree⟩ := h
  rw [hp] at hnodup
  refine ⟨by rw [State.requested_supply hp]; exact (List.nodup_cons.mp hnodup).2, fun q hq hentry => ?_⟩
  have hsupply : q ∈ (s.withView n ((s.view n).requested n c lba p)).supply := List.mem_append_left _ hq
  rw [State.requested_supply hp] at hsupply
  have hpages := ((s.requested_entries_perm n c lba p).map Entry.page).mem_iff.mp hentry
  rcases List.mem_cons.mp hpages with hpage | hother
  · have hq : q = p := hpage
    exact (List.nodup_cons.mp hnodup).1 (hq ▸ hsupply)
  · obtain ⟨e, he, hpage⟩ := List.mem_map.mp hother
    exact hfree q (MediaView.supplied_free_subset p (s.view n) hq) (List.mem_map.mpr ⟨e, (List.mem_filter.mp he).1, hpage⟩)

theorem State.requested_fillingCount (s : State) (n : NodeId) (c : Command) (lba p : Nat) :
    (s.withView n ((s.view n).requested n c lba p)).fillingCount n ≤ s.fillingCount n + 1 := by
  rw [State.fillingCount, State.countEntries, (s.requested_entries_perm n c lba p).countP_eq, List.countP_cons]
  exact Nat.add_le_add (List.filter_sublist.countP_le) (by split <;> simp)

/-- A run of requests begins with one, and what the one leaves is what the others find. -/
theorem State.servedFetches_cons (h : s.Stocked) (hp : s.supply = p :: ps) {c : Command} {lba : Nat}
    (ht : (s.withView n ((s.view n).requested n c lba p)).ServedFetches t n) : s.ServedFetches t n := by
  obtain ⟨new, hnew, hpages, hfree, hlru, hentries, hcache⟩ := ht
  have hnodup : p ∉ ps := (List.nodup_cons.mp (hp ▸ h.1)).1
  have htaken : new.map Entry.page = ps.take new.length := hpages.trans (congrArg (List.take new.length) (State.requested_supply hp c lba))
  have hp' : s.free ++ s.lru = p :: ps := hp
  refine ⟨⟨p, n, lba, .filling none⟩ :: new, ?_, ?_, ?_, ?_, ?_, ?_⟩
  · rintro e (_ | ⟨_, he⟩)
    · exact ⟨rfl, rfl⟩
    · exact hnew e he
  · rw [List.map_cons, htaken, hp']
    rfl
  · rw [hfree, List.length_cons]
    show s.free.tail.drop new.length = _
    rw [List.drop_tail]
  · rw [hlru, List.length_cons]
    show (if s.free = [] then s.lru.tail else s.lru).drop (new.length - s.free.tail.length) = _
    cases hf : s.free with
    | nil => simp [List.drop_tail]
    | cons q qs => simp
  · refine hentries.trans ?_
    have hcontains : (new.map Entry.page).contains p = false := by
      rw [← Bool.not_eq_true, List.contains_iff_mem, htaken]
      exact fun hm => hnodup (List.mem_of_mem_take hm)
    have hfilter := ((s.requested_entries_perm n c lba p).filter (fun e => !(new.map Entry.page).contains e.page)).trans
      (List.Perm.of_eq (List.filter_cons_of_pos (by simp only [hcontains, Bool.not_false])))
    rw [List.filter_filter] at hfilter
    refine (hfilter.append_left new).trans (List.perm_middle.trans (List.Perm.of_eq ?_))
    rw [List.cons_append, List.map_cons]
    refine congrArg (fun l => _ :: (new ++ l)) (List.filter_congr fun e _ => ?_)
    rw [List.contains_cons, Bool.not_or]
    exact Bool.and_comm _ _
  · have hnd := s.withView_nd n ((s.view n).requested n c lba p)
    rw [hcache, hnd, List.map_cons]
    show ({ (s.nd n).cache with fetches := ((s.nd n).cache.fetches ++ [p]) ++ new.map Entry.page } : NodeCache) = _
    rw [List.append_assoc]
    rfl

/-- The entries in pages that a run of requests does not take stay, as the new ones do. -/
theorem State.ServedFetches.mem_entries (h : s.ServedFetches t n) (he : e ∈ s.entries) (hp : e.page ∉ s.supply) : e ∈ t.entries := by
  obtain ⟨new, -, hpages, -, -, hentries, -⟩ := h
  refine hentries.mem_iff.mpr (List.mem_append_right _ (List.mem_filter.mpr ⟨he, ?_⟩))
  rw [Bool.not_eq_true', ← Bool.not_eq_true, List.contains_iff_mem, hpages]
  exact fun hm => hp (List.mem_of_mem_take hm)

/-! ### The block list -/

theorem Command.mark_list (c : Command) (lba : Nat) (st : BlockStatus) :
    (c.mark lba st).list = c.list.map (fun b => if b.lba = lba then { b with status := st } else b) := rfl

theorem Command.mark_lbas (c : Command) (lba : Nat) (st : BlockStatus) :
    (c.mark lba st).list.map BlockPlace.lba = c.list.map BlockPlace.lba := by
  rw [Command.mark_list, List.map_map]
  exact List.map_congr_left fun b _ => by rw [Function.comp_apply]; split <;> rfl

/-- The block that makes the next request of a READ. -/
theorem Command.wanting_eq_some (hw : c.wanting = some lba) : c.write = false ∧ ∃ b ∈ c.list, b.lba = lba ∧ b.status = .wanting := by
  unfold Command.wanting at hw
  split at hw
  · cases hw
  · next hwrite =>
    obtain ⟨b, hb, hlba⟩ := Option.map_eq_some_iff.mp hw
    exact ⟨by simpa using hwrite, b, List.mem_of_find?_eq_some hb, hlba, by simpa using List.find?_some hb⟩

theorem Command.wanting_eq_none (hwrite : c.write = false) (hw : c.wanting = none) : ∀ b ∈ c.list, b.status ≠ .wanting := by
  unfold Command.wanting at hw
  rw [if_neg (by rw [hwrite]; exact Bool.false_ne_true), Option.map_eq_none_iff] at hw
  exact fun b hb hst => List.find?_eq_none.mp hw b hb (by simpa using hst)

theorem Command.block_unique (hc : (c.list.map BlockPlace.lba).Nodup) {b b' : BlockPlace} (hb : b ∈ c.list) (hb' : b' ∈ c.list)
    (h : b.lba = b'.lba) : b = b' := List.inj_on_of_nodup_map hc hb hb' h

/-- The number of blocks that want an entry. -/
def Command.wants (c : Command) : Nat := c.list.countP (fun b => b.status == .wanting)

theorem Command.wants_mark_lt (hb : b ∈ c.list) (hst : b.status = .wanting) : (c.mark b.lba .waiting).wants < c.wants := by
  rw [Command.wants, Command.wants, Command.mark_list, List.countP_map]
  obtain ⟨x, y, hxy⟩ := List.append_of_mem hb
  have hle (l : List BlockPlace) : l.countP ((fun b => b.status == .wanting) ∘ fun b' => if b'.lba = b.lba then { b' with status := .waiting } else b') ≤
      l.countP (fun b => b.status == .wanting) := List.countP_mono_left fun a _ ha => by
    rw [Function.comp_apply] at ha
    split at ha
    · cases ha
    · exact ha
  rw [hxy, List.countP_append, List.countP_append, List.countP_cons_of_neg (by simp), List.countP_cons_of_pos (by simp [hst])]
  have := hle x
  have := hle y
  omega

/-! ### A run of requests -/

/-- What the requests of the list of a READ `c` lead to: the entries that the pool has had pages for, and what has become of the
blocks. -/
structure State.Served (s t : State) (n : NodeId) (c : Command) : Prop where
  frame : t = s.withView n (t.view n)
  fetches : s.ServedFetches t n
  cap : t.fillingCount n ≤ Config.fillingCap
  media : ∃ list, (t.nd n).media = { (s.nd n).media with current := some { c with list := list } } ∧
    List.Forall₂ (t.BlockServed n) c.list list

theorem State.servedFetches_nil (s : State) (n : NodeId) : s.ServedFetches s n :=
  ⟨[], nofun, by simp, rfl, by simp, by simp, by simp⟩

/-- No request is made: the list stays as it is. -/
theorem State.served_refl (hc : (s.nd n).media.current = some c) (hcap : s.fillingCount n ≤ Config.fillingCap)
    (h : ∀ b ∈ c.list, b.status = .wanting → s.fillingCount n = Config.fillingCap ∨ s.supply = []) : s.Served s n c where
  frame := (s.withView_view n).symm
  fetches := s.servedFetches_nil n
  cap := hcap
  media := by
    refine ⟨c.list, by rw [← hc], List.forall₂_same.mpr fun b hb => ⟨rfl, fun _ => rfl, fun hst => .inr ⟨hst, ?_⟩⟩⟩
    exact (h b hb hst).imp_right List.append_eq_nil_iff.mp

/-- The blocks as the run that follows the first request finds them. -/
theorem State.blockServed_of_mark (hc : (c.list.map BlockPlace.lba).Nodup) (hb : b ∈ c.list) (hst : b.status = .wanting)
    (hentry : ∃ e ∈ t.entries, e.node = n ∧ e.lba = b.lba ∧ e.state = .filling none) {list : List BlockPlace}
    (h : List.Forall₂ (t.BlockServed n) (c.mark b.lba .waiting).list list) : List.Forall₂ (t.BlockServed n) c.list list := by
  rw [Command.mark_list, List.forall₂_map_left_iff] at h
  refine List.Forall₂.imp (fun a a' haa => ?_) ((List.forall₂_and_left _ _).mpr ⟨fun a ha => ha, h⟩)
  obtain ⟨ha, hlba, hkeeps, hserved⟩ := haa
  by_cases hal : a.lba = b.lba
  · obtain rfl := Command.block_unique hc ha hb hal
    rw [if_pos rfl] at hlba hkeeps
    exact ⟨hlba, fun hne => absurd hst hne, fun _ => .inl ⟨hkeeps (by nofun), hentry⟩⟩
  · rw [if_neg hal] at hlba hkeeps hserved
    exact ⟨hlba, hkeeps, hserved⟩

/-- The requests of a READ's list, with as many turns as blocks want an entry (R92, R93). -/
theorem State.serveRequests_served (k : Nat) (hs : s.Stocked) (hc : (s.nd n).media.current = some c) (hw : c.write = false)
    (hl : (c.list.map BlockPlace.lba).Nodup) (hcap : s.fillingCount n ≤ Config.fillingCap) (hk : c.wants ≤ k) :
    s.Served (State.serveRequests k n s) n c := by
  induction k generalizing s c with
  | zero =>
    refine State.served_refl hc hcap fun b hb hst => ?_
    have hnone := List.countP_eq_zero.mp (Nat.le_zero.mp hk) b hb
    exact absurd (by simpa using hst) hnone
  | succ k ih =>
    cases hwanting : c.wanting with
    | none =>
      have hnone : s.serveRequest n = none := State.serveRequest_eq_none fun d hd lba hlba => by
        rw [← Option.some.inj (hc.symm.trans hd), hwanting] at hlba
        cases hlba
      rw [State.serveRequests, hnone]
      exact State.served_refl hc hcap fun b hb hst => absurd hst (Command.wanting_eq_none hw hwanting b hb)
    | some lba =>
      obtain ⟨-, b, hb, rfl, hst⟩ := Command.wanting_eq_some hwanting
      by_cases hstop : s.fillingCount n = Config.fillingCap ∨ s.supply = []
      · have hnone : s.serveRequest n = none := State.serveRequest_eq_none fun _ _ _ _ => hstop.imp_left fun heq => Nat.le_of_eq heq.symm
        rw [State.serveRequests, hnone]
        exact State.served_refl hc hcap fun _ _ _ => hstop
      · obtain ⟨hlt, hsome⟩ := not_or.mp hstop
        obtain ⟨p, ps, hp⟩ := List.exists_cons_of_ne_nil hsome
        have hlt : s.fillingCount n < Config.fillingCap := Nat.lt_of_le_of_ne hcap hlt
        rw [State.serveRequests, State.serveRequest_eq_some hs hc hwanting hlt hp]
        obtain ⟨s', hs'⟩ : ∃ s', s' = s.withView n ((s.view n).requested n c b.lba p) := ⟨_, rfl⟩
        have hnd : (s'.nd n).media = { (s.nd n).media with current := some (c.mark b.lba .waiting) } := by
          rw [hs', State.withView_nd]
          rfl
        have hrest : s'.Served (State.serveRequests k n s') n (c.mark b.lba .waiting) := by
          refine ih (hs' ▸ State.requested_stocked hs hp c b.lba) (by rw [hnd]) hw ?_ ?_ ?_
          · rw [Command.mark_lbas]
            exact hl
          · exact hs' ▸ (s.requested_fillingCount n c b.lba p).trans hlt
          · exact Nat.le_of_lt_succ ((Command.wants_mark_lt hb hst).trans_le hk)
        dsimp only
        rw [← hs']
        obtain ⟨list, hmedia, hblocks⟩ := hrest.media
        have hnew : (⟨p, n, b.lba, .filling none⟩ : Entry) ∈ (State.serveRequests k n s').entries := by
          refine hrest.fetches.mem_entries (hs' ▸ (s.requested_entries_perm n c b.lba p).mem_iff.mpr (List.mem_cons_self ..)) ?_
          rw [hs', State.requested_supply hp]
          exact (List.nodup_cons.mp (hp ▸ hs.1)).1
        have hfetches := hrest.fetches
        obtain ⟨t, ht⟩ : ∃ t, t = State.serveRequests k n s' := ⟨_, rfl⟩
        rw [← ht] at hrest hfetches hmedia hblocks hnew ⊢
        rw [hs'] at hfetches
        refine ⟨?_, State.servedFetches_cons hs hp hfetches, hrest.cap, list, ?_,
          State.blockServed_of_mark hl hb hst ⟨_, hnew, rfl, rfl, rfl⟩ hblocks⟩
        · have hframe := hrest.frame
          rw [hs', State.withView_withView] at hframe
          exact hframe
        · rw [hmedia, hnd]
          rfl

/-- One request writes the media side of its node alone, whatever the pool holds; of the media it marks the list. -/
theorem State.serveRequest_frame (h : s.serveRequest n = some t) : ∃ c, (s.nd n).media.current = some c ∧ t = s.withView n (t.view n) ∧
    ∃ list : List BlockPlace, list.map BlockPlace.lba = c.list.map BlockPlace.lba ∧
      (t.nd n).media = { (s.nd n).media with current := some { c with list := list } } := by
  rcases s.serveRequest_cases n with hnone | ⟨c, lba, p, r, hc, -, -, hg, hsome⟩
  · rw [hnone] at h
    cases h
  · have ht := Option.some.inj (h.symm.trans hsome)
    have hr := State.getPage_frame hg
    have hview : r = s.withView n { s.view n with free := r.free, lru := r.lru, entries := r.entries } := by
      refine hr.trans ?_
      exact congrArg (fun u : State => { u with free := r.free, lru := r.lru, entries := r.entries }) (s.withView_view n).symm
    have hmedia : (r.nd n).media = (s.nd n).media := by rw [hr]; rfl
    rw [State.newFilling_eq_withView, State.mapCommand_eq_withView, State.view_withView, State.withView_withView, State.withView_nd] at ht
    have hcurrent : ((r.view n).newFilling n lba p).media = (s.nd n).media := hmedia
    rw [hcurrent, hc] at ht
    refine ⟨c, hc, ?_, (c.mark lba .waiting).list, c.mark_lbas lba .waiting, ?_⟩
    · rw [ht, State.view_withView, hview, State.withView_withView]
    · rw [ht, State.withView_nd]
      rfl

/-- The same of a run of requests. -/
theorem State.serveRequests_frame (k : Nat) (hc : (s.nd n).media.current = some c) :
    State.serveRequests k n s = s.withView n ((State.serveRequests k n s).view n) ∧
      ∃ list : List BlockPlace, list.map BlockPlace.lba = c.list.map BlockPlace.lba ∧
        ((State.serveRequests k n s).nd n).media = { (s.nd n).media with current := some { c with list := list } } := by
  have hself : s = s.withView n (s.view n) ∧ ∃ list : List BlockPlace, list.map BlockPlace.lba = c.list.map BlockPlace.lba ∧
      (s.nd n).media = { (s.nd n).media with current := some { c with list := list } } :=
    ⟨(s.withView_view n).symm, c.list, rfl, by rw [← hc]⟩
  induction k generalizing s c with
  | zero => exact hself
  | succ k ih =>
    rw [State.serveRequests]
    cases hserve : s.serveRequest n with
    | none => exact hself
    | some t =>
      obtain ⟨d, hd, hframe, list, hlbas, hmedia⟩ := State.serveRequest_frame hserve
      obtain rfl := Option.some.inj (hc.symm.trans hd)
      have hcurrent : (t.nd n).media.current = some { c with list := list } := by rw [hmedia]
      obtain ⟨hrest, list', hlbas', hmedia'⟩ := ih hcurrent ⟨(t.withView_view n).symm, list, rfl, by rw [← hcurrent]⟩
      dsimp only
      refine ⟨?_, list', hlbas'.trans hlbas, hmedia'.trans (by rw [hmedia])⟩
      rw [hframe, State.withView_withView, ← hframe] at hrest
      exact hrest

end

end Sys2Proof.Machine
end


section
/-! PROOFS. The node's port: the commands answered at once, the checks of a READ or WRITE, and its first blocks (O52). -/

namespace Sys2Proof.Machine

set_option Elab.async false

section
variable {s t u : State} {n m : NodeId} {c d : Command} {x : Medium} {b : BlockPlace} {lba count : Nat} {write : Bool} {e : Entry}

/-! ### Blocks join (R92, R93) -/

/-- The command with the next blocks at the back of its list, each of a READ with what it finds. -/
def Command.joined (look : Nat → BlockStatus) (c : Command) : Command :=
  { c with
    list := c.list ++ (List.range' (c.lba + c.finished + c.list.length) c.joining).map
      (fun l => { lba := l, status := if c.write then .ready else look l }) }

theorem State.joinBlocks_eq (hc : (s.nd n).media.current = some c) : s.joinBlocks n =
    s.withView n { s.view n with media := { (s.nd n).media with current := some (c.joined (s.lookUp n)) } } := by
  have hlist : (List.range c.joining).map (fun i =>
      ({ lba := c.lba + c.finished + c.list.length + i
         status := if c.write then .ready else s.lookUp n (c.lba + c.finished + c.list.length + i) } : BlockPlace)) =
      (List.range' (c.lba + c.finished + c.list.length) c.joining).map
        (fun l => { lba := l, status := if c.write then .ready else s.lookUp n l }) := by
    rw [List.range'_eq_map_range, List.map_map]
    rfl
  rw [State.joinBlocks, State.mapMedia_eq_withView, hc, Option.map_some]
  dsimp only
  rw [hlist]
  rfl

/-- The blocks in the list are the next ones of the command, in LBA order (R92). -/
def Command.InOrder (c : Command) : Prop :=
  c.list.map BlockPlace.lba = List.range' (c.lba + c.finished) c.list.length

theorem Command.InOrder.nodup (h : c.InOrder) : (c.list.map BlockPlace.lba).Nodup := h ▸ List.nodup_range'

theorem State.CommandLaw.inOrder (h : s.CommandLaw n) (hc : (s.nd n).media.current = some c) : c.InOrder := by
  obtain ⟨-, -, -, -, horder, -⟩ := h c hc
  refine List.ext_getElem (by simp) fun i h1 h2 => ?_
  rw [List.getElem_map, List.getElem_range', Nat.one_mul]
  exact horder i _ (List.getElem?_eq_getElem (by simpa using h1))

theorem Command.InOrder.joined (h : c.InOrder) (look : Nat → BlockStatus) : (c.joined look).InOrder := by
  unfold Command.InOrder at h ⊢
  simp only [Command.joined, List.map_append, List.map_map, List.length_append, List.length_map, List.length_range', h]
  have hlba : BlockPlace.lba ∘ (fun l => ({ lba := l, status := if c.write then .ready else look l } : BlockPlace)) = id := rfl
  rw [hlba, List.map_id]
  have happend := List.range'_append (s := c.lba + c.finished) (m := c.list.length) (n := c.joining) (step := 1)
  rw [Nat.one_mul] at happend
  exact happend

theorem Command.joined_length (hplaces : c.list.length ≤ Config.listPlaces) (hcount : c.finished + c.list.length ≤ c.count)
    (look : Nat → BlockStatus) : (c.joined look).list.length = min Config.listPlaces (c.count - c.finished) := by
  simp only [Command.joined, List.length_append, List.length_map, List.length_range', Command.joining]
  omega

/-- What a block finds (R93). -/
theorem State.lookUp_eq (hs : s.slot n = some x) (lba : Nat) : s.lookUp n lba =
    if inRanges x.zero lba = true then .ready
    else match s.entryFor n lba with
      | none => .wanting
      | some e => if e.state.isFilling then .waiting else .ready := by
  rw [State.lookUp, hs]
  rfl

theorem State.entryFor_eq_some_iff (h : (s.entries.map (fun e => (e.node, e.lba))).Nodup) :
    s.entryFor n lba = some e ↔ e ∈ s.entries ∧ e.node = n ∧ e.lba = lba := by
  have hkey {f : Entry} (hfound : s.entryFor n lba = some f) : f ∈ s.entries ∧ f.node = n ∧ f.lba = lba := by
    have hf := List.find?_some hfound
    exact ⟨List.mem_of_find?_eq_some hfound, by simpa using hf⟩
  constructor
  · exact hkey
  · rintro ⟨he, hn, hlba⟩
    cases hfound : s.entryFor n lba with
    | none => exact absurd (List.find?_eq_none.mp hfound e he) (by simp [hn, hlba])
    | some f =>
      obtain ⟨hf, hfn, hflba⟩ := hkey hfound
      rw [List.inj_on_of_nodup_map h hf he (by rw [hfn, hflba, hn, hlba])]

theorem State.entryFor_eq_none_iff : s.entryFor n lba = none ↔ ∀ e ∈ s.entries, ¬(e.node = n ∧ e.lba = lba) := by
  rw [State.entryFor, List.find?_eq_none]
  simp

/-! ### Answers at once (R72 to R75, R78, R84) -/

theorem State.portFree_iff : s.portFree n = true ↔ s.connected n = true ∧ (s.nd n).media.current = none := by
  simp [State.portFree]

/-- The part with another slot and an answer at the port of node `n`. -/
def State.portAnswered (s : State) (n : NodeId) (x : Option Medium) (st : NodeStatus) (d : PortData) : State :=
  s.setNd n { s.nd n with media := { (s.nd n).media with slot := x, last := st, out := { status := some st, data := d } } }

theorem State.answer_eq_portAnswered (s : State) (n : NodeId) (st : NodeStatus) (d : PortData) :
    s.answer n st d = s.portAnswered n (s.slot n) st d := rfl

theorem State.tellChanged_eq (hs : s.slot n = some x) :
    s.tellChanged n = s.portAnswered n (some { x with changed := false }) .mediumChanged .nothing := by
  have hslot : (s.nd n).media.slot = some x := hs
  rw [State.tellChanged, State.answer_eq, State.mapSlot, State.mapMedia, hslot]
  simp only [State.nd_setNd_same, State.portAnswered, Option.map_some]
  exact State.setNd_setNd _ _ _ _

theorem State.readyMedium_eq_some (hs : s.slot n = some x) (hx : x.state = .ready) : s.readyMedium n = some x := by
  rw [State.readyMedium, hs]
  exact if_pos hx

theorem State.readyMedium_eq_none (h : ∀ x, s.slot n = some x → x.state ≠ .ready) : s.readyMedium n = none := by
  rw [State.readyMedium]
  cases hs : s.slot n with
  | none => rfl
  | some x => exact if_neg (h x hs)

theorem State.exec_port {i : Instr} {f : State → State} (hi : exec i s = .next (if s.portFree n then f s else s)) :
    (s.connected n = true → (s.nd n).media.current = none → exec i s = .next (f s)) ∧
      (s.connected n = false ∨ (s.nd n).media.current ≠ none → exec i s = .next s) := by
  refine ⟨fun hc hcurrent => hi.trans (by rw [if_pos (State.portFree_iff.mpr ⟨hc, hcurrent⟩)]), fun hbusy => hi.trans ?_⟩
  rw [if_neg]
  rw [State.portFree_iff, not_and_or]
  exact hbusy.imp_left fun h => by rw [h]; exact Bool.false_ne_true

/-- A command of the port, whichever it is, is taken where the port is free. -/
theorem exec_portCommand (n : NodeId) (lba : Word) (count : Half) (s : State) :
    ∀ i ∈ [Instr.invalidCommand n, .ready n, .capacity n, .eject n, .sense n, .read n lba count, .write n lba count],
      ∃ f : State → State, exec i s = .next (if s.portFree n then f s else s) := by
  intro i hi
  simp only [List.mem_cons, List.not_mem_nil, or_false] at hi
  rcases hi with rfl | rfl | rfl | rfl | rfl | rfl | rfl
  · exact ⟨fun s => s.answer n .invalidRequest, rfl⟩
  · exact ⟨fun s => s.answerReady n, rfl⟩
  · exact ⟨fun s => s.answerCapacity n, rfl⟩
  · exact ⟨fun s => s.answerEject n, rfl⟩
  · exact ⟨fun s => s.answerSense n, rfl⟩
  · exact ⟨fun s => s.takeCommand n false lba.toNat count.toNat, rfl⟩
  · exact ⟨fun s => s.takeCommand n true lba.toNat count.toNat, rfl⟩

theorem State.tearDown_eq (s : State) (n : NodeId) : s.tearDown n = s.setNd n { s.nd n with media :=
    if (s.nd n).media.current.isSome then { (s.nd n).media with
      current := none, received := none, last := .good, out := { status := none, data := .nothing } } else (s.nd n).media } := by
  rw [State.tearDown]
  split
  · rfl
  · exact (s.setNd_nd n).symm

/-! ### The checks of a READ or WRITE (R72, R78, R87) -/

theorem protects_iff {l : List Range} {lba count : Nat} : protects l lba count = true ↔
    ∃ r ∈ l, ∃ b, lba ≤ b ∧ b < lba + count ∧ r.covers b = true := by
  simp only [protects, List.any_eq_true, decide_eq_true_eq, Range.covers]
  refine exists_congr fun r => and_congr_right fun _ => ⟨fun h => ⟨max lba r.first, ?_⟩, fun ⟨b, h1, h2, h3, h4⟩ => ?_⟩
  · omega
  · omega

/-- The first check that fails, of a READY slot. -/
theorem State.checkCommand_ready (hs : s.slot n = some x) (hx : x.state = .ready) (hcount : count ≠ 0) :
    s.checkCommand n write lba count =
      if x.changed = true then some .mediumChanged
      else if x.capacity < lba + count then some .lbaRange
      else if write = true ∧ (x.policy = .readOnly ∨ protects x.protect lba count = true) then some .writeProtected
      else none := by
  rw [State.checkCommand, if_neg hcount, State.readyMedium_eq_some hs hx]

theorem State.takeCommand_fails {st : NodeStatus} (h : s.checkCommand n write lba count = some st) (hst : st ≠ .mediumChanged) :
    s.takeCommand n write lba count = s.portAnswered n (s.slot n) st .nothing := by
  rw [State.takeCommand, h]
  cases st with
  | mediumChanged => exact absurd rfl hst
  | good | notReady | lbaRange | writeProtected | mediumError | timedOut | invalidRequest => rfl

theorem State.takeCommand_changed (h : s.checkCommand n write lba count = some .mediumChanged) (hs : s.slot n = some x) :
    s.takeCommand n write lba count = s.portAnswered n (some { x with changed := false }) .mediumChanged .nothing := by
  rw [State.takeCommand, h]
  exact State.tellChanged_eq hs

/-! ### A command begins (R92) -/

/-- The command that a READ or WRITE becomes, before blocks join. -/
def Command.fresh (write : Bool) (lba count : Nat) : Command :=
  { write := write, lba := lba, count := count, finished := 0, list := [], unstored := 0 }

/-- The record of the media with command `c` and an empty latch. -/
def Media.begun (c : Command) (m : Media) : Media := { m with current := some c, out := { status := none, data := .nothing } }

theorem State.beginCommand_eq (s : State) (n : NodeId) (write : Bool) (lba count : Nat) : s.beginCommand n write lba count =
    State.serveRequests Config.listPlaces n (s.withView n { s.view n with
      media := (s.nd n).media.begun ((Command.fresh write lba count).joined (s.lookUp n)) }) := by
  have hbegun : s.mapMedia n (fun m => m.begun (Command.fresh write lba count)) = s.withView n { s.view n with
        media := (s.nd n).media.begun (Command.fresh write lba count) } := State.mapMedia_eq_withView _
  have hlook : (s.withView n { s.view n with media := (s.nd n).media.begun (Command.fresh write lba count) }).lookUp n = s.lookUp n := by
    have hslot : (s.withView n { s.view n with media := (s.nd n).media.begun (Command.fresh write lba count) }).slot n = s.slot n := by
      rw [State.slot, State.withView_nd]
      rfl
    funext l
    rw [State.lookUp, State.lookUp, hslot]
    rfl
  rw [State.beginCommand, State.fillList]
  refine congrArg (State.serveRequests Config.listPlaces n) ?_
  refine (congrArg (fun u : State => u.joinBlocks n) hbegun).trans ?_
  rw [State.joinBlocks_eq (c := Command.fresh write lba count) (by rw [State.withView_nd]; rfl), State.view_withView,
    State.withView_withView, State.withView_nd, hlook]
  rfl

theorem Command.fresh_joined_lbas (write : Bool) (lba count : Nat) (look : Nat → BlockStatus) :
    ((Command.fresh write lba count).joined look).list.map BlockPlace.lba = List.range' lba (min 64 count) := by
  have horder : (Command.fresh write lba count).InOrder := rfl
  rw [horder.joined look, Command.joined_length (Nat.zero_le _) (Nat.zero_le _)]
  rfl

theorem forall₂_mem_right {α β : Type} {r : α → β → Prop} {l : List α} {k : List β} (h : List.Forall₂ r l k) {y : β} (hy : y ∈ k) :
    ∃ x ∈ l, r x y := by
  induction h with
  | nil => cases hy
  | cons hxy _ ih =>
    rcases List.mem_cons.mp hy with rfl | hy
    · exact ⟨_, List.mem_cons_self .., hxy⟩
    · obtain ⟨x, hx, hr⟩ := ih hy
      exact ⟨x, List.mem_cons_of_mem _ hx, hr⟩

/-- The first blocks of a READ have made their requests. -/
theorem State.readBegun_served (hp : s.PageLaw) (hc : s.CacheLaw) (lba count : Nat) :
    (s.withView n { s.view n with media := (s.nd n).media.begun ((Command.fresh false lba count).joined (s.lookUp n)) }).Served
      (s.beginCommand n false lba count) n ((Command.fresh false lba count).joined (s.lookUp n)) := by
  have hlength := Command.joined_length (c := Command.fresh false lba count) (Nat.zero_le _) (Nat.zero_le _) (s.lookUp n)
  have hwants : ((Command.fresh false lba count).joined (s.lookUp n)).wants ≤ Config.listPlaces :=
    List.countP_le_length.trans (hlength.trans_le (Nat.min_le_left _ _))
  have horder : (Command.fresh false lba count).InOrder := rfl
  have hcap : s.fillingCount n ≤ Config.fillingCap := (hc.2.2.2.2 n).2.2.2.2.1
  rw [State.beginCommand_eq]
  refine State.serveRequests_served Config.listPlaces ?_ ?_ rfl (horder.joined _).nodup hcap hwants
  · exact hp.stocked
  · rw [State.withView_nd]
    rfl

/-- Where the pool has as many free pages as the node may fill entries, no entry is evicted. -/
theorem State.Served.entries_kept (h : s.Served t n c) (hs : s.Stocked) (hfree : Config.fillingCap ≤ s.free.length) (he : e ∈ s.entries) :
    e ∈ t.entries := by
  obtain ⟨new, hnew, hpages, -, -, hentries, -⟩ := h.fetches
  have hfilling : new.length ≤ t.fillingCount n := by
    rw [State.fillingCount, State.countEntries, hentries.countP_eq, List.countP_append]
    refine (List.countP_eq_length.mpr fun e he => ?_).symm.le.trans (Nat.le_add_right _ _)
    obtain ⟨hn, hst⟩ := hnew e he
    simp [hn, hst, EntryState.isFilling]
  have hlength : new.length ≤ s.free.length := (hfilling.trans h.cap).trans hfree
  refine hentries.mem_iff.mpr (List.mem_append_right _ (List.mem_filter.mpr ⟨he, ?_⟩))
  rw [Bool.not_eq_true', ← Bool.not_eq_true, List.contains_iff_mem, hpages, List.take_append_of_le_length hlength]
  exact fun hm => hs.2 e.page (List.mem_of_mem_take hm) (List.mem_map_of_mem he)

/-- An entry that a run of requests has made is in the pending fetch list. -/
theorem State.ServedFetches.new_entry (h : s.ServedFetches t n) (he : e ∈ t.entries) (hnew : e ∉ s.entries) :
    e.node = n ∧ e.state = .filling none ∧ e.page ∈ (t.nd n).cache.fetches := by
  obtain ⟨new, hall, -, -, -, hentries, hcache⟩ := h
  have hmem : e ∈ new := (List.mem_append.mp (hentries.mem_iff.mp he)).resolve_right fun h => hnew (List.mem_filter.mp h).1
  obtain ⟨hn, hst⟩ := hall e hmem
  refine ⟨hn, hst, ?_⟩
  rw [hcache]
  exact List.mem_append_right _ (List.mem_map_of_mem hmem)

/-- What has become of a block that has joined and made its request, by what it found (R92, R93). -/
theorem State.Served.joined_block (h : s.Served t n c) (hblocks : (s.entries.map (fun e => (e.node, e.lba))).Nodup)
    (hs : s.slot n = some x) {l : Nat} {b : BlockPlace} (hb : t.BlockServed n ⟨l, s.lookUp n l⟩ b) :
    (inRanges x.zero b.lba = true → b.status = .ready) ∧
      (inRanges x.zero b.lba = false → ∀ e ∈ s.entries, e.node = n → e.lba = b.lba →
        b.status = if e.state.isFilling then .waiting else .ready) ∧
      (inRanges x.zero b.lba = false → (∀ e ∈ s.entries, ¬(e.node = n ∧ e.lba = b.lba)) →
        (b.status = .waiting ∧ ∃ e ∈ t.entries, e.node = n ∧ e.lba = b.lba ∧ e.state = .filling none ∧
          e.page ∈ (t.nd n).cache.fetches) ∨
        (b.status = .wanting ∧ (t.fillingCount n = 32 ∨ (t.free = [] ∧ t.lru = [])))) := by
  obtain ⟨rfl, hkeeps, hserved⟩ := hb
  rw [State.lookUp_eq hs] at hkeeps hserved
  refine ⟨fun hzero => ?_, fun hzero e he hn hlba => ?_, fun hzero hnone => ?_⟩
  · rw [if_pos hzero] at hkeeps
    exact hkeeps (by nofun)
  · have hentry := (State.entryFor_eq_some_iff hblocks).mpr ⟨he, hn, hlba⟩
    rw [if_neg (by rw [hzero]; exact Bool.false_ne_true), hentry] at hkeeps
    refine hkeeps ?_
    dsimp only
    split <;> nofun
  · rw [if_neg (by rw [hzero]; exact Bool.false_ne_true), State.entryFor_eq_none_iff.mpr hnone] at hserved
    refine (hserved rfl).imp_left fun ⟨hst, e, he, hn, hlba, hfill⟩ => ⟨hst, e, he, hn, hlba, hfill, ?_⟩
    exact (h.fetches.new_entry he fun hold => hnone e hold ⟨hn, hlba⟩).2.2

/-- A READ or WRITE that passes its checks (R87, R92). -/
theorem State.commandBegun {lba : Nat} {count : Nat} (hs : s.slot n = some x) (write : Bool) : ∃ c,
    s.OnlyMedia (s.beginCommand n write lba count) n ∧ (s.beginCommand n write lba count).mem = s.mem ∧
      (s.beginCommand n write lba count).link = s.link ∧ (s.beginCommand n write lba count).clock = s.clock ∧
      ((s.beginCommand n write lba count).nd n).media = (s.nd n).media.begun c ∧
      c = { c with write := write, lba := lba, count := count, finished := 0, unstored := 0 } ∧
      c.list.map BlockPlace.lba = List.range' lba (min 64 count) ∧
      (write = true → (∀ b ∈ c.list, b.status = .ready) ∧ s.OnlyNode (s.beginCommand n write lba count) n ∧
        ((s.beginCommand n write lba count).nd n).cache = (s.nd n).cache) ∧
      (write = false → s.PageLaw → s.CacheLaw →
        (s.free.length ≥ 32 → ∀ e ∈ s.entries, e ∈ (s.beginCommand n write lba count).entries) ∧ ∀ b ∈ c.list,
          (inRanges x.zero b.lba = true → b.status = .ready) ∧
          (inRanges x.zero b.lba = false → ∀ e ∈ s.entries, e.node = n → e.lba = b.lba →
            b.status = if e.state.isFilling then .waiting else .ready) ∧
          (inRanges x.zero b.lba = false → (∀ e ∈ s.entries, ¬(e.node = n ∧ e.lba = b.lba)) →
            (b.status = .waiting ∧ ∃ e ∈ (s.beginCommand n write lba count).entries, e.node = n ∧ e.lba = b.lba ∧
              e.state = .filling none ∧ e.page ∈ ((s.beginCommand n write lba count).nd n).cache.fetches) ∨
            (b.status = .wanting ∧ ((s.beginCommand n write lba count).fillingCount n = 32 ∨
              ((s.beginCommand n write lba count).free = [] ∧ (s.beginCommand n write lba count).lru = []))))) := by
  obtain ⟨u, hu⟩ : ∃ u, u = s.withView n { s.view n with
    media := (s.nd n).media.begun ((Command.fresh write lba count).joined (s.lookUp n)) } := ⟨_, rfl⟩
  have hund : (u.nd n).media = (s.nd n).media.begun ((Command.fresh write lba count).joined (s.lookUp n)) := by
    rw [hu, State.withView_nd]
  have hcurrent : (u.nd n).media.current = some ((Command.fresh write lba count).joined (s.lookUp n)) := by rw [hund]; rfl
  have hbegin : s.beginCommand n write lba count = State.serveRequests Config.listPlaces n u := by rw [hu]; exact s.beginCommand_eq n write lba count
  obtain ⟨hframe, list, hlbas, hmedia⟩ := State.serveRequests_frame Config.listPlaces hcurrent
  rw [← hbegin] at hframe hmedia
  have hview : s.beginCommand n write lba count = s.withView n ((s.beginCommand n write lba count).view n) := by
    rw [hu, State.withView_withView] at hframe
    exact hframe
  refine ⟨{ Command.fresh write lba count with list := list }, hview.symm ▸ s.withView_onlyMedia n _, by rw [hview]; rfl, by rw [hview]; rfl,
    by rw [hview]; rfl, ?_, rfl, hlbas.trans (Command.fresh_joined_lbas write lba count _), fun hw => ?_, fun hw hp hc => ?_⟩
  · rw [hmedia, hund]
    rfl
  · subst hw
    have hsame : s.beginCommand n true lba count = u := hbegin.trans (State.serveRequests_write hcurrent rfl _)
    have hlist : list = ((Command.fresh true lba count).joined (s.lookUp n)).list := by
      rw [hsame, hund] at hmedia
      exact (congrArg Command.list (Option.some.inj (congrArg Media.current hmedia))).symm
    refine ⟨fun b hb => ?_, ?_, ?_⟩
    · rw [hlist] at hb
      obtain ⟨l, -, rfl⟩ := List.mem_map.mp hb
      rfl
    · rw [hsame, hu, State.OnlyNode, State.withView_nd]
      rfl
    · rw [hsame, hu, State.withView_nd]
      rfl
  · subst hw
    have hserved := State.readBegun_served (n := n) hp hc lba count
    rw [← hu] at hserved
    obtain ⟨list', hmedia', hblocks⟩ := hserved.media
    have hlist : list' = list := by
      rw [hmedia] at hmedia'
      exact (congrArg Command.list (Option.some.inj (congrArg Media.current hmedia'))).symm
    have hstocked : u.Stocked := by rw [hu]; exact hp.stocked
    have huentries : u.entries = s.entries := by rw [hu]; rfl
    have hufree : u.free = s.free := by rw [hu]; rfl
    refine ⟨fun hfree e he => hserved.entries_kept hstocked (hufree ▸ hfree) (huentries ▸ he), fun b hb => ?_⟩
    obtain ⟨a, ha, hserve⟩ := forall₂_mem_right hblocks (hlist ▸ hb)
    obtain ⟨l, -, rfl⟩ := List.mem_map.mp ha
    have huslot : u.slot n = some x := by
      rw [State.slot, hund]
      exact hs
    have hlook : u.lookUp n = s.lookUp n := by
      funext l
      rw [State.lookUp, State.lookUp, huslot, hs, State.entryFor, huentries]
      rfl
    have hblock := hserved.joined_block (huentries ▸ hc.2.1) huslot (l := l) (b := b) (by rw [hlook]; exact hserve)
    rw [huentries] at hblock
    exact hblock

/-- Settles O52: each command by the state of the port and of the slot; a READ or WRITE by its checks in their order. -/
theorem portAnswersAndChecksCommands : Obligations.PortAnswersAndChecksCommands := by
  refine ⟨fun s n => rfl, fun s n => ?_, fun s n lba count hbusy i hi => ?_, fun s n hconnected hcurrent => ?_⟩
  · intro m torn
    have htorn : s.tearDown n = s.setNd n { s.nd n with media := torn } := s.tearDown_eq n
    refine ⟨congrArg Host.Outcome.next ?_, fun hc => congrArg Host.Outcome.next ?_, fun hc => congrArg Host.Outcome.next ?_⟩
    · rw [htorn, State.mapMedia, State.nd_setNd_same, State.setNd_setNd]
    · rw [if_pos hc, htorn]
    · rw [if_neg (by rw [hc]; exact Bool.false_ne_true)]
  · obtain ⟨f, hf⟩ := exec_portCommand n lba count s i hi
    exact (State.exec_port hf).2 hbusy
  · intro m answered
    have htaken {i : Instr} {f : State → State} (hi : exec i s = .next (if s.portFree n then f s else s)) : exec i s = .next (f s) :=
      (State.exec_port hi).1 hconnected hcurrent
    have hready : exec (.ready n) s = .next (s.answerReady n) := htaken (f := fun s => s.answerReady n) rfl
    have hcapacity : exec (.capacity n) s = .next (s.answerCapacity n) := htaken (f := fun s => s.answerCapacity n) rfl
    have heject : exec (.eject n) s = .next (s.answerEject n) := htaken (f := fun s => s.answerEject n) rfl
    refine ⟨htaken (f := fun s => s.answer n .invalidRequest) rfl, ?_, fun x hs hx => ⟨?_, ?_⟩, fun hne => ⟨?_, ?_⟩, fun hs => ?_,
      fun x hs hx => ?_, fun x hs hx => ⟨fun hw => ?_, ?_⟩, fun write lba count => ?_⟩
    · refine (htaken (f := fun s => s.answerSense n) rfl).trans (congrArg Host.Outcome.next ?_)
      rw [State.answerSense, State.answer_eq_portAnswered]
      cases hlast : (s.nd n).media.last <;> rfl
    · rw [hcapacity, State.answerCapacity, State.readyMedium_eq_some hs hx]
      rfl
    · rw [hready, State.answerReady, State.readyMedium_eq_some hs hx]
      dsimp only
      split
      · rw [State.tellChanged_eq hs]
        rfl
      · rfl
    · rw [hcapacity, State.answerCapacity, State.readyMedium_eq_none hne]
      rfl
    · rw [hready, State.answerReady, State.readyMedium_eq_none hne]
      rfl
    · have hslot : s.slot n = none := hs
      rw [heject, State.answerEject, hslot]
      dsimp only
      rw [State.answer_eq_portAnswered, hslot]
      rfl
    · have hslot : s.slot n = some x := hs
      rw [heject, State.answerEject, hslot]
      dsimp only
      rw [if_neg (by rw [hx]; exact Bool.false_ne_true)]
      rfl
    · have hslot : s.slot n = some x := hs
      rw [heject, State.answerEject, hslot]
      dsimp only
      rw [if_pos hx, State.drain_noop fun y hy => Option.some.inj (hslot.symm.trans hy) ▸ hw]
      rfl
    · have hslot : s.slot n = some x := hs
      have hanswer : s.answerEject n = (s.drain n).answer n .good := by
        rw [State.answerEject, hslot]
        exact if_pos hx
      refine ⟨_, heject.trans (congrArg Host.Outcome.next hanswer), rfl, fun k hk => ?_, ?_, ?_, ?_⟩
      · rw [State.answer_eq, State.nd_setNd_ne _ _ hk]
        exact ((State.drain_changes s n).2 k hk).1
      · rw [State.answer_eq, State.nd_setNd_same]
      · rw [State.slot, State.answer_eq, State.nd_setNd_same]
        rfl
      · rw [State.answer_eq, State.nd_setNd_same]
    · intro i
      have hi : exec i s = .next (s.takeCommand n write lba.toNat count.toNat) := by
        cases write with
        | false => exact htaken (f := fun s => s.takeCommand n false lba.toNat count.toNat) rfl
        | true => exact htaken (f := fun s => s.takeCommand n true lba.toNat count.toNat) rfl
      have hzero : count.toNat = 0 ↔ count = 0 := by
        rw [← BitVec.toNat_inj]
        rfl
      refine ⟨fun h0 => ?_, fun h0 hne => ?_, fun x h0 hs hx => ?_⟩
      · rw [hi, State.takeCommand_fails (st := .invalidRequest) (by rw [State.checkCommand, if_pos (hzero.mpr h0)]) (by nofun)]
        rfl
      · rw [hi, State.takeCommand_fails (st := .notReady)
          (by rw [State.checkCommand, if_neg (mt hzero.mp h0), State.readyMedium_eq_none hne]) (by nofun)]
        rfl
      · intro reached fits refused
        have hslot : s.slot n = some x := hs
        have hcheck := State.checkCommand_ready (write := write) (lba := lba.toNat) hslot hx (mt hzero.mp h0)
        have hrefused : refused ↔ (write = true ∧ (x.policy = .readOnly ∨ protects x.protect lba.toNat count.toNat = true)) := by
          rw [protects_iff]
        refine ⟨fun hchanged => ?_, fun hsame hout => ?_, fun hsame hin hprotected => ?_, fun hsame hin hopen => ?_⟩
        · rw [if_pos (by simpa [reached] using hchanged)] at hcheck
          rw [hi, State.takeCommand_changed hcheck hslot]
          rfl
        all_goals rw [if_neg (by rw [show x.changed = false from hsame]; exact Bool.false_ne_true)] at hcheck
        · rw [if_pos (Nat.not_le.mp hout)] at hcheck
          rw [hi, State.takeCommand_fails hcheck (by nofun)]
          rfl
        all_goals rw [if_neg (Nat.not_lt.mpr hin)] at hcheck
        · rw [if_pos (hrefused.mp hprotected)] at hcheck
          rw [hi, State.takeCommand_fails hcheck (by nofun)]
          rfl
        · rw [if_neg (mt hrefused.mpr hopen)] at hcheck
          obtain ⟨c, hbegun⟩ := State.commandBegun (lba := lba.toNat) (count := count.toNat) hslot write
          have hbegin : s.takeCommand n write lba.toNat count.toNat = s.beginCommand n write lba.toNat count.toNat := by
            rw [State.takeCommand, hcheck]
          exact ⟨_, c, hi.trans (congrArg Host.Outcome.next hbegin), hbegun⟩

end

end Sys2Proof.Machine
end


section
/-! PROOFS. The blocks of a READ: delivery, read-ahead, and the requests that wait for room (O53). -/

namespace Sys2Proof.Machine

set_option Elab.async false

section
variable {s t u : State} {n m : NodeId} {c d : Command} {x : Medium} {b : BlockPlace} {rest : List BlockPlace} {k lba count p : Nat}
  {e : Entry} {bytes : List Byte} {ps : List Nat}

/-! ### The frame of a service step -/

/-- The media side of node `n` alone has changed, and not its slot. -/
structure State.Within (s t : State) (n : NodeId) : Prop where
  frame : t = s.withView n (t.view n)
  slot : t.slot n = s.slot n

theorem State.Within.refl (s : State) (n : NodeId) : s.Within s n := ⟨(s.withView_view n).symm, rfl⟩

theorem State.Within.trans (h : s.Within t n) (k : t.Within u n) : s.Within u n := by
  refine ⟨?_, k.slot.trans h.slot⟩
  have hframe := k.frame
  rw [h.frame, State.withView_withView] at hframe
  exact hframe

theorem State.within_withView {v : MediaView} (h : v.media.slot = s.slot n) : s.Within (s.withView n v) n := by
  refine ⟨by rw [State.view_withView], ?_⟩
  rw [State.slot, State.withView_nd]
  exact h

theorem State.within_serveRequests (k : Nat) (s : State) (n : NodeId) : s.Within (State.serveRequests k n s) n := by
  cases hc : (s.nd n).media.current with
  | none =>
    have hnone : s.serveRequest n = none := State.serveRequest_eq_none fun c h => by rw [hc] at h; cases h
    cases k with
    | zero => exact .refl s n
    | succ k =>
      rw [State.serveRequests, hnone]
      exact .refl s n
  | some c =>
    obtain ⟨hframe, list, -, hmedia⟩ := State.serveRequests_frame k hc
    refine ⟨hframe, ?_⟩
    rw [State.slot, hmedia]
    rfl

/-! ### Read-ahead (R68, R121) -/

/-- What read-ahead over the `k` blocks from `lba` on leaves: FILLING entries in free pages alone, for every block that has none and
is not in the zero table, as far as the cap and the free pages reach. -/
structure State.ReadAhead (s t : State) (n : NodeId) (x : Medium) (lba k : Nat) : Prop where
  frame : t = s.withView n (t.view n)
  media : (t.nd n).media = (s.nd n).media
  lru : t.lru = s.lru
  free : t.free ⊆ s.free
  kept : ∀ e ∈ s.entries, e ∈ t.entries
  new : ∀ e ∈ t.entries, e ∉ s.entries → e.node = n ∧ e.state = .filling none ∧ e.page ∈ s.free ∧ lba ≤ e.lba ∧
    e.lba < min x.capacity (lba + k) ∧ inRanges x.zero e.lba = false
  complete : t.fillingCount n < Config.fillingCap → t.free ≠ [] → ∀ l, lba ≤ l → l < min x.capacity (lba + k) →
    inRanges x.zero l = false → ∃ e ∈ t.entries, e.node = n ∧ e.lba = l

theorem State.readAhead_stop (h : s.fillingCount n < Config.fillingCap → s.free ≠ [] → ∀ l, lba ≤ l → l < min x.capacity (lba + k) →
    inRanges x.zero l = false → ∃ e ∈ s.entries, e.node = n ∧ e.lba = l) : s.ReadAhead s n x lba k where
  frame := (s.withView_view n).symm
  media := rfl
  lru := rfl
  free := List.Subset.refl _
  kept := fun _ he => he
  new := fun _ he hnew => absurd he hnew
  complete := h

/-- A block that needs no entry, or has one, is passed over. -/
theorem State.ReadAhead.skip (h : s.ReadAhead t n x (lba + 1) k)
    (hlba : inRanges x.zero lba = false → ∃ e ∈ t.entries, e.node = n ∧ e.lba = lba) : s.ReadAhead t n x lba (k + 1) where
  frame := h.frame
  media := h.media
  lru := h.lru
  free := h.free
  kept := h.kept
  new := fun e he hnew => by
    obtain ⟨hn, hst, hpage, hle, hlt, hzero⟩ := h.new e he hnew
    exact ⟨hn, hst, hpage, by omega, by omega, hzero⟩
  complete := fun hcap hfree l hle hlt hzero => by
    rcases Nat.eq_or_lt_of_le hle with rfl | hlt'
    · exact hlba hzero
    · exact h.complete hcap hfree l hlt' (by omega) hzero

theorem State.takeFree_cons {p : Nat} {ps : List Nat} (h : s.free = p :: ps) : s.takeFree = some (p, { s with free := ps }) := by
  rw [State.takeFree, h]

/-- A block receives the lowest free page, and read-ahead goes on. -/
theorem State.ReadAhead.fill (hp : s.free = p :: ps) (hlt : lba < x.capacity) (hzero : inRanges x.zero lba = false)
    (h : (({ s with free := ps } : State).newFilling n lba p).ReadAhead t n x (lba + 1) k) : s.ReadAhead t n x lba (k + 1) := by
  obtain ⟨hframe, hmedia, hlru, hfree, hkept, hnew, hcomplete⟩ := h
  have hview : ({ s with free := ps } : State).newFilling n lba p = s.withView n ({ s.view n with free := ps }.newFilling n lba p) := rfl
  have hperm : (({ s with free := ps } : State).newFilling n lba p).entries.Perm (⟨p, n, lba, .filling none⟩ :: s.entries) :=
    insertEntry_perm _ _
  have hkept' : ∀ e ∈ s.entries, e ∈ t.entries := fun e he => hkept e (hperm.mem_iff.mpr (List.mem_cons_of_mem _ he))
  have hmine : (⟨p, n, lba, .filling none⟩ : Entry) ∈ t.entries := hkept _ (hperm.mem_iff.mpr (List.mem_cons_self ..))
  have hsub : ps ⊆ s.free := by rw [hp]; exact List.subset_cons_self ..
  refine ⟨?_, hmedia.trans ?_, hlru, fun q hq => hsub (hfree hq), hkept', fun e he hold => ?_, fun hcap hne l hle hll hz => ?_⟩
  · rw [hview, State.withView_withView] at hframe
    exact hframe
  · rw [hview, State.withView_nd]
    rfl
  · by_cases hfirst : e = ⟨p, n, lba, .filling none⟩
    · subst hfirst
      exact ⟨rfl, rfl, by rw [hp]; exact List.mem_cons_self .., Nat.le_refl _, by dsimp only; omega, hzero⟩
    · have hnot : e ∉ (({ s with free := ps } : State).newFilling n lba p).entries := fun hm =>
        (List.mem_cons.mp (hperm.mem_iff.mp hm)).elim hfirst hold
      obtain ⟨hn, hst, hpage, hle, hlt', hz⟩ := hnew e he hnot
      exact ⟨hn, hst, hsub hpage, by omega, by omega, hz⟩
  · rcases Nat.eq_or_lt_of_le hle with rfl | hlt'
    · exact ⟨_, hmine, rfl, rfl⟩
    · exact hcomplete hcap hne l hlt' (by omega) hz

theorem State.readAhead_readAhead (k lba : Nat) (s : State) (hs : s.slot n = some x) :
    s.ReadAhead (State.readAhead k n lba s) n x lba k := by
  induction k generalizing s lba with
  | zero => exact State.readAhead_stop fun _ _ l hle hlt => by omega
  | succ k ih =>
    rw [State.readAhead, hs]
    dsimp only
    by_cases hcap : x.capacity ≤ lba
    · rw [if_pos hcap]
      exact State.readAhead_stop fun _ _ l hle hlt => by omega
    rw [if_neg hcap]
    by_cases hzero : inRanges x.zero lba = true
    · rw [if_pos hzero]
      exact (ih (lba + 1) s hs).skip fun hz => by rw [hzero] at hz; cases hz
    rw [if_neg hzero]
    by_cases hentry : (s.entryFor n lba).isSome = true
    · rw [if_pos hentry]
      obtain ⟨e, he⟩ := Option.isSome_iff_exists.mp hentry
      have hkey := List.find?_some he
      have hahead := ih (lba + 1) s hs
      exact hahead.skip fun _ => ⟨e, hahead.kept e (List.mem_of_find?_eq_some he), by simpa using hkey⟩
    rw [if_neg hentry]
    by_cases hfill : Config.fillingCap ≤ s.fillingCount n
    · rw [if_pos hfill]
      exact State.readAhead_stop fun h => absurd hfill (Nat.not_le.mpr h)
    rw [if_neg hfill]
    cases hfree : s.free with
    | nil =>
      rw [State.takeFree, hfree]
      exact State.readAhead_stop fun _ h => absurd hfree h
    | cons p ps =>
      rw [State.takeFree_cons hfree]
      refine State.ReadAhead.fill hfree (Nat.not_le.mp hcap) (by simpa using hzero) (ih (lba + 1) _ ?_)
      have hview : ({ s with free := ps } : State).newFilling n lba p = s.withView n ({ s.view n with free := ps }.newFilling n lba p) := rfl
      rw [hview, State.slot, State.withView_nd]
      exact hs

/-! ### A block is delivered (R94, R95, R102) -/

/-- The command without its front block. -/
def Command.advanced (c : Command) : Command := { c with finished := c.finished + 1, list := c.list.tail }

/-- The record of the media with command `c` and a block given. -/
def Media.gave (c : Command) (bytes : List Byte) (m : Media) : Media :=
  { m with current := some c, out := { status := none, data := .block bytes } }

theorem State.delivered_more (h : ¬(c.list.tail = [] ∧ c.finished + 1 = c.count)) (s : State) (n : NodeId) (bytes : List Byte) : s.delivered n c bytes =
    State.serveRequests Config.listPlaces n (s.withView n { s.view n with
      media := (s.nd n).media.gave (c.advanced.joined (s.lookUp n)) bytes }) := by
  obtain ⟨u, hu⟩ : ∃ u, u = s.withView n { s.view n with media := (s.nd n).media.gave c.advanced bytes } := ⟨_, rfl⟩
  have hlook : u.lookUp n = s.lookUp n := by
    have hslot : u.slot n = s.slot n := by
      rw [State.slot, hu, State.withView_nd]
      rfl
    funext l
    rw [State.lookUp, State.lookUp, hslot, hu]
    rfl
  have hcurrent : (u.nd n).media.current = some c.advanced := by
    rw [hu, State.withView_nd]
    rfl
  rw [State.delivered]
  refine (if_neg h).trans ?_
  refine (congrArg (fun v : State => v.fillList n) (State.mapMedia_eq_withView _ |>.trans hu.symm)).trans ?_
  rw [State.fillList, State.joinBlocks_eq hcurrent, hlook, hu, State.view_withView, State.withView_withView, State.withView_nd]
  rfl

/-- The READ has ended GOOD with its last block, before read-ahead. -/
def State.readOver (s : State) (n : NodeId) (bytes : List Byte) : State :=
  s.withView n { s.view n with media := (s.nd n).media.ended .good (.block bytes) }

/-- The same with the continuation point moved and read-ahead made. -/
theorem State.delivered_last (h : c.list.tail = [] ∧ c.finished + 1 = c.count) (s : State) (n : NodeId) (bytes : List Byte) :
    s.delivered n c bytes =
      (if (s.nd n).media.continuation = some c.lba
        then State.readAhead (s.set n).tuning.readAhead n (c.lba + c.count) (s.readOver n bytes)
        else s.readOver n bytes).mapMedia n (fun m => { m with continuation := some (c.lba + c.count) }) := by
  obtain ⟨u, hu⟩ : ∃ u, u = s.withView n { s.view n with media := { (s.nd n).media with current := some c.advanced } } := ⟨_, rfl⟩
  have hcontinuation : (u.nd n).media.continuation = (s.nd n).media.continuation := by
    rw [hu, State.withView_nd]
  have hend : u.endCommand n .good (.block bytes) = s.readOver n bytes := by
    rw [State.endCommand_eq_withView, hu, State.view_withView, State.withView_withView, State.withView_nd]
    rfl
  have hset : u.set n = s.set n := by rw [hu]; rfl
  rw [State.delivered]
  refine (if_pos h).trans ?_
  refine (congrArg (fun v : State => v.endRead n c.advanced (.block bytes)) (State.mapMedia_eq_withView _ |>.trans hu.symm)).trans ?_
  rw [State.endRead]
  simp only [hcontinuation, hend, hset]
  rfl

/-- The end of a READ, as read-ahead over as many blocks as it makes, none where the READ did not begin at the continuation
point. -/
theorem State.readAhead_over (hs : s.slot n = some x) (c : Command) (bytes : List Byte) :
    (s.readOver n bytes).ReadAhead (if (s.nd n).media.continuation = some c.lba
        then State.readAhead (s.set n).tuning.readAhead n (c.lba + c.count) (s.readOver n bytes)
        else s.readOver n bytes) n x (c.lba + c.count)
      (if (s.nd n).media.continuation = some c.lba then (s.set n).tuning.readAhead else 0) := by
  have hslot : (s.readOver n bytes).slot n = some x := by
    rw [State.readOver, State.slot, State.withView_nd]
    exact hs
  by_cases hcontinues : (s.nd n).media.continuation = some c.lba
  · rw [if_pos hcontinues, if_pos hcontinues]
    exact State.readAhead_readAhead _ _ _ hslot
  · rw [if_neg hcontinues, if_neg hcontinues]
    exact State.readAhead_stop fun _ _ l hle hlt => by omega

theorem State.ReadAhead.within (h : s.ReadAhead t n x lba k) : s.Within t n :=
  ⟨h.frame, congrArg Media.slot h.media⟩

theorem State.within_mapMedia (s : State) (n : NodeId) {f : Media → Media} (hf : (f (s.nd n).media).slot = (s.nd n).media.slot) :
    s.Within (s.mapMedia n f) n := by
  rw [State.mapMedia_eq_withView]
  exact State.within_withView hf

theorem State.within_delivered (hs : s.slot n = some x) (c : Command) (bytes : List Byte) : s.Within (s.delivered n c bytes) n := by
  by_cases hlast : c.list.tail = [] ∧ c.finished + 1 = c.count
  · have hover : s.Within (s.readOver n bytes) n := State.within_withView rfl
    rw [State.delivered_last hlast]
    exact (hover.trans (State.readAhead_over hs c bytes).within).trans (State.within_mapMedia _ n rfl)
  · have hgave : s.Within (s.withView n { s.view n with media := (s.nd n).media.gave (c.advanced.joined (s.lookUp n)) bytes }) n :=
      State.within_withView rfl
    rw [State.delivered_more hlast]
    exact hgave.trans (State.within_serveRequests _ _ _)

/-- The front block of a READ, whatever it finds. -/
theorem State.within_deliverFront (hs : s.slot n = some x) (c : Command) (b : BlockPlace) : s.Within (s.deliverFront n c b) n := by
  have hmark (st : BlockStatus) : s.Within (s.mapCommand n (fun c => c.mark b.lba st)) n := State.within_mapMedia _ n rfl
  unfold State.deliverFront
  split
  · exact State.within_delivered hs c zeroBlock
  · split
    · exact (hmark .wanting).trans (State.within_serveRequests _ _ _)
    · next e _ =>
      split
      · exact hmark .waiting
      · have huse : s.Within (s.useEntry e.page) n := by
          refine ⟨?_, rfl⟩
          exact congrArg (fun u : State => { u with lru := without e.page s.lru ++ [e.page] }) (s.withView_view n).symm
        exact huse.trans (State.within_delivered (huse.slot.trans hs) c _)
      · exact State.within_delivered hs c _
      · exact State.within_delivered hs c _

/-! ### What the front block finds (R94) -/

/-- The part after its LRU list has become `l`. -/
def State.withLru (s : State) (l : List Nat) : State := { s with lru := l }

theorem State.PageLaw.withLru (h : s.PageLaw) {l : List Nat} (hl : l.Perm s.lru) : (s.withLru l).PageLaw := by
  obtain ⟨hperm, hsorted, hlru, hmem⟩ := h
  exact ⟨hperm, hsorted, hl.nodup_iff.mpr hlru, fun p hp => hmem p (hl.mem_iff.mp hp)⟩

theorem moved_perm {p : Nat} {l : List Nat} (hl : l.Nodup) (hp : p ∈ l) : (l.filter (fun q => q != p) ++ [p]).Perm l := by
  have herase : l.filter (fun q => q != p) = l.erase p := (List.Nodup.erase_eq_filter hl p).symm
  rw [herase]
  exact List.perm_append_comm.trans (List.perm_cons_erase hp).symm

/-- The LRU list after the data of the block has been looked up: an entry that is VALID and has been used is the most recent. -/
def State.lruUsed (s : State) (n : NodeId) (zero : Bool) (lba : Nat) : List Nat :=
  match (s.entryFor n lba).filter (fun e => e.state == .valid && !zero) with
  | none => s.lru
  | some e => s.lru.filter (fun q => q != e.page) ++ [e.page]

theorem State.lruUsed_zero (s : State) (n : NodeId) (lba : Nat) : s.lruUsed n true lba = s.lru := by
  rw [State.lruUsed]
  cases s.entryFor n lba with
  | none => rfl
  | some e => simp

theorem State.lruUsed_of_entry (h : s.entryFor n lba = some e) : s.lruUsed n false lba =
    if e.state = .valid then s.lru.filter (fun q => q != e.page) ++ [e.page] else s.lru := by
  rw [State.lruUsed, h]
  by_cases hv : e.state = .valid
  · simp [hv, Option.filter]
  · simp [hv, Option.filter]

theorem State.CacheLaw.lruUsed_perm (h : s.CacheLaw) (n : NodeId) (zero : Bool) (lba : Nat) : (s.lruUsed n zero lba).Perm s.lru := by
  obtain ⟨-, hblocks, hnodup, hmem, -⟩ := h
  cases zero with
  | true => rw [State.lruUsed_zero]
  | false =>
    cases hentry : s.entryFor n lba with
    | none => rw [State.lruUsed, hentry]; exact List.Perm.refl _
    | some e =>
      rw [State.lruUsed_of_entry hentry]
      split
      · next hv =>
        exact moved_perm hnodup ((hmem e.page).mpr ⟨e, ((State.entryFor_eq_some_iff hblocks).mp hentry).1, rfl, hv⟩)
      · exact List.Perm.refl _

/-- The front block is delivered: zero bytes, or the data of its entry. -/
theorem State.deliverFront_zero (hs : s.slot n = some x) (hzero : inRanges x.zero b.lba = true) (c : Command) :
    s.deliverFront n c b = (s.withLru (s.lruUsed n true b.lba)).delivered n c zeroBlock := by
  rw [State.deliverFront, hs, State.lruUsed_zero]
  exact if_pos hzero

theorem State.deliverFront_entry (hs : s.slot n = some x) (hzero : inRanges x.zero b.lba = false) (hentry : s.entryFor n b.lba = some e)
    (hfilling : e.state.isFilling = false) (c : Command) :
    s.deliverFront n c b = (s.withLru (s.lruUsed n false b.lba)).delivered n c (s.mem.page e.page) := by
  have hout : ¬((s.slot n).map (fun m => inRanges m.zero b.lba)).getD false = true := by
    rw [hs]
    simpa using hzero
  rw [State.deliverFront, if_neg hout, hentry, State.lruUsed_of_entry hentry]
  dsimp only
  cases hst : e.state with
  | filling d => rw [hst] at hfilling; cases hfilling
  | valid => rfl
  | dirty => rfl
  | flushing q r d => rfl

/-! ### The list moves on (R92, R93) -/

theorem Command.InOrder.advanced (h : c.InOrder) (hl : c.list = b :: rest) : c.advanced.InOrder := by
  have hlist : c.advanced.list = rest := congrArg List.tail hl
  rw [Command.InOrder, hl, List.map_cons, List.length_cons, List.range'_succ] at h
  rw [Command.InOrder, hlist]
  exact (List.cons.inj h).2

theorem State.BlockServed.lbas {l l' : List BlockPlace} (h : List.Forall₂ (t.BlockServed n) l l') :
    l'.map BlockPlace.lba = l.map BlockPlace.lba := by
  induction h with
  | nil => rfl
  | cons hb _ ih => rw [List.map_cons, List.map_cons, ih, hb.1]

/-- What a run finds is the pool, the entries and the node's lists. -/
theorem State.ServedFetches.congr (h : s.ServedFetches t n) (hfree : u.free = s.free) (hlru : u.lru = s.lru)
    (hentries : u.entries = s.entries) (hcache : (u.nd n).cache = (s.nd n).cache) : u.ServedFetches t n := by
  rw [State.ServedFetches, hfree, hlru, hentries, hcache]
  exact h

/-- The blocks of a READ when a block before its last has been delivered: the next join at the back, and those that want an entry make
their requests. -/
theorem State.delivered_served (hp : s.PageLaw) (hc : s.CacheLaw) (hcurrent : (s.nd n).media.current = some c)
    (hw : c.write = false) (hl : c.list = b :: rest) (hmore : c.finished + 1 < c.count) {l : List Nat} (hlru : l.Perm s.lru)
    (bytes : List Byte) : ∃ list,
      (((s.withLru l).delivered n c bytes).nd n).media = (s.nd n).media.gave { c.advanced with list := list } bytes ∧
        list.map BlockPlace.lba = List.range' (c.lba + c.finished + 1) (min 64 (c.count - c.finished - 1)) ∧
        (s.withLru l).ServedFetches ((s.withLru l).delivered n c bytes) n ∧
        List.Forall₂ (((s.withLru l).delivered n c bytes).BlockServed n) (c.advanced.joined (s.lookUp n)).list list := by
  obtain ⟨hready, -, hplaces, hcount, -, -⟩ := (hc.2.2.2.2 n).2.2.2.2.2.2.2 c hcurrent
  have horder := ((hc.2.2.2.2 n).2.2.2.2.2.2.2.inOrder hcurrent).advanced hl
  have hlook : (s.withLru l).lookUp n = s.lookUp n := rfl
  have hlength : c.advanced.list.length + 1 = c.list.length := by rw [Command.advanced, hl]; rfl
  have hjoined : (c.advanced.joined (s.lookUp n)).list.length = min 64 (c.count - c.finished - 1) := by
    refine (Command.joined_length ?_ ?_ _).trans ?_
    · omega
    · show c.finished + 1 + c.advanced.list.length ≤ c.count
      omega
    · rfl
  obtain ⟨u, hu⟩ : ∃ u, u = (s.withLru l).withView n { (s.withLru l).view n with
    media := ((s.withLru l).nd n).media.gave (c.advanced.joined (s.lookUp n)) bytes } := ⟨_, rfl⟩
  have hund : (u.nd n).media = (s.nd n).media.gave (c.advanced.joined (s.lookUp n)) bytes := by
    rw [hu, State.withView_nd]
    rfl
  have hdelivered : (s.withLru l).delivered n c bytes = State.serveRequests Config.listPlaces n u := by
    rw [State.delivered_more fun hlast => absurd hlast.2 hmore.ne, hlook, hu]
  have hserved : u.Served (State.serveRequests Config.listPlaces n u) n (c.advanced.joined (s.lookUp n)) := by
    refine State.serveRequests_served _ ?_ ?_ hw (horder.joined _).nodup ?_ ?_
    · rw [hu]
      exact (hp.withLru hlru).stocked
    · rw [hund]
      rfl
    · rw [hu]
      exact (hc.2.2.2.2 n).2.2.2.2.1
    · exact List.countP_le_length.trans (hjoined.trans_le (Nat.min_le_left _ _))
  rw [hdelivered]
  obtain ⟨list, hmedia, hblocks⟩ := hserved.media
  refine ⟨list, ?_, ?_, hserved.fetches.congr ?_ ?_ ?_ ?_, hblocks⟩
  · rw [hmedia, hund]
    rfl
  · rw [State.BlockServed.lbas hblocks, horder.joined, hjoined]
    rfl
  · rw [hu]; rfl
  · rw [hu]; rfl
  · rw [hu]; rfl
  · rw [hu, State.withView_nd]
    rfl

/-! ### A READ ends (R95, R121) -/

/-- What a READ that has ended with its last block leaves. -/
theorem State.delivered_over (hs : s.slot n = some x) (hlast : c.list.tail = [] ∧ c.finished + 1 = c.count) (bytes : List Byte) :
    ((s.delivered n c bytes).nd n).media =
        { (s.nd n).media.ended .good (.block bytes) with continuation := some (c.lba + c.count) } ∧
      (s.delivered n c bytes).lru = s.lru ∧ (∀ e ∈ s.entries, e ∈ (s.delivered n c bytes).entries) ∧
      (∀ e ∈ (s.delivered n c bytes).entries, e ∉ s.entries → e.node = n ∧ e.state = .filling none ∧ e.page ∈ s.free ∧
        (s.nd n).media.continuation = some c.lba ∧ c.lba + c.count ≤ e.lba ∧
        e.lba < min x.capacity (c.lba + c.count + (s.set n).tuning.readAhead) ∧ inRanges x.zero e.lba = false) ∧
      ((s.nd n).media.continuation = some c.lba → (s.delivered n c bytes).fillingCount n < 32 → (s.delivered n c bytes).free ≠ [] →
        ∀ l, c.lba + c.count ≤ l → l < min x.capacity (c.lba + c.count + (s.set n).tuning.readAhead) →
          inRanges x.zero l = false → ∃ e ∈ (s.delivered n c bytes).entries, e.node = n ∧ e.lba = l) := by
  have hahead := State.readAhead_over hs c bytes
  obtain ⟨t, ht⟩ : ∃ t, t = (if (s.nd n).media.continuation = some c.lba
    then State.readAhead (s.set n).tuning.readAhead n (c.lba + c.count) (s.readOver n bytes)
    else s.readOver n bytes) := ⟨_, rfl⟩
  have hmedia : ((s.readOver n bytes).nd n).media = (s.nd n).media.ended .good (.block bytes) := by
    rw [State.readOver, State.withView_nd]
  rw [State.delivered_last hlast]
  rw [← ht] at hahead ⊢
  refine ⟨?_, hahead.lru, hahead.kept, fun e he hnew => ?_, fun hcontinues hcap hfree l hle hlt hzero => ?_⟩
  · rw [State.mapMedia, State.nd_setNd_same, hahead.media, hmedia]
  · obtain ⟨hn, hst, hpage, hle, hlt, hzero⟩ := hahead.new e he hnew
    by_cases hcontinues : (s.nd n).media.continuation = some c.lba
    · rw [if_pos hcontinues] at hlt
      exact ⟨hn, hst, hpage, hcontinues, hle, hlt, hzero⟩
    · rw [if_neg hcontinues] at hlt
      omega
  · have hcomplete := hahead.complete hcap hfree l hle
    rw [if_pos hcontinues] at hcomplete
    exact hcomplete hlt hzero

/-! ### One block marked -/

theorem Command.mark_at {before : List BlockPlace} (hc : c.InOrder) (hl : c.list = before ++ b :: rest) (st : BlockStatus) :
    c.mark b.lba st = { c with list := before ++ { b with status := st } :: rest } := by
  have hnodup := hc.nodup
  rw [hl, List.map_append, List.map_cons] at hnodup
  obtain ⟨-, htail, hdisjoint⟩ := List.nodup_append.mp hnodup
  have hkeep {l : List BlockPlace} (hne : ∀ a ∈ l, a.lba ≠ b.lba) :
      l.map (fun a => if a.lba = b.lba then { a with status := st } else a) = l :=
    (List.map_congr_left fun a ha => if_neg (hne a ha)).trans (List.map_id l)
  have hbefore : ∀ a ∈ before, a.lba ≠ b.lba := fun a ha =>
    hdisjoint a.lba (List.mem_map_of_mem ha) b.lba (List.mem_cons_self ..)
  have hrest : ∀ a ∈ rest, a.lba ≠ b.lba := fun a ha heq => (List.nodup_cons.mp htail).1 (heq ▸ List.mem_map_of_mem ha)
  rw [Command.mark, hl, List.map_append, List.map_cons, if_pos rfl, hkeep hbefore, hkeep hrest]

/-- The first block that wants an entry makes the request. -/
theorem Command.wanting_at {before : List BlockPlace} (hw : c.write = false) (hl : c.list = before ++ b :: rest)
    (hb : b.status = .wanting) (hbefore : ∀ y ∈ before, y.status ≠ .wanting) : c.wanting = some b.lba := by
  have hfind : c.list.find? (fun p => p.status == .wanting) = some b := by
    rw [hl, List.find?_append, List.find?_eq_none.mpr fun y hy => by simpa using hbefore y hy, Option.none_or, List.find?_cons_of_pos (by simp [hb])]
  rw [Command.wanting, if_neg (by rw [hw]; exact Bool.false_ne_true), hfind, Option.map_some]

/-- The front block, which wants an entry now, with the run of requests that follows. -/
theorem State.front_requested (hp : s.PageLaw) (hc : s.CacheLaw) (hcurrent : (s.nd n).media.current = some c)
    (hw : c.write = false) (hl : c.list = b :: rest) : ∃ d r,
      ((State.serveRequests Config.listPlaces n (s.mapCommand n (fun c => c.mark b.lba .wanting))).nd n).media =
          { (s.nd n).media with current := some { c with list := { b with status := d } :: r } } ∧
        ((d = .waiting ∧ ∃ e ∈ (State.serveRequests Config.listPlaces n (s.mapCommand n (fun c => c.mark b.lba .wanting))).entries,
            e.node = n ∧ e.lba = b.lba ∧ e.state = .filling none) ∨
          (d = .wanting ∧ (s.fillingCount n = 32 ∨ s.free ++ s.lru = []))) := by
  obtain ⟨-, -, hplaces, -, -, -⟩ := (hc.2.2.2.2 n).2.2.2.2.2.2.2 c hcurrent
  have horder := (hc.2.2.2.2 n).2.2.2.2.2.2.2.inOrder hcurrent
  have hmark : c.mark b.lba .wanting = { c with list := { b with status := .wanting } :: rest } :=
    Command.mark_at (before := []) horder hl _
  obtain ⟨u, hu⟩ : ∃ u, u = s.mapCommand n (fun c => c.mark b.lba .wanting) := ⟨_, rfl⟩
  have hund : (u.nd n).media = { (s.nd n).media with current := some (c.mark b.lba .wanting) } := by
    rw [hu, State.mapCommand, State.mapMedia, State.nd_setNd_same, hcurrent]
    rfl
  have hucurrent : (u.nd n).media.current = some (c.mark b.lba .wanting) := by rw [hund]
  have hlbas : ((c.mark b.lba .wanting).list.map BlockPlace.lba).Nodup := by
    rw [Command.mark_lbas]
    exact horder.nodup
  have hstocked : u.Stocked := by rw [hu]; exact hp.stocked
  have hcap : u.fillingCount n ≤ Config.fillingCap := by rw [hu]; exact (hc.2.2.2.2 n).2.2.2.2.1
  have hlength : (c.mark b.lba .wanting).list.length ≤ Config.listPlaces := by
    rw [Command.mark_list, List.length_map]
    exact hplaces
  have hwants : (c.mark b.lba .wanting).wants ≤ Config.listPlaces := List.countP_le_length.trans hlength
  have hwanting : (c.mark b.lba .wanting).wanting = some b.lba :=
    Command.wanting_at (before := []) (b := { b with status := .wanting }) (rest := rest) hw (by rw [hmark]; rfl) rfl nofun
  rw [← hu]
  have hserved := State.serveRequests_served Config.listPlaces hstocked hucurrent hw hlbas hcap hwants
  obtain ⟨list, hmedia, hblocks⟩ := hserved.media
  have hhead : (c.mark b.lba .wanting).list = { b with status := .wanting } :: rest := by rw [hmark]
  rw [hhead] at hblocks
  obtain ⟨b', r, ⟨hlba, -, hwas⟩, -, rfl⟩ := List.forall₂_cons_left_iff.mp hblocks
  have hfront : ({ b with status := b'.status } : BlockPlace) = b' := congrArg (fun l => ({ lba := l, status := b'.status } : BlockPlace)) hlba.symm
  refine ⟨b'.status, r, ?_, ?_⟩
  · rw [hfront, hmedia, hund]
    rfl
  by_cases hstop : s.fillingCount n = Config.fillingCap ∨ s.free ++ s.lru = []
  · exact (hwas rfl).imp_right fun h => ⟨h.1, hstop⟩
  · refine (hwas rfl).imp_right fun h => ?_
    obtain ⟨hne, hsome⟩ := not_or.mp hstop
    have husupply : u.supply = s.free ++ s.lru := by rw [hu]; rfl
    obtain ⟨p, ps, hps⟩ := List.exists_cons_of_ne_nil hsome
    have hufill : u.fillingCount n = s.fillingCount n := by rw [hu]; rfl
    have hone := State.serveRequest_eq_some hstocked hucurrent hwanting (Nat.lt_of_le_of_ne hcap (hufill ▸ hne)) (husupply.trans hps)
    obtain ⟨v, hv⟩ : ∃ v, v = u.withView n ((u.view n).requested n (c.mark b.lba .wanting) b.lba p) := ⟨_, rfl⟩
    rw [← hv] at hone
    have hvnd : (v.nd n).media.current = some ((c.mark b.lba .wanting).mark b.lba .waiting) := by
      rw [hv, State.withView_nd]
      rfl
    have hrun : State.serveRequests Config.listPlaces n u = State.serveRequests 63 n v := by
      show State.serveRequests (63 + 1) n u = _
      rw [State.serveRequests, hone]
    have hmem : ({ b with status := .wanting } : BlockPlace) ∈ (c.mark b.lba .wanting).list := by
      rw [hhead]
      exact List.mem_cons_self ..
    have hrest := State.serveRequests_served (s := v) 63 (hv ▸ State.requested_stocked hstocked (husupply.trans hps) _ _) hvnd hw
      (by rw [Command.mark_lbas]; exact hlbas)
      (hv ▸ (u.requested_fillingCount n _ b.lba p).trans (Nat.lt_of_le_of_ne hcap (hufill ▸ hne)))
      (Nat.le_of_lt_succ ((Command.wants_mark_lt hmem rfl).trans_le hwants))
    obtain ⟨list', hmedia', hblocks'⟩ := hrest.media
    rw [← hrun, hmedia] at hmedia'
    have hlists : b' :: r = list' := congrArg Command.list (Option.some.inj (congrArg Media.current hmedia'))
    have hhead' : ((c.mark b.lba .wanting).mark b.lba .waiting).list.head? = some { b with status := .waiting } := by
      rw [Command.mark_list, hhead, List.map_cons, if_pos rfl]
      rfl
    rw [← hlists] at hblocks'
    obtain ⟨a, l, ⟨-, hkept, -⟩, -, hcons⟩ := List.forall₂_cons_right_iff.mp hblocks'
    rw [hcons, List.head?_cons] at hhead'
    obtain rfl := Option.some.inj hhead'
    exact absurd (h.1.symm.trans (hkept (by nofun))) (by nofun)

/-! ### The commands that serve a READ -/

theorem exec_blockDelivery (hheld : s.held = false) (hcurrent : (s.nd n).media.current = some c) (hw : c.write = false)
    (hl : c.list = b :: rest) (hb : b.status = .ready) : exec (.blockDelivery n) s = .next (s.deliverFront n c b) := by
  have hfront : s.readyFront n = some (c, b) := by
    rw [State.readyFront, hcurrent]
    dsimp only
    rw [hl]
    exact if_pos ⟨hw, hb⟩
  exact congrArg Host.Outcome.next (State.given_eq hheld hfront _)

theorem exec_blockDelivery_none (h : ∀ c b r, (s.nd n).media.current = some c → c.write = false → c.list = b :: r → b.status ≠ .ready) :
    exec (.blockDelivery n) s = .next s := by
  have hfront : s.readyFront n = none := by
    unfold State.readyFront
    split
    · rfl
    · next c hc =>
      split
      · rfl
      · next b r hl => exact if_neg fun ⟨hw, hb⟩ => h c b r hc hw hl hb
  exact congrArg Host.Outcome.next (State.given_of_none hfront _)

theorem exec_newEntryRequest_read (hheld : s.held = false) (hreceived : (s.nd n).media.received = none) :
    exec (.newEntryRequest n) s = .next ((s.serveRequest n).getD s) := by
  have hbuffered : s.buffered n = none := by
    rw [State.buffered, hreceived]
    cases (s.nd n).media.current <;> rfl
  have hrequest : s.requestEntry n = (s.serveRequest n).getD s := by
    rw [State.requestEntry, hbuffered]
    cases s.serveRequest n <;> rfl
  refine congrArg Host.Outcome.next ?_
  rw [State.running, if_neg (by rw [hheld]; exact Bool.false_ne_true), hrequest]

/-- The data that a ready front block is delivered with, and the LRU list that its use leaves. -/
theorem State.deliverFront_data (hc : s.CacheLaw) (hs : s.slot n = some x) (c : Command)
    (hdata : (inRanges x.zero b.lba = true ∧ bytes = List.replicate 512 0) ∨
      (inRanges x.zero b.lba = false ∧ ∃ e ∈ s.entries, e.node = n ∧ e.lba = b.lba ∧ e.state.isFilling = false ∧ bytes = s.mem.page e.page)) :
    s.deliverFront n c b = (s.withLru (s.lruUsed n (inRanges x.zero b.lba) b.lba)).delivered n c bytes := by
  rcases hdata with ⟨hzero, rfl⟩ | ⟨hzero, e, he, hn, hlba, hfilling, rfl⟩
  · rw [State.deliverFront_zero hs hzero, hzero]
    rfl
  · rw [State.deliverFront_entry hs hzero ((State.entryFor_eq_some_iff hc.2.1).mpr ⟨he, hn, hlba⟩) hfilling, hzero]

/-- The list that the next blocks have joined, written out. -/
theorem Command.advanced_joined_list (hw : c.write = false) (hl : c.list = b :: rest) (look : Nat → BlockStatus) :
    (c.advanced.joined look).list = rest ++ (List.range' (c.lba + c.finished + 1 + rest.length)
      (min (64 - rest.length) (c.count - c.finished - 1 - rest.length))).map (fun l => (⟨l, look l⟩ : BlockPlace)) := by
  have hwrite : c.advanced.write = false := hw
  have hlist : c.advanced.list = rest := congrArg List.tail hl
  simp only [Command.joined, Command.joining, hwrite, hlist, Bool.false_eq_true, if_false]
  rfl

/-- Settles O53: the front block by what it finds; the list that moves on or the READ that ends; the request that waits for room. -/
theorem readBlocksAreServed : Obligations.ReadBlocksAreServed := by
  refine ⟨fun s n c b rest x hheld hp hc hcurrent hw hl hb hs => ?_, fun s n c b rest x hheld hp hc hcurrent hw hl hb hs hzero => ⟨?_, ?_⟩,
    fun s n h => exec_blockDelivery_none h, fun s n c before rest b hheld hp hc hcurrent hw hl hb hbefore hreceived => ⟨?_, ?_⟩⟩
  · have hwithin := State.within_deliverFront hs c b
    refine ⟨_, exec_blockDelivery hheld hcurrent hw hl hb, hwithin.frame.symm ▸ s.withView_onlyMedia n _, by rw [hwithin.frame]; rfl,
      by rw [hwithin.frame]; rfl, by rw [hwithin.frame]; rfl, hwithin.slot, fun data hdata => ?_⟩
    rw [State.deliverFront_data hc hs c hdata]
    obtain ⟨l, hlru⟩ : ∃ l, l = s.lruUsed n (inRanges x.zero b.lba) b.lba := ⟨_, rfl⟩
    have hperm : l.Perm s.lru := hlru ▸ hc.lruUsed_perm n _ _
    have hcount := ((hc.2.2.2.2 n).2.2.2.2.2.2.2 c hcurrent).2.2.2.1
    rw [hl, List.length_cons] at hcount
    rw [← hlru]
    by_cases hlast : c.finished + 1 = c.count
    · have hrest : rest = [] := List.eq_nil_of_length_eq_zero (by omega)
      obtain ⟨hmedia, hlru', hkept, hnew, hcomplete⟩ :=
        State.delivered_over (s := s.withLru l) hs (c := c) ⟨by rw [hl, hrest]; rfl, hlast⟩ data
      rw [hmedia]
      refine ⟨rfl, fun hlt => absurd hlast hlt.ne, fun _ => ⟨rfl, rfl, rfl, rfl, fun e he hn hlba => ?_, hkept, hnew, hcomplete⟩⟩
      have hentry : s.entryFor n b.lba = some e := (State.entryFor_eq_some_iff hc.2.1).mpr ⟨he, hn, hlba⟩
      rw [hlru']
      refine hlru.trans ?_
      cases hzero : inRanges x.zero b.lba with
      | true => rw [State.lruUsed_zero, if_neg fun h => absurd h.2 (by nofun)]
      | false => rw [State.lruUsed_of_entry hentry]; exact if_congr (by simp) rfl rfl
    · have hmore : c.finished + 1 < c.count := by omega
      obtain ⟨list, hmedia, hlbas, hfetches, hblocks⟩ := State.delivered_served hp hc hcurrent hw hl hmore hperm data
      rw [hmedia]
      refine ⟨rfl, fun _ => ⟨rfl, rfl, rfl, _, rfl, rfl, hlbas, ?_⟩, fun heq => absurd heq hlast⟩
      intro found used look joined u
      have hu : u = s.withLru l := by rw [hlru]; rfl
      have hlook : look = s.lookUp n := funext fun l => (State.lookUp_eq hs l).symm
      rw [Command.advanced_joined_list hw hl, ← hlook] at hblocks
      rw [hu]
      exact ⟨hfetches, hblocks⟩
  · intro e he hn hlba hfilling
    have hentry : s.entryFor n b.lba = some e := (State.entryFor_eq_some_iff hc.2.1).mpr ⟨he, hn, hlba⟩
    have hdeliver : s.deliverFront n c b = s.mapCommand n (fun c => c.mark b.lba .waiting) := by
      have hout : ¬((s.slot n).map (fun m => inRanges m.zero b.lba)).getD false = true := by
        rw [hs]
        simpa using hzero
      rw [State.deliverFront, if_neg hout, hentry]
      dsimp only
      cases hst : e.state with
      | filling d => rfl
      | valid | dirty | flushing => rw [hst] at hfilling; cases hfilling
    have horder := (hc.2.2.2.2 n).2.2.2.2.2.2.2.inOrder hcurrent
    rw [exec_blockDelivery hheld hcurrent hw hl hb, hdeliver, State.mapCommand, State.mapMedia, hcurrent, Option.map_some,
      Command.mark_at (before := []) horder hl]
    rfl
  · intro hnone
    have hdeliver : s.deliverFront n c b =
        State.serveRequests Config.listPlaces n (s.mapCommand n (fun c => c.mark b.lba .wanting)) := by
      have hout : ¬((s.slot n).map (fun m => inRanges m.zero b.lba)).getD false = true := by
        rw [hs]
        simpa using hzero
      rw [State.deliverFront, if_neg hout, State.entryFor_eq_none_iff.mpr hnone]
    obtain ⟨d, r, hmedia, hstatus⟩ := State.front_requested hp hc hcurrent hw hl
    rw [← hdeliver] at hmedia hstatus
    exact ⟨_, d, r, exec_blockDelivery hheld hcurrent hw hl hb, hmedia, hstatus⟩
  · intro hstop
    have hnone : s.serveRequest n = none := State.serveRequest_eq_none fun _ _ _ _ => hstop.imp_left fun h => Nat.le_of_eq h.symm
    rw [exec_newEntryRequest_read hheld hreceived, hnone]
    rfl
  · intro p hcap hhead
    obtain ⟨ps, hps⟩ : ∃ ps, s.supply = p :: ps := by
      obtain ⟨ps, hps⟩ := List.head?_eq_some_iff.mp hhead
      exact ⟨ps, hps⟩
    have horder := (hc.2.2.2.2 n).2.2.2.2.2.2.2.inOrder hcurrent
    have hone := State.serveRequest_eq_some hp.stocked hcurrent (Command.wanting_at hw hl hb hbefore) hcap hps
    refine ⟨s.withView n ((s.view n).requested n c b.lba p), ?_, s.withView_onlyMedia n _, rfl, rfl, rfl, rfl, rfl,
      s.requested_entries_perm n c b.lba p, ?_, ?_⟩
    · rw [exec_newEntryRequest_read hheld hreceived, hone]
      rfl
    · rw [State.withView_nd]
      rfl
    · rw [State.withView_nd, ← Command.mark_at horder hl]
      rfl

end

end Sys2Proof.Machine
end


section
/-! PROOFS. The blocks of a WRITE: how a buffered block is accepted by what its LBA has in the cache (O54). -/

namespace Sys2Proof.Machine

set_option Elab.async false

section
variable {s t u : State} {n m : NodeId} {v : MediaView} {c d : Command} {x : Medium} {b : BlockPlace} {rest : List BlockPlace}
  {lba p : Nat} {e : Entry} {bytes data : List Byte} {ps : List Nat} {mem : Memory}

/-! ### The buffer memory beside the media side -/

/-- The part with another buffer memory. -/
def State.withMem (s : State) (mem : Memory) : State := { s with mem := mem }

theorem State.withMem_withView (s : State) (mem : Memory) (n : NodeId) (v : MediaView) :
    (s.withMem mem).withView n v = (s.withView n v).withMem mem := rfl

theorem State.view_withMem (s : State) (mem : Memory) (n : NodeId) : (s.withMem mem).view n = s.view n := rfl

/-- A written block leaves the zero table (R91). -/
def Media.rewritten (lba : Nat) (m : Media) : Media :=
  { m with slot := m.slot.map (fun x => { x with zero := removeBlock x.zero lba }) }

theorem State.placeBlock_eq (s : State) (n : NodeId) (lba p : Nat) (bytes : List Byte) : s.placeBlock n lba p bytes =
    (s.withView n { s.view n with media := (s.nd n).media.rewritten lba }).withMem (s.mem.writePage p bytes) := rfl

/-! ### A block is accepted (R92, R96, R97, R120) -/

/-- The command after its front block has been accepted under policy `w`, with the next blocks of its list. -/
def Command.afterBlock (w : WritePolicy) (c : Command) : Command :=
  ({ c.advanced with unstored := if w = .acked then c.unstored + 1 else c.unstored } : Command).joined (fun _ => .ready)

/-- The record of the media after command `c` has had its front block accepted; under CACHED its last block ends it. -/
def Media.took (w : WritePolicy) (c : Command) (m : Media) : Media :=
  if c.finished + 1 = c.count ∧ w ≠ .acked then ({ m with received := none } : Media).ended .good .nothing
  else { m with received := none, current := some (c.afterBlock w) }

theorem Command.joined_write (hw : c.write = true) (look : Nat → BlockStatus) : c.joined look = c.joined (fun _ => .ready) := by
  simp only [Command.joined, hw, if_true]

theorem State.ackedPolicy_eq (hs : s.slot n = some x) : s.ackedPolicy n = (x.policy == .acked) := by
  rw [State.ackedPolicy, hs]

theorem State.accepted_eq (hcurrent : (s.nd n).media.current = some c) (hw : c.write = true) (hs : s.slot n = some x) :
    s.accepted n = s.withView n { s.view n with media := (s.nd n).media.took x.policy c } := by
  obtain ⟨d, hd⟩ : ∃ d : Command, d = { c.advanced with unstored := if x.policy = .acked then c.unstored + 1 else c.unstored } :=
    ⟨_, rfl⟩
  have hunstored : (if s.ackedPolicy n then c.unstored + 1 else c.unstored) = if x.policy = .acked then c.unstored + 1 else c.unstored := by
    rw [State.ackedPolicy_eq hs]
    simp only [beq_iff_eq]
  obtain ⟨y, hy⟩ : ∃ y : Media, y = { (s.nd n).media with received := none, current := some d } := ⟨_, rfl⟩
  obtain ⟨r, hr⟩ : ∃ r, r = s.withView n { s.view n with media := y } := ⟨_, rfl⟩
  have hrnd : (r.nd n).media = y := by rw [hr, State.withView_nd]
  have hjoined : r.joinBlocks n = s.withView n { s.view n with media := { y with current := some (c.afterBlock x.policy) } } := by
    rw [State.joinBlocks_eq (c := d) (by rw [hrnd, hy]), hrnd, Command.joined_write (by rw [hd]; exact hw), hd, hr, State.view_withView,
      State.withView_withView]
    rfl
  obtain ⟨q, hq⟩ : ∃ q, q = s.withView n { s.view n with media := { y with current := some (c.afterBlock x.policy) } } := ⟨_, rfl⟩
  have hqnd : (q.nd n).media = { y with current := some (c.afterBlock x.policy) } := by rw [hq, State.withView_nd]
  have hqacked : q.ackedPolicy n = (x.policy == .acked) := by
    refine State.ackedPolicy_eq ?_
    rw [State.slot, hqnd, hy]
    exact hs
  have hmap : s.accepted n = (r.joinBlocks n).writeTest n := by
    rw [State.accepted]
    refine congrArg (fun u : State => (u.joinBlocks n).writeTest n) ?_
    rw [State.mapMedia_eq_withView, hcurrent, Option.map_some, hr, hy, hd, hunstored]
    rfl
  have hends : ((c.afterBlock x.policy).write = true ∧ (c.afterBlock x.policy).finished = (c.afterBlock x.policy).count ∧
      (q.ackedPolicy n = false ∨ (c.afterBlock x.policy).unstored = 0)) ↔ (c.finished + 1 = c.count ∧ x.policy ≠ .acked) := by
    rw [hqacked]
    by_cases hacked : x.policy = .acked
    · simp [Command.afterBlock, Command.joined, Command.advanced, hacked]
    · simp [Command.afterBlock, Command.joined, Command.advanced, hacked, hw]
  rw [hmap, hjoined, ← hq, State.writeTest, hqnd]
  dsimp only
  rw [if_congr hends rfl rfl, Media.took]
  split
  · rw [State.endCommand_eq_withView, hqnd, hq, State.view_withView, State.withView_withView, hy]
    rfl
  · rw [hq, hy]

/-- The same where the block has been placed first, whatever else the media side holds then. -/
theorem State.accepted_placed (hcurrent : v.media.current = some c) (hw : c.write = true) (hs : v.media.slot = some x) :
    ((s.withView n v).withMem mem).accepted n = (s.withView n { v with media := v.media.took x.policy c }).withMem mem := by
  have hnd : ((s.withView n v).withMem mem).nd n = { s.nd n with media := v.media, cache := v.cache } := s.withView_nd n v
  rw [State.accepted_eq (c := c) (x := x) (by rw [hnd]; exact hcurrent) hw (by rw [State.slot, hnd]; exact hs), hnd, State.view_withMem,
    State.view_withView, State.withMem_withView, State.withView_withView]

/-! ### The block finds no entry (R96) -/

/-- A DIRTY entry is created in page `p` (R100, R110). -/
def MediaView.newDirty (n : NodeId) (lba p : Nat) (v : MediaView) : MediaView :=
  { v with
    entries := insertEntry ⟨p, n, lba, .dirty⟩ v.entries
    cache := { v.cache with queue := v.cache.queue ++ [p] } }

theorem State.acceptNew_waits (h : Config.dirtyCap ≤ s.unstoredCount n ∨ s.supply = []) : s.acceptNew n lba bytes = s := by
  rw [State.acceptNew]
  rcases h with hcap | hempty
  · exact if_pos (decide_eq_true hcap)
  · rw [s.getPage_eq_none.mpr hempty, ite_self]

theorem State.acceptNew_eq (hp : s.PageLaw) (hcurrent : (s.nd n).media.current = some c) (hw : c.write = true) (hs : s.slot n = some x)
    (hcap : s.unstoredCount n < Config.dirtyCap) (hps : s.supply = p :: ps) : s.acceptNew n lba bytes =
      (s.withView n { ((s.view n).supplied p).newDirty n lba p with media := ((s.nd n).media.rewritten lba).took x.policy c }).withMem
        (s.mem.writePage p bytes) := by
  have hslot : (s.nd n).media.slot = some x := hs
  have hplaced : ((s.withView n ((s.view n).supplied p)).placeBlock n lba p bytes).newDirty n lba p =
      (s.withView n { ((s.view n).supplied p).newDirty n lba p with media := (s.nd n).media.rewritten lba }).withMem
        (s.mem.writePage p bytes) := by
    have hdirty (u : State) : u.newDirty n lba p = u.withView n ((u.view n).newDirty n lba p) := rfl
    rw [hdirty, State.placeBlock_eq, State.view_withMem, State.withMem_withView, State.view_withView, State.withView_withView,
      State.view_withView, State.withView_withView, State.withView_nd]
    rfl
  rw [State.acceptNew, if_neg (by simpa [State.atDirtyCap] using hcap), State.getPage_eq_supplied hp.stocked n hps]
  dsimp only
  rw [hplaced]
  exact State.accepted_placed (x := { x with zero := removeBlock x.zero lba }) hcurrent hw (congrArg (Option.map _) hslot)

/-! ### The block finds an entry (R96, R109) -/

/-- What an entry's state becomes when its block is written again. -/
def EntryState.overwritten : EntryState → EntryState
  | .flushing q _ d => .flushing q true d
  | _ => .dirty

/-- The block of entry `e` is written again. -/
def MediaView.overwritten (e : Entry) (v : MediaView) : MediaView :=
  { v with
    entries := v.entries.map (fun f => if f.page = e.page then { f with state := e.state.overwritten } else f)
    lru := v.lru.filter (fun q => q != e.page || !e.state.isValid)
    cache := { v.cache with
      fetches := Machine.without e.page v.cache.fetches
      queue := if e.state = .valid ∨ e.state.isFilling = true then v.cache.queue ++ [e.page] else v.cache.queue } }

/-- The lists that hold the page of an entry are those of its state. -/
theorem State.CacheLaw.unlisted (h : s.CacheLaw) (he : e ∈ s.entries) (n : NodeId) :
    (e.state ≠ .filling none → e.page ∉ (s.nd n).cache.fetches) ∧ (e.state.isDirty = false → e.page ∉ (s.nd n).cache.queue) ∧
      (e.state.isFlushing = false → e.page ∉ (s.nd n).cache.outstanding) ∧ (e.state ≠ .valid → e.page ∉ s.lru) := by
  obtain ⟨hpages, -, -, hlru, hnodes⟩ := h
  obtain ⟨hfetches, hqueue, hout, -⟩ := hnodes n
  refine ⟨fun hst => hfetches.page_not_mem hpages he (by simpa using hst), fun hst => hqueue.page_not_mem hpages he hst,
    fun hst => hout.page_not_mem hpages he hst, fun hst hmem => ?_⟩
  obtain ⟨f, hf, hpage, hvalid⟩ := (hlru e.page).mp hmem
  exact hst (State.entry_eq_of_page hpages hf he hpage ▸ hvalid)

theorem State.setEntry_self (hpages : s.entryPages.Nodup) (he : e ∈ s.entries) :
    s.entries.map (fun f => if f.page = e.page then { f with state := e.state } else f) = s.entries := by
  refine (List.map_congr_left fun f hf => ?_).trans (List.map_id _)
  split
  · next hpage => rw [State.entry_eq_of_page hpages hf he hpage]; rfl
  · rfl

/-- A block that would add to the dirty count waits at the cap. -/
theorem State.acceptFront_waits (hentry : s.entryFor n lba = some e) (hst : e.state = .valid ∨ e.state.isFilling = true)
    (hcap : Config.dirtyCap ≤ s.unstoredCount n) : s.acceptFront n lba bytes = s := by
  have hwaits : s.atDirtyCap n = true := decide_eq_true hcap
  rw [State.acceptFront, hentry]
  dsimp only
  cases hstate : e.state with
  | valid => exact if_pos hwaits
  | filling d => exact if_pos hwaits
  | dirty | flushing => rw [hstate] at hst; rcases hst with h | h <;> cases h

/-- A VALID or FILLING entry in page `p` becomes DIRTY (R109). -/
def MediaView.dirtied (p : Nat) (v : MediaView) : MediaView :=
  { v with
    entries := v.entries.map (fun f => if f.page = p then { f with state := .dirty } else f)
    lru := Machine.without p v.lru
    cache := { v.cache with
      fetches := Machine.without p v.cache.fetches
      outstanding := Machine.without p v.cache.outstanding
      queue := v.cache.queue ++ [p] } }

theorem State.makeDirty_eq_withView (s : State) (n : NodeId) (p : Nat) : s.makeDirty n p = s.withView n ((s.view n).dirtied p) := rfl

theorem State.CacheLaw.overwritten_clean (h : s.CacheLaw) (he : e ∈ s.entries) (hst : e.state = .valid ∨ e.state.isFilling = true)
    (n : NodeId) : (s.view n).overwritten e = (s.view n).dirtied e.page := by
  obtain ⟨-, -, hout, hlru⟩ := h.unlisted he n
  have hflushing : e.state.isFlushing = false := by
    cases hstate : e.state with
    | flushing => rw [hstate] at hst; rcases hst with h | h <;> cases h
    | valid | dirty | filling => rfl
  have hlru' : s.lru.filter (fun q => q != e.page || !e.state.isValid) = without e.page s.lru := by
    rcases hst with hvalid | hfilling
    · rw [hvalid]
      exact List.filter_congr fun q _ => Bool.or_false _
    · have hne : e.state ≠ .valid := fun h => by rw [h] at hfilling; cases hfilling
      rw [without_of_not_mem (hlru hne)]
      refine List.filter_eq_self.mpr fun q _ => ?_
      cases hstate : e.state with
      | valid => exact absurd hstate hne
      | filling | dirty | flushing => simp [EntryState.isValid]
  have hstate : e.state.overwritten = .dirty := by
    cases hcase : e.state with
    | flushing => rw [hcase] at hflushing; cases hflushing
    | valid | dirty | filling => rfl
  have hout' : without e.page (s.nd n).cache.outstanding = (s.nd n).cache.outstanding := without_of_not_mem (hout hflushing)
  simp only [MediaView.overwritten, MediaView.dirtied, State.view, hlru', hstate, hout', if_pos hst]

/-- Where the entry is DIRTY or FLUSHING, the lists stay. -/
theorem State.CacheLaw.overwritten_unstored (h : s.CacheLaw) (he : e ∈ s.entries) (hst : ¬(e.state = .valid ∨ e.state.isFilling = true))
    (n : NodeId) : (s.view n).overwritten e = { s.view n with
      entries := s.entries.map (fun f => if f.page = e.page then { f with state := e.state.overwritten } else f) } := by
  obtain ⟨hne, hfilling⟩ := not_or.mp hst
  obtain ⟨hfetches, -, -, -⟩ := h.unlisted he n
  have hnot : e.state ≠ .filling none := fun h => hfilling (by rw [h]; rfl)
  have hlru : s.lru.filter (fun q => q != e.page || !e.state.isValid) = s.lru := by
    refine List.filter_eq_self.mpr fun q _ => ?_
    cases hstate : e.state with
    | valid => exact absurd hstate hne
    | filling | dirty | flushing => simp [EntryState.isValid]
  have hfetches' : without e.page (s.nd n).cache.fetches = (s.nd n).cache.fetches := without_of_not_mem (hfetches hnot)
  simp only [MediaView.overwritten, State.view, hlru, hfetches', if_neg hst]

theorem State.acceptFront_found (hc : s.CacheLaw) (hcurrent : (s.nd n).media.current = some c) (hw : c.write = true)
    (hs : s.slot n = some x) (he : e ∈ s.entries) (hn : e.node = n) (hlba : e.lba = lba)
    (hcap : e.state = .valid ∨ e.state.isFilling = true → s.unstoredCount n < Config.dirtyCap) : s.acceptFront n lba bytes =
      (s.withView n { (s.view n).overwritten e with media := ((s.nd n).media.rewritten lba).took x.policy c }).withMem
        (s.mem.writePage e.page bytes) := by
  have hslot : (s.nd n).media.slot = some x := hs
  have hentry : s.entryFor n lba = some e := (State.entryFor_eq_some_iff hc.2.1).mpr ⟨he, hn, hlba⟩
  have hdone (v : MediaView) (hv : v.media = (s.nd n).media.rewritten lba) :
      ((s.withView n v).withMem (s.mem.writePage e.page bytes)).accepted n =
        (s.withView n { v with media := ((s.nd n).media.rewritten lba).took x.policy c }).withMem (s.mem.writePage e.page bytes) := by
    have hvslot : v.media.slot = some { x with zero := removeBlock x.zero lba } := by
      rw [hv]
      exact congrArg (Option.map _) hslot
    rw [State.accepted_placed (c := c) (by rw [hv]; exact hcurrent) hw hvslot, hv]
  have hclean (hst : e.state = .valid ∨ e.state.isFilling = true) :
      (if s.atDirtyCap n then s else ((s.placeBlock n lba e.page bytes).makeDirty n e.page).accepted n) =
        (s.withView n { (s.view n).overwritten e with media := ((s.nd n).media.rewritten lba).took x.policy c }).withMem
          (s.mem.writePage e.page bytes) := by
    rw [if_neg (by simpa [State.atDirtyCap] using hcap hst), hc.overwritten_clean he hst, State.placeBlock_eq,
      State.makeDirty_eq_withView, State.view_withMem, State.withMem_withView, State.view_withView, State.withView_withView]
    exact hdone _ rfl
  have hunstored (hst : ¬(e.state = .valid ∨ e.state.isFilling = true)) := hc.overwritten_unstored he hst n
  rw [State.acceptFront, hentry]
  dsimp only
  cases hst : e.state with
  | valid => exact hclean (.inl hst)
  | filling d => exact hclean (.inr (by rw [hst]; rfl))
  | dirty =>
    have hkept := State.setEntry_self hc.1 he
    rw [hst] at hunstored hkept
    have hview : (s.view n).overwritten e = s.view n := (hunstored (by simp [EntryState.isFilling])).trans
      (congrArg (fun es => { s.view n with entries := es }) hkept)
    rw [State.placeBlock_eq, hview]
    exact hdone _ rfl
  | flushing q r d =>
    rw [hst] at hunstored
    rw [State.placeBlock_eq, hunstored (by simp [EntryState.isFilling])]
    exact hdone { (s.view n) with
      media := (s.nd n).media.rewritten lba
      entries := s.entries.map (fun f => if f.page = e.page then { f with state := .flushing q true d } else f) } rfl

/-! ### What an accepted block leaves of the port -/

theorem Media.took_slot (w : WritePolicy) (c : Command) (m : Media) : (m.took w c).slot = m.slot := by
  unfold Media.took; split <;> rfl

theorem Media.took_received (w : WritePolicy) (c : Command) (m : Media) : (m.took w c).received = none := by
  unfold Media.took; split <;> rfl

theorem Media.took_over {w : WritePolicy} (h : c.finished + 1 = c.count ∧ w ≠ .acked) (m : Media) :
    (m.took w c).current = none ∧ (m.took w c).last = .good ∧ (m.took w c).out.status = some .good := by
  rw [Media.took, if_pos h]
  exact ⟨rfl, rfl, rfl⟩

theorem Media.took_more {w : WritePolicy} (h : ¬(c.finished + 1 = c.count ∧ w ≠ .acked)) (m : Media) :
    (m.took w c).current = some (c.afterBlock w) ∧ (m.took w c).last = m.last := by
  rw [Media.took, if_neg h]
  exact ⟨rfl, rfl⟩

theorem Command.afterBlock_lbas (h : c.InOrder) (hl : c.list = b :: rest) (hplaces : c.list.length ≤ Config.listPlaces)
    (hcount : c.finished + c.list.length ≤ c.count) (w : WritePolicy) :
    (c.afterBlock w).list.map BlockPlace.lba = List.range' (c.lba + c.finished + 1) (min 64 (c.count - c.finished - 1)) := by
  have horder : (c.afterBlock w).InOrder := (h.advanced hl).joined _
  have hlength : c.advanced.list.length + 1 = c.list.length := by rw [Command.advanced, hl]; rfl
  have hjoined : (c.afterBlock w).list.length = min Config.listPlaces (c.count - (c.finished + 1)) := by
    refine Command.joined_length ?_ ?_ _
    · show c.advanced.list.length ≤ _
      omega
    · show c.finished + 1 + c.advanced.list.length ≤ c.count
      omega
  rw [horder, hjoined]
  rfl

/-- The part after an accepted block: its media side and the page that holds the data. -/
def State.tookBlock (s : State) (n : NodeId) (c : Command) (w : WritePolicy) (lba p : Nat) (data : List Byte) (v : MediaView) : State :=
  (s.withView n { v with media := ((s.nd n).media.rewritten lba).took w c }).withMem (s.mem.writePage p data)

theorem State.tookBlock_nd (s : State) (n : NodeId) (c : Command) (w : WritePolicy) (lba p : Nat) (data : List Byte) (v : MediaView) :
    ((s.tookBlock n c w lba p data v).nd n).media = ((s.nd n).media.rewritten lba).took w c ∧
      ((s.tookBlock n c w lba p data v).nd n).cache = v.cache := by
  have hnd : (s.tookBlock n c w lba p data v).nd n = _ := s.withView_nd n { v with media := ((s.nd n).media.rewritten lba).took w c }
  rw [hnd]
  exact ⟨rfl, rfl⟩

theorem State.tookBlock_frame (s : State) (n : NodeId) (c : Command) (w : WritePolicy) (lba p : Nat) (hdata : data.length = 512)
    (v : MediaView) : s.OnlyMedia (s.tookBlock n c w lba p data v) n ∧ s.WrotePage (s.tookBlock n c w lba p data v) p data := by
  obtain ⟨hmedia, hcache⟩ := s.tookBlock_nd n c w lba p data v
  refine ⟨?_, Memory.page_writePage _ _ _ hdata, fun a ha => Memory.read_write_other _ _ _ a (by rw [hdata]; exact ha)⟩
  rw [State.OnlyMedia, hmedia, hcache]
  rfl

/-- What every accepted block leaves of the node's media (R91, R97, R120). -/
theorem State.tookBlock_media (hlaw : s.CommandLaw n) (hcurrent : (s.nd n).media.current = some c) (hl : c.list = b :: rest)
    (hs : s.slot n = some x) (w : WritePolicy) (lba p : Nat) (data : List Byte) (v : MediaView) :
    ((s.tookBlock n c w lba p data v).nd n).media.received = none ∧
      (s.tookBlock n c w lba p data v).slot n = some { x with zero := removeBlock x.zero lba } ∧
      (c.finished + 1 = c.count ∧ w ≠ .acked → ((s.tookBlock n c w lba p data v).nd n).media.current = none ∧
        ((s.tookBlock n c w lba p data v).nd n).media.last = .good ∧
        ((s.tookBlock n c w lba p data v).nd n).media.out.status = some .good) ∧
      (¬(c.finished + 1 = c.count ∧ w ≠ .acked) → ∃ l, ((s.tookBlock n c w lba p data v).nd n).media.current = some { c with
          finished := c.finished + 1
          unstored := if w = .acked then c.unstored + 1 else c.unstored
          list := l } ∧
        l.map BlockPlace.lba = List.range' (c.lba + c.finished + 1) (min 64 (c.count - c.finished - 1)) ∧
        ((s.tookBlock n c w lba p data v).nd n).media.last = (s.nd n).media.last) := by
  obtain ⟨hmedia, -⟩ := s.tookBlock_nd n c w lba p data v
  obtain ⟨-, -, hplaces, hcount, -, -⟩ := hlaw c hcurrent
  have hslot : (s.nd n).media.slot = some x := hs
  rw [State.slot, hmedia]
  refine ⟨Media.took_received _ _ _, ?_, fun h => Media.took_over h _, fun h => ?_⟩
  · rw [Media.took_slot, Media.rewritten, hslot]
    rfl
  · obtain ⟨hsome, hlast⟩ := Media.took_more h ((s.nd n).media.rewritten lba)
    exact ⟨_, hsome, Command.afterBlock_lbas (hlaw.inOrder hcurrent) hl hplaces hcount w, hlast⟩

/-! ### The commands that serve a WRITE -/

theorem State.buffered_eq (hcurrent : (s.nd n).media.current = some c) (hw : c.write = true) (hl : c.list = b :: rest)
    (hreceived : (s.nd n).media.received = some data) : s.buffered n = some (b.lba, data) := by
  rw [State.buffered, hcurrent, hreceived]
  dsimp only
  rw [if_pos hw, hl]
  rfl

theorem exec_blockAccept (hheld : s.held = false) (hbuffered : s.buffered n = some (lba, data)) :
    exec (.blockAccept n) s = .next (s.acceptFront n lba data) := congrArg Host.Outcome.next (State.given_eq hheld hbuffered _)

theorem exec_newEntryRequest_write (hheld : s.held = false) (hcurrent : (s.nd n).media.current = some c) (hw : c.write = true)
    (hbuffered : s.buffered n = some (lba, data)) : exec (.newEntryRequest n) s =
      .next (if (s.entryFor n lba).isNone then s.acceptNew n lba data else s) := by
  have hnone : s.serveRequest n = none := State.serveRequest_eq_none fun d hd l hl => by
    rw [← Option.some.inj (hcurrent.symm.trans hd), Command.wanting, if_pos hw] at hl
    cases hl
  refine congrArg Host.Outcome.next ?_
  rw [State.running, if_neg (by rw [hheld]; exact Bool.false_ne_true), State.requestEntry, hnone, hbuffered]

theorem exec_writeBlockReceived (s : State) (n : NodeId) (hdata : data.length = 512) : exec (.writeBlockReceived n data) s =
    .next (if s.connected n = true ∧ (s.nd n).media.received = none ∧ (∃ c, (s.nd n).media.current = some c ∧ c.write = true ∧ c.list ≠ [])
      then s.setNd n { s.nd n with media := { (s.nd n).media with received := some data } } else s) := by
  refine congrArg Host.Outcome.next (if_congr ?_ rfl rfl)
  have htakes : s.takesData n = true ↔ (s.nd n).media.received = none ∧
      ∃ c, (s.nd n).media.current = some c ∧ c.write = true ∧ c.list ≠ [] := by
    rw [State.takesData]
    cases hc : (s.nd n).media.current with
    | none => simp
    | some c => simp [and_comm]
  have hlength : (data.length == Config.pageBytes) = true := by rw [hdata]; rfl
  rw [hlength, Bool.and_true, Bool.and_eq_true, htakes]

theorem State.mem_found_iff {lba : Nat} : e ∈ s.entries.filter (fun e => e.node == n && e.lba == lba) ↔
    e ∈ s.entries ∧ e.node = n ∧ e.lba = lba := by
  rw [List.mem_filter, Bool.and_eq_true, beq_iff_eq, beq_iff_eq]

theorem State.found_eq_nil_iff {lba : Nat} : s.entries.filter (fun e => e.node == n && e.lba == lba) = [] ↔ s.entryFor n lba = none := by
  rw [State.entryFor_eq_none_iff, List.filter_eq_nil_iff]
  simp

/-- The entries after the block of `e` is written again, as one rule over the states. -/
theorem State.CacheLaw.overwritten_entries (h : s.CacheLaw) (he : e ∈ s.entries) :
    s.entries.map (fun f => if f.page = e.page then { f with state := e.state.overwritten } else f) =
      s.entries.map (fun f => if f.page ≠ e.page then f else match f.state with
        | .flushing q _ d => { f with state := .flushing q true d }
        | _ => { f with state := .dirty }) := by
  refine List.map_congr_left fun f hf => ?_
  by_cases hpage : f.page = e.page
  · rw [if_pos hpage, if_neg (not_not.mpr hpage), State.entry_eq_of_page h.1 hf he hpage]
    cases e.state <;> rfl
  · rw [if_neg hpage, if_pos hpage]

/-- Settles O54: the data that arrives, and the front block by what its LBA has in the cache. -/
theorem writeBlocksAreAccepted : Obligations.WriteBlocksAreAccepted := by
  refine ⟨fun s n data hdata => ⟨fun h => ?_, fun h => ?_⟩, fun s n h => ?_,
    fun s n c b rest x data hheld hp hc hcurrent hw hl hreceived hdata hs => ?_⟩
  · rw [exec_writeBlockReceived s n hdata, if_pos h]
  · rw [exec_writeBlockReceived s n hdata, if_neg h]
  · have hnone : s.buffered n = none := by
      rw [State.buffered]
      rcases h with h | h
      · rw [h]
        cases (s.nd n).media.current <;> rfl
      · rw [h]
    exact congrArg Host.Outcome.next (State.given_of_none hnone _)
  · intro found adds held_up
    have hbuffered := State.buffered_eq hcurrent hw hl hreceived
    have haccept : exec (.blockAccept n) s = _ := exec_blockAccept hheld hbuffered
    have hrequest : exec (.newEntryRequest n) s = _ := exec_newEntryRequest_write hheld hcurrent hw hbuffered
    have hmem {e : Entry} : e ∈ found ↔ e ∈ s.entries ∧ e.node = n ∧ e.lba = b.lba := State.mem_found_iff
    have hlaw := (hc.2.2.2.2 n).2.2.2.2.2.2.2
    rw [haccept, hrequest]
    cases hentry : s.entryFor n b.lba with
    | none =>
      have hfound : found = [] := State.found_eq_nil_iff.mpr hentry
      have hfront : s.acceptFront n b.lba data = s.acceptNew n b.lba data := by rw [State.acceptFront, hentry]
      rw [hfront]
      refine ⟨fun hup => ?_, fun hne => absurd hfound hne, fun _ => rfl, fun hup => ?_⟩
      · rw [State.acceptNew_waits (hup.2.imp_right And.right)]
      · obtain ⟨hcap, hsome⟩ : s.unstoredCount n < Config.dirtyCap ∧ s.supply ≠ [] := by
          refine ⟨Nat.lt_of_not_le fun hle => hup ⟨.inl hfound, .inl hle⟩, fun hempty => hup ⟨.inl hfound, .inr ⟨hfound, hempty⟩⟩⟩
        obtain ⟨p, ps, hps⟩ := List.exists_cons_of_ne_nil hsome
        obtain ⟨v, hv⟩ : ∃ v, v = ((s.view n).supplied p).newDirty n b.lba p := ⟨_, rfl⟩
        have hdone : s.acceptNew n b.lba data = s.tookBlock n c x.policy b.lba p data v := by
          rw [State.acceptNew_eq hp hcurrent hw hs hcap hps, State.tookBlock, hv]
        obtain ⟨honly, hwrote⟩ := s.tookBlock_frame n c x.policy b.lba p hdata v
        obtain ⟨hreceived', hslot', hover, hmore⟩ := s.tookBlock_media hlaw hcurrent hl hs x.policy b.lba p data v
        obtain ⟨-, hcache⟩ := s.tookBlock_nd n c x.policy b.lba p data v
        refine ⟨_, p, congrArg Host.Outcome.next hdone, honly, rfl, rfl, hwrote, hreceived', hslot', ⟨hover, hmore⟩, fun _ => ?_,
          fun e he => absurd he (by rw [hfound]; exact List.not_mem_nil)⟩
        refine ⟨?_, ?_, ?_, ?_, hcache.trans (by rw [hv]; rfl)⟩
        · exact congrArg List.head? hps
        · exact congrArg MediaView.free hv
        · exact congrArg MediaView.lru hv
        · exact (List.Perm.of_eq (congrArg MediaView.entries hv)).trans (insertEntry_perm _ _)
    | some e =>
      obtain ⟨he, hn, hlba⟩ := (State.entryFor_eq_some_iff hc.2.1).mp hentry
      have hin : e ∈ found := hmem.mpr ⟨he, hn, hlba⟩
      have honly {f : Entry} (hf : f ∈ found) : f = e := by
        obtain ⟨hf, hfn, hflba⟩ := hmem.mp hf
        exact Option.some.inj (((State.entryFor_eq_some_iff hc.2.1).mpr ⟨hf, hfn, hflba⟩).symm.trans hentry)
      have hne : found ≠ [] := List.ne_nil_of_mem hin
      refine ⟨fun hup => ?_, fun _ => rfl, fun hnil => absurd hnil hne, fun hup => ?_⟩
      · obtain ⟨hadds, hfull⟩ := hup
        obtain ⟨f, hf, hst⟩ := hadds.resolve_left hne
        rw [honly hf] at hst
        rw [State.acceptFront_waits hentry hst (hfull.resolve_right fun h => hne h.1)]
      · have hcap (hst : e.state = .valid ∨ e.state.isFilling = true) : s.unstoredCount n < Config.dirtyCap :=
          Nat.lt_of_not_le fun hle => hup ⟨.inr ⟨e, hin, hst⟩, .inl hle⟩
        obtain ⟨v, hv⟩ : ∃ v, v = (s.view n).overwritten e := ⟨_, rfl⟩
        have hdone : s.acceptFront n b.lba data = s.tookBlock n c x.policy b.lba e.page data v := by
          rw [State.acceptFront_found hc hcurrent hw hs he hn hlba hcap, State.tookBlock, hv]
        obtain ⟨hframe, hwrote⟩ := s.tookBlock_frame n c x.policy b.lba e.page hdata v
        obtain ⟨hreceived', hslot', hover, hmore⟩ := s.tookBlock_media hlaw hcurrent hl hs x.policy b.lba e.page data v
        obtain ⟨-, hcache⟩ := s.tookBlock_nd n c x.policy b.lba e.page data v
        refine ⟨_, e.page, congrArg Host.Outcome.next hdone, hframe, rfl, rfl, hwrote, hreceived', hslot', ⟨hover, hmore⟩,
          fun hnil => absurd hnil hne, fun f hf => ?_⟩
        obtain rfl := honly hf
        refine ⟨rfl, ?_, ?_, ?_, hcache.trans (by rw [hv]; rfl)⟩
        · exact congrArg MediaView.free hv
        · exact (congrArg MediaView.entries hv).trans (hc.overwritten_entries he)
        · exact congrArg MediaView.lru hv

end

end Sys2Proof.Machine
end


section
/-! PROOFS. MED_STORED: the write-outs that an acknowledgement resolves, and the follow-ups in their order (O47). -/

namespace Sys2Proof.Machine

set_option Elab.async false

section
variable {s t u : State} {n m : NodeId} {v : MediaView} {c d : Command} {x : Medium} {p q : Nat} {e : Entry} {ps done rest : List Nat}

/-! ### The front write-out (R115) -/

/-- An entry becomes VALID and the most recently used (R102). -/
def MediaView.validated (p : Nat) (v : MediaView) : MediaView :=
  { v with
    entries := v.entries.map (fun f => if f.page = p then { f with state := .valid } else f)
    lru := Machine.without p v.lru ++ [p]
    cache := { v.cache with
      fetches := Machine.without p v.cache.fetches
      queue := Machine.without p v.cache.queue
      outstanding := Machine.without p v.cache.outstanding } }

theorem State.makeValid_eq_withView (s : State) (n : NodeId) (p : Nat) : s.makeValid n p = s.withView n ((s.view n).validated p) := rfl

/-- The entry is FLUSHING, and its block has been written again since. -/
def EntryState.isRewritten : EntryState → Bool
  | .flushing _ r _ => r
  | _ => false

/-- The write-out in page `q` has been rewritten. -/
def State.rewritten (s : State) (q : Nat) : Bool := s.entries.any (fun e => e.page == q && e.state.isRewritten)

theorem State.rewritten_eq (hpages : s.entryPages.Nodup) (he : e ∈ s.entries) : s.rewritten e.page = e.state.isRewritten := by
  rw [Bool.eq_iff_iff, State.rewritten, List.any_eq_true]
  constructor
  · rintro ⟨f, hf, hrewritten⟩
    obtain ⟨hpage, hst⟩ := Bool.and_eq_true_iff.mp hrewritten
    rw [← State.entry_eq_of_page hpages hf he (beq_iff_eq.mp hpage)]
    exact hst
  · exact fun h => ⟨e, he, by simp [h]⟩

/-- The command after the write-out of block `lba` has been stored, under an ACKED policy or not (R120). -/
def Command.stored (acked : Bool) (lba : Nat) (c : Command) : Command :=
  if c.write = true ∧ acked = true ∧ c.lba ≤ lba ∧ lba < c.lba + c.finished then { c with unstored := c.unstored - 1 } else c

/-- The write-out in page `p` is resolved. -/
def MediaView.resolvedOne (p lba : Nat) (rewritten acked : Bool) (v : MediaView) : MediaView :=
  if rewritten then v.dirtied p
  else { v.validated p with media := { v.media with current := v.media.current.map (Command.stored acked lba) } }

/-- What the outstanding list of a node says of its entries: each page that it names has a FLUSHING entry and stands in no other
list. -/
structure State.Outstanding (s : State) (n : NodeId) : Prop where
  pages : s.entryPages.Nodup
  nodup : (s.nd n).cache.outstanding.Nodup
  flushing : ∀ p ∈ (s.nd n).cache.outstanding, ∃ e ∈ s.entries, e.page = p ∧ e.state.isFlushing = true
  unlisted : ∀ p ∈ (s.nd n).cache.outstanding, p ∉ s.lru ∧ p ∉ (s.nd n).cache.queue ∧ p ∉ (s.nd n).cache.fetches

theorem State.CacheLaw.outstanding (h : s.CacheLaw) (n : NodeId) : s.Outstanding n := by
  obtain ⟨-, -, hout, -⟩ := h.2.2.2.2 n
  refine ⟨h.1, hout.1, fun p hp => ?_, fun p hp => ?_⟩
  · obtain ⟨e, he, hpage, -, hst⟩ := hout.entry hp
    exact ⟨e, he, hpage, hst⟩
  · obtain ⟨e, he, rfl, -, hst⟩ := hout.entry hp
    obtain ⟨hfetches, hqueue, -, hlru⟩ := h.unlisted he n
    refine ⟨hlru ?_, hqueue ?_, hfetches ?_⟩
    · intro h; rw [h] at hst; cases hst
    · cases hstate : e.state with
      | dirty => rw [hstate] at hst; cases hst
      | filling | valid | flushing => rfl
    · intro h; rw [h] at hst; cases hst

theorem State.resolveFront_eq (h : s.Outstanding n) (hp : p ∈ (s.nd n).cache.outstanding)
    (hfront : (s.nd n).cache.outstanding = p :: rest) : State.resolveFront n s =
      s.withView n ((s.view n).resolvedOne p (s.lbaOf p) (s.rewritten p) (s.ackedPolicy n)) := by
  obtain ⟨e, he, hpage, hst⟩ := h.flushing p hp
  have htagged : s.tagged p = some e := (State.tagged_eq_some_iff h.pages p).mpr ⟨he, hpage⟩
  have hlba : s.lbaOf p = e.lba := by rw [State.lbaOf, htagged]; rfl
  have hrewritten : s.rewritten p = e.state.isRewritten := hpage ▸ State.rewritten_eq h.pages he
  rw [State.resolveFront, hfront]
  dsimp only
  rw [htagged]
  dsimp only
  rw [hlba, hrewritten]
  cases hstate : e.state with
  | filling | valid | dirty => rw [hstate] at hst; cases hst
  | flushing c r d =>
    cases r with
    | true => exact s.makeDirty_eq_withView n p
    | false =>
      have hacked : (s.makeValid n p).ackedPolicy n = s.ackedPolicy n := by
        rw [State.ackedPolicy, State.ackedPolicy, State.slot, State.makeValid_eq_withView, State.withView_nd]
        rfl
      have hstored : (s.makeValid n p).storedBlock n e.lba =
          (s.makeValid n p).mapCommand n (Command.stored (s.ackedPolicy n) e.lba) := by
        rw [State.storedBlock, hacked]
        rfl
      dsimp only
      rw [if_neg Bool.false_ne_true, hstored, State.mapCommand_eq_withView, State.makeValid_eq_withView, State.view_withView,
        State.withView_withView, State.withView_nd]
      rfl

/-! ### A run of write-outs (R115, R116, R120) -/

/-- What resolving the write-outs in the pages of `done` makes of the entries. -/
def resolvedEntry (r : Nat → Bool) (done : List Nat) (e : Entry) : Entry :=
  if e.page ∈ done.filter (fun q => !r q) then { e with state := .valid }
  else if e.page ∈ done.filter r then { e with state := .dirty } else e

/-- A current ACKED WRITE after `done` has been resolved: its blocks that are stored now no longer count (R120). -/
def Command.settled (r : Nat → Bool) (l : Nat → Nat) (acked : Bool) (done : List Nat) (c : Command) : Command :=
  if c.write = true ∧ acked = true then
    { c with unstored := c.unstored -
        (done.filter (fun q => !r q)).countP (fun q => decide (c.lba ≤ l q ∧ l q < c.lba + c.finished)) }
  else c

/-- The media side after the write-outs in the pages of `done`, the front of the outstanding list, have been resolved: those that `r`
names have been rewritten, and `l` gives their blocks. -/
def MediaView.resolved (r : Nat → Bool) (l : Nat → Nat) (acked : Bool) (done : List Nat) (v : MediaView) : MediaView :=
  { v with
    media := { v.media with current := v.media.current.map (Command.settled r l acked done) }
    entries := v.entries.map (resolvedEntry r done)
    lru := v.lru ++ done.filter (fun q => !r q)
    cache := { v.cache with
      outstanding := v.cache.outstanding.drop done.length
      queue := v.cache.queue ++ done.filter r } }

theorem resolvedEntry_append (r : Nat → Bool) (ps qs : List Nat) (e : Entry) :
    resolvedEntry r qs (resolvedEntry r ps e) = resolvedEntry r (ps ++ qs) e := by
  by_cases hr : r e.page = true
  · simp only [resolvedEntry, List.mem_filter, List.mem_append, hr]
    by_cases hp : e.page ∈ ps
    · simp [hp, hr]
    · simp [hp, hr]
  · simp only [resolvedEntry, List.mem_filter, List.mem_append, hr]
    by_cases hp : e.page ∈ ps
    · simp [hp, hr]
    · simp [hp, hr]

theorem Command.settled_append (r : Nat → Bool) (l : Nat → Nat) (acked : Bool) (ps qs : List Nat) (c : Command) :
    (c.settled r l acked ps).settled r l acked qs = c.settled r l acked (ps ++ qs) := by
  unfold Command.settled
  by_cases h : c.write = true ∧ acked = true
  · simp only [if_pos h, List.filter_append, List.countP_append, Nat.sub_sub]
  · simp only [if_neg h]

theorem MediaView.resolved_resolved (r : Nat → Bool) (l : Nat → Nat) (acked : Bool) (ps qs : List Nat) (v : MediaView) :
    (v.resolved r l acked ps).resolved r l acked qs = v.resolved r l acked (ps ++ qs) := by
  have hentries : resolvedEntry r qs ∘ resolvedEntry r ps = resolvedEntry r (ps ++ qs) := funext (resolvedEntry_append r ps qs)
  have hsettled : Command.settled r l acked qs ∘ Command.settled r l acked ps = Command.settled r l acked (ps ++ qs) :=
    funext (Command.settled_append r l acked ps qs)
  simp only [MediaView.resolved, List.map_map, hentries, Option.map_map, hsettled, List.filter_append, List.append_assoc, List.drop_drop,
    List.length_append]

theorem MediaView.resolved_nil (r : Nat → Bool) (l : Nat → Nat) (acked : Bool) (v : MediaView) : v.resolved r l acked [] = v := by
  have hentry : resolvedEntry r [] = id := funext fun e => by simp [resolvedEntry]
  have hcommand : Command.settled r l acked [] = id := funext fun c => by simp [Command.settled]
  simp [MediaView.resolved, hentry, hcommand]

theorem MediaView.resolved_congr {r r' : Nat → Bool} {l l' : Nat → Nat} (hr : ∀ q ∈ ps, r q = r' q) (hl : ∀ q ∈ ps, l q = l' q)
    (acked : Bool) (v : MediaView) : v.resolved r l acked ps = v.resolved r' l' acked ps := by
  have hagain : ps.filter r = ps.filter r' := List.filter_congr hr
  have hclean : ps.filter (fun q => !r q) = ps.filter (fun q => !r' q) := List.filter_congr fun q hq => by rw [hr q hq]
  have hsettled : Command.settled r l acked ps = Command.settled r' l' acked ps := funext fun c => by
    unfold Command.settled
    rw [hclean]
    refine if_congr Iff.rfl (congrArg (fun k => { c with unstored := c.unstored - k }) (List.countP_congr fun q hq => ?_)) rfl
    rw [hl q (List.mem_filter.mp hq).1]
  have hentry : resolvedEntry r ps = resolvedEntry r' ps := funext fun e => by rw [resolvedEntry, hagain, hclean]; rfl
  simp only [MediaView.resolved, hagain, hclean, hsettled, hentry]

theorem Command.stored_eq_settled {r : Nat → Bool} (hr : r p = false) (l : Nat → Nat) (acked : Bool) (c : Command) :
    c.stored acked (l p) = c.settled r l acked [p] := by
  have hclean : [p].filter (fun q => !r q) = [p] := by simp [hr]
  rw [Command.stored, Command.settled, hclean]
  by_cases h : c.write = true ∧ acked = true
  · by_cases hin : c.lba ≤ l p ∧ l p < c.lba + c.finished
    · rw [if_pos ⟨h.1, h.2, hin⟩, if_pos h]
      simp [hin]
    · rw [if_neg fun hc => hin hc.2.2, if_pos h]
      simp [hin]
  · rw [if_neg fun hc => h ⟨hc.1, hc.2.1⟩, if_neg h]

/-- Resolving the front write-out is resolving a run of one. -/
theorem State.resolveFront_resolved (h : s.Outstanding n) (hfront : (s.nd n).cache.outstanding = p :: rest) :
    State.resolveFront n s = s.withView n ((s.view n).resolved s.rewritten s.lbaOf (s.ackedPolicy n) [p]) := by
  have hp : p ∈ (s.nd n).cache.outstanding := by rw [hfront]; exact List.mem_cons_self ..
  obtain ⟨hlru, hqueue, hfetches⟩ := h.unlisted p hp
  have hnodup := h.nodup
  rw [hfront] at hnodup
  have hout : without p (s.nd n).cache.outstanding = rest := by
    rw [hfront]
    exact (List.filter_cons_of_neg (by simp)).trans (without_of_not_mem (List.nodup_cons.mp hnodup).1)
  have hdrop : (s.nd n).cache.outstanding.drop 1 = rest := by rw [hfront]; rfl
  rw [State.resolveFront_eq h hp hfront, MediaView.resolvedOne]
  congr 1
  cases hr : s.rewritten p with
  | true =>
    have hentry : (fun e : Entry => if e.page = p then { e with state := .dirty } else e) = resolvedEntry s.rewritten [p] := funext fun e => by
      simp [resolvedEntry, hr]
    have hcommand : Command.settled s.rewritten s.lbaOf (s.ackedPolicy n) [p] = id := funext fun c => by simp [Command.settled, hr]
    simp [MediaView.dirtied, MediaView.resolved, State.view, hentry, hcommand, hr, hout, hdrop, without_of_not_mem hlru,
      without_of_not_mem hfetches]
  | false =>
    have hentry : (fun e : Entry => if e.page = p then { e with state := .valid } else e) = resolvedEntry s.rewritten [p] := funext fun e => by
      simp [resolvedEntry, hr]
    have hcommand : Command.stored (s.ackedPolicy n) (s.lbaOf p) = Command.settled s.rewritten s.lbaOf (s.ackedPolicy n) [p] :=
      funext (Command.stored_eq_settled hr _ _)
    simp [MediaView.validated, MediaView.resolved, State.view, hentry, hcommand, hr, hout, hdrop, without_of_not_mem hlru,
      without_of_not_mem hfetches, without_of_not_mem hqueue]

theorem resolvedEntry_page (r : Nat → Bool) (done : List Nat) (e : Entry) : (resolvedEntry r done e).page = e.page := by
  unfold resolvedEntry
  split
  · rfl
  · split <;> rfl

theorem resolvedEntry_key (r : Nat → Bool) (done : List Nat) (e : Entry) :
    (resolvedEntry r done e).node = e.node ∧ (resolvedEntry r done e).lba = e.lba := by
  unfold resolvedEntry
  split
  · exact ⟨rfl, rfl⟩
  · split <;> exact ⟨rfl, rfl⟩

/-- The entries whose pages are not among the resolved stay. -/
theorem resolvedEntry_of_not_mem {r : Nat → Bool} (h : e.page ∉ done) : resolvedEntry r done e = e := by
  rw [resolvedEntry, if_neg fun hm => h (List.mem_filter.mp hm).1, if_neg fun hm => h (List.mem_filter.mp hm).1]

/-- The write-outs in the pages of `rest`, which have not been resolved, are DIRTY again. -/
theorem resolvedEntry_returned {r : Nat → Bool} (h : ∀ p ∈ rest, p ∉ done) (e : Entry) :
    (if (resolvedEntry r done e).page ∈ rest then { resolvedEntry r done e with state := .dirty } else resolvedEntry r done e) =
      if e.page ∈ done.filter (fun q => !r q) then { e with state := .valid }
      else if e.page ∈ done.filter r ∨ e.page ∈ rest then { e with state := .dirty } else e := by
  rw [resolvedEntry_page]
  by_cases hrest : e.page ∈ rest
  · have hnot : e.page ∉ done := h _ hrest
    rw [if_pos hrest, resolvedEntry_of_not_mem hnot, if_neg fun hm => hnot (List.mem_filter.mp hm).1, if_pos (.inr hrest)]
  · rw [if_neg hrest, resolvedEntry]
    exact if_congr Iff.rfl rfl (if_congr (by simp [hrest]) rfl rfl)

/-- The part after the write-outs in the pages of `done` have been resolved. -/
def State.resolvedRun (s : State) (n : NodeId) (done : List Nat) : State :=
  s.withView n ((s.view n).resolved s.rewritten s.lbaOf (s.ackedPolicy n) done)

theorem State.resolvedRun_cache (s : State) (n : NodeId) (done : List Nat) : ((s.resolvedRun n done).nd n).cache =
    { (s.nd n).cache with
      outstanding := (s.nd n).cache.outstanding.drop done.length
      queue := (s.nd n).cache.queue ++ done.filter s.rewritten } := by
  rw [State.resolvedRun, State.withView_nd]
  rfl

theorem State.resolvedRun_entries (s : State) (n : NodeId) (done : List Nat) :
    (s.resolvedRun n done).entries = s.entries.map (resolvedEntry s.rewritten done) := rfl

theorem State.resolvedRun_pages (s : State) (n : NodeId) (done : List Nat) : (s.resolvedRun n done).entryPages = s.entryPages := by
  rw [State.entryPages, State.resolvedRun_entries, List.map_map]
  exact List.map_congr_left fun e _ => resolvedEntry_page s.rewritten done e

/-- A page that is not among the resolved has its entry still. -/
theorem State.resolvedRun_mem (he : e ∈ s.entries) (hp : e.page ∉ done) : e ∈ (s.resolvedRun n done).entries := by
  rw [State.resolvedRun_entries, List.mem_map]
  exact ⟨e, he, resolvedEntry_of_not_mem hp⟩

theorem State.resolvedRun_slot (s : State) (n : NodeId) (done : List Nat) : (s.resolvedRun n done).slot n = s.slot n := by
  rw [State.slot, State.resolvedRun, State.withView_nd]
  rfl

theorem State.Outstanding.resolvedRun (h : s.Outstanding n) (hout : (s.nd n).cache.outstanding = done ++ rest) :
    (s.resolvedRun n done).Outstanding n := by
  have hnodup := h.nodup
  rw [hout] at hnodup
  obtain ⟨-, hrest, hdisjoint⟩ := List.nodup_append.mp hnodup
  have hcache := s.resolvedRun_cache n done
  have hout' : ((s.resolvedRun n done).nd n).cache.outstanding = rest := by
    rw [hcache, hout]
    exact List.drop_left
  refine ⟨s.resolvedRun_pages n done ▸ h.pages, hout' ▸ hrest, fun p hp => ?_, fun p hp => ?_⟩
  · rw [hout'] at hp
    obtain ⟨e, he, rfl, hst⟩ := h.flushing p (hout ▸ List.mem_append_right _ hp)
    exact ⟨e, State.resolvedRun_mem he fun hd => hdisjoint _ hd _ hp rfl, rfl, hst⟩
  · rw [hout'] at hp
    obtain ⟨hlru, hqueue, hfetches⟩ := h.unlisted p (hout ▸ List.mem_append_right _ hp)
    have hnot {f : Nat → Bool} : p ∉ done.filter f := fun hm => hdisjoint _ (List.mem_filter.mp hm).1 _ hp rfl
    rw [hcache]
    exact ⟨fun hm => (List.mem_append.mp hm).elim hlru hnot, fun hm => (List.mem_append.mp hm).elim hqueue hnot, hfetches⟩

theorem State.resolvedRun_ackedPolicy (s : State) (n : NodeId) (done : List Nat) :
    (s.resolvedRun n done).ackedPolicy n = s.ackedPolicy n := by
  rw [State.ackedPolicy, State.ackedPolicy, State.resolvedRun_slot]

theorem State.resolvedRun_lbaOf (s : State) (n : NodeId) (done : List Nat) (q : Nat) : (s.resolvedRun n done).lbaOf q = s.lbaOf q := by
  have hfind : (s.entries.map (resolvedEntry s.rewritten done)).find? (fun e => e.page == q) =
      (s.entries.find? (fun e => e.page == q)).map (resolvedEntry s.rewritten done) := by
    rw [List.find?_map]
    exact congrArg (fun f => (s.entries.find? f).map _) (funext fun e => by rw [Function.comp_apply, resolvedEntry_page])
  rw [State.lbaOf, State.tagged, State.resolvedRun_entries, hfind, Option.map_map, State.lbaOf, State.tagged]
  exact congrArg (fun f => (Option.map f _).getD 0) (funext fun e => (resolvedEntry_key s.rewritten done e).2)

theorem State.resolvedRun_rewritten (h : s.Outstanding n) (hq : q ∈ (s.nd n).cache.outstanding) (hd : q ∉ done) :
    (s.resolvedRun n done).rewritten q = s.rewritten q := by
  obtain ⟨e, he, rfl, -⟩ := h.flushing q hq
  rw [State.rewritten_eq h.pages he, State.rewritten_eq (s.resolvedRun_pages n done ▸ h.pages) (State.resolvedRun_mem he hd)]

/-- The front write-outs are resolved in order (R115). -/
theorem State.times_resolveFront (h : s.Outstanding n) (hout : (s.nd n).cache.outstanding = done ++ rest) :
    times done.length (State.resolveFront n) s = s.resolvedRun n done := by
  induction done generalizing s with
  | nil =>
    rw [State.resolvedRun, MediaView.resolved_nil, State.withView_view]
    rfl
  | cons p ps ih =>
    have hstep : State.resolveFront n s = s.resolvedRun n [p] := State.resolveFront_resolved h hout
    have hnodup := h.nodup
    rw [hout] at hnodup
    have hp : p ∉ ps := fun hm => (List.nodup_cons.mp hnodup).1 (List.mem_append_left _ hm)
    have hout' : ((s.resolvedRun n [p]).nd n).cache.outstanding = ps ++ rest := by
      rw [s.resolvedRun_cache, hout]
      rfl
    have hrest := ih (h.resolvedRun (done := [p]) hout) hout'
    have hcongr := MediaView.resolved_congr (ps := ps)
      (fun q hq => State.resolvedRun_rewritten (q := q) (done := [p]) h (hout ▸ List.mem_cons_of_mem _ (List.mem_append_left _ hq))
        fun hm => hp (List.mem_singleton.mp hm ▸ hq))
      (fun q _ => s.resolvedRun_lbaOf n [p] q) (s.ackedPolicy n) ((s.view n).resolved s.rewritten s.lbaOf (s.ackedPolicy n) [p])
    rw [MediaView.resolved_resolved] at hcongr
    show times ps.length (State.resolveFront n) (State.resolveFront n s) = _
    have hview : (s.resolvedRun n [p]).view n = (s.view n).resolved s.rewritten s.lbaOf (s.ackedPolicy n) [p] := s.view_withView n _
    have hwith (w : MediaView) : (s.resolvedRun n [p]).withView n w = s.withView n w := s.withView_withView n _ w
    rw [hstep, hrest, State.resolvedRun, State.resolvedRun_ackedPolicy, hview, hcongr, hwith]
    rfl

/-! ### The follow-ups (R79, R82, R115 to R118, R120) -/

/-- The write-out at the front of `rest` has a deadline that has passed. -/
def State.Overdue (s : State) (rest : List Nat) : Prop :=
  ∃ q r e d b w, rest = q :: r ∧ e ∈ s.entries ∧ e.page = q ∧ e.state = .flushing b w d ∧ d ≤ s.clock.ticks

/-- The part whose front write-outs `done` are resolved, and whose others are `rest`. -/
structure State.Resolving (s : State) (n : NodeId) (x : Medium) (done rest : List Nat) : Prop where
  law : s.CacheLaw
  slot : s.slot n = some x
  outstanding : (s.nd n).cache.outstanding = done ++ rest

theorem State.resolvedRun_view (s : State) (n : NodeId) (done : List Nat) : (s.resolvedRun n done).view n = (s.view n).resolved s.rewritten s.lbaOf (s.ackedPolicy n) done :=
  s.view_withView n _

section
variable (h : s.Resolving n x done rest)
include h

theorem State.Resolving.disjoint : ∀ p ∈ rest, p ∉ done := by
  have hnodup := (h.law.outstanding n).nodup
  rw [h.outstanding] at hnodup
  exact fun p hp hd => (List.nodup_append.mp hnodup).2.2 p hd p hp rfl

theorem State.Resolving.run_outstanding : ((s.resolvedRun n done).nd n).cache.outstanding = rest := by
  rw [State.resolvedRun_cache, h.outstanding]
  exact List.drop_left

theorem State.Resolving.run_slot : (s.resolvedRun n done).slot n = some x := (s.resolvedRun_slot n done).trans h.slot

theorem State.Resolving.run_tagged (he : e ∈ s.entries) (hp : e.page ∈ rest) : (s.resolvedRun n done).tagged e.page = some e := by
  refine (State.tagged_eq_some_iff ?_ e.page).mpr ⟨State.resolvedRun_mem he (h.disjoint _ hp), rfl⟩
  rw [State.resolvedRun_pages]
  exact h.law.1

/-- The deadline that is watched once the write-outs have been resolved. -/
theorem State.Resolving.run_deadline (hx : x.state ≠ .faulted) (hr : rest = q :: ps) (he : e ∈ s.entries) (hpage : e.page = q) {b : Half}
    {w : Bool} {d : Nat} (hst : e.state = .flushing b w d) : (s.resolvedRun n done).storeDeadline n = some d := by
  have hslot : ((s.resolvedRun n done).nd n).media.slot = some x := h.run_slot
  have htagged := h.run_tagged he (by rw [hr, hpage]; exact List.mem_cons_self ..)
  rw [State.storeDeadline, hslot]
  dsimp only
  rw [if_neg hx, h.run_outstanding, hr]
  dsimp only
  rw [← hpage, htagged, Option.map_some, hst]

theorem State.Resolving.overdue_fires (hx : x.state ≠ .faulted) (ho : s.Overdue rest) :
    (s.resolvedRun n done).overdue n = (s.resolvedRun n done).storeTimesOut n := by
  obtain ⟨q, r, e, d, b, w, hr, he, hpage, hst, hd⟩ := ho
  rw [State.overdue, h.run_deadline hx hr he hpage hst]
  exact if_pos hd

theorem State.Resolving.overdue_waits (ho : x.state = .faulted ∨ ¬s.Overdue rest) :
    (s.resolvedRun n done).overdue n = s.resolvedRun n done := by
  by_cases hx : x.state = .faulted
  · rw [State.overdue, State.storeDeadline_none (.inr (.inl ⟨x, h.run_slot, hx⟩))]
  · cases hr : rest with
    | nil => rw [State.overdue, State.storeDeadline_none (.inr (.inr (h.run_outstanding.trans hr)))]
    | cons q r =>
      obtain ⟨e, he, hpage, hst⟩ := (h.law.outstanding n).flushing q (by rw [h.outstanding, hr]; simp)
      cases hstate : e.state with
      | filling | valid | dirty => rw [hstate] at hst; cases hst
      | flushing b w d =>
        have hlate : ¬d ≤ s.clock.ticks := fun hd => ho.resolve_left hx ⟨q, r, e, d, b, w, hr, he, hpage, hstate, hd⟩
        rw [State.overdue, h.run_deadline hx hr he hpage hstate]
        exact if_neg hlate

/-- The sequence number of the front of what is left (R113). -/
theorem State.Resolving.run_seqOf (hr : rest = q :: ps) : (s.resolvedRun n done).seqOf q =
    some ((s.nd n).cache.seq - BitVec.ofNat 16 rest.length) := by
  have hin : q ∈ (s.nd n).cache.outstanding := by rw [h.outstanding, hr]; simp
  have hrest : q ∈ rest := by rw [hr]; exact List.mem_cons_self ..
  obtain ⟨e, he, rfl, -⟩ := (h.law.outstanding n).flushing q hin
  have hnumber := (h.law.2.2.2.2 n).2.2.2.1 done.length e.page (by rw [h.outstanding, hr]; simp)
  have hlength : (s.nd n).cache.outstanding.length - done.length = rest.length := by rw [h.outstanding]; simp
  rw [hlength] at hnumber
  rw [← hnumber, State.seqOf, State.seqOf, h.run_tagged he hrest, (State.tagged_eq_some_iff h.law.1 e.page).mpr ⟨he, rfl⟩]

/-- What is left of the outstanding list names the node's FLUSHING entries. -/
theorem State.Resolving.run_listed : ((s.resolvedRun n done).view n).Listed n := by
  refine ⟨?_, fun e' he' => ?_⟩
  · show (s.resolvedRun n done).entryPages.Nodup
    rw [State.resolvedRun_pages]
    exact h.law.1
  · have hrest : ((s.resolvedRun n done).view n).cache.outstanding = rest := h.run_outstanding
    have hmem : e' ∈ s.entries.map (resolvedEntry s.rewritten done) := he'
    obtain ⟨e, he, rfl⟩ := List.mem_map.mp hmem
    have hlist := (h.law.2.2.2.2 n).2.2.1
    rw [hrest, resolvedEntry_page]
    constructor
    · intro hp
      obtain ⟨f, hf, hpage, hn, hst⟩ := hlist.entry (h.outstanding ▸ List.mem_append_right _ hp)
      rw [resolvedEntry_of_not_mem (h.disjoint _ hp), ← State.entry_eq_of_page h.law.1 hf he hpage]
      exact ⟨hn, hst⟩
    · rintro ⟨hn, hst⟩
      rw [(resolvedEntry_key _ _ _).1] at hn
      have hout : e.state.isFlushing = true → e.page ∈ done ++ rest := fun hst => h.outstanding ▸ (hlist.2 _).mpr ⟨e, he, rfl, hn, hst⟩
      by_cases hclean : e.page ∈ done.filter (fun q => !s.rewritten q)
      · rw [resolvedEntry, if_pos hclean] at hst
        cases hst
      · by_cases hagain : e.page ∈ done.filter s.rewritten
        · rw [resolvedEntry, if_neg hclean, if_pos hagain] at hst
          cases hst
        · rw [resolvedEntry, if_neg hclean, if_neg hagain] at hst
          refine (List.mem_append.mp (hout hst)).resolve_left fun hd => ?_
          cases hr : s.rewritten e.page with
          | true => exact hagain (List.mem_filter.mpr ⟨hd, hr⟩)
          | false => exact hclean (List.mem_filter.mpr ⟨hd, by rw [hr]; rfl⟩)

/-- Nothing is left to be stored exactly where all of the write-outs have been resolved, none rewritten, and none waits in the
queue. -/
theorem State.Resolving.run_unstored : ((s.resolvedRun n done).view n).unstored n = 0 ↔
    rest = [] ∧ done.filter s.rewritten = [] ∧ (s.nd n).cache.queue = [] := by
  obtain ⟨-, hqueue, hlist, -⟩ := h.law.2.2.2.2 n
  have hout := h.law.outstanding n
  have hunstored {e : Entry} : e ∈ (s.resolvedRun n done).entries → e.node = n → e.state.isUnstored = true →
      ((s.resolvedRun n done).view n).unstored n ≠ 0 := fun he hn hst hzero => by
    have := List.countP_eq_zero.mp hzero e he
    simp [hn, hst] at this
  constructor
  · intro hzero
    refine ⟨List.eq_nil_iff_forall_not_mem.mpr fun q hq => ?_, List.eq_nil_iff_forall_not_mem.mpr fun q hq => ?_,
      List.eq_nil_iff_forall_not_mem.mpr fun q hq => ?_⟩
    · obtain ⟨e, he, rfl, hn, hst⟩ := hlist.entry (h.outstanding ▸ List.mem_append_right _ hq)
      exact hunstored (State.resolvedRun_mem he (h.disjoint _ hq)) hn (EntryState.isUnstored_of_isFlushing hst) hzero
    · obtain ⟨hd, hr⟩ := List.mem_filter.mp hq
      obtain ⟨e, he, rfl, hn, hst⟩ := hlist.entry (h.outstanding ▸ List.mem_append_left _ hd)
      have hdirty : resolvedEntry s.rewritten done e = { e with state := .dirty } := by
        rw [resolvedEntry, if_neg fun hm => by simp [hr] at hm, if_pos hq]
      have hmem : ({ e with state := .dirty } : Entry) ∈ (s.resolvedRun n done).entries :=
        List.mem_map.mpr ⟨e, he, hdirty⟩
      exact hunstored hmem hn rfl hzero
    · obtain ⟨e, he, rfl, hn, hst⟩ := hqueue.entry hq
      have hnot : e.page ∉ done := fun hd => (hout.unlisted _ (h.outstanding ▸ List.mem_append_left _ hd)).2.1 hq
      exact hunstored (State.resolvedRun_mem he hnot) hn (by rw [EntryState.isUnstored, hst]; rfl) hzero
  · rintro ⟨hrest, hagain, hnone⟩
    refine List.countP_eq_zero.mpr fun e' he' => ?_
    have hmem : e' ∈ s.entries.map (resolvedEntry s.rewritten done) := he'
    obtain ⟨e, he, rfl⟩ := List.mem_map.mp hmem
    by_cases hclean : e.page ∈ done.filter (fun q => !s.rewritten q)
    · rw [resolvedEntry, if_pos hclean]
      simp [EntryState.isUnstored, EntryState.isDirty, EntryState.isFlushing]
    · rw [resolvedEntry, if_neg hclean, if_neg (by rw [hagain]; exact List.not_mem_nil), Bool.and_eq_true, not_and, beq_iff_eq]
      intro hn hst
      rcases Bool.or_eq_true_iff.mp hst with hdirty | hflushing
      · have hq := (hqueue.2 e.page).mpr ⟨e, he, rfl, hn, hdirty⟩
        rw [hnone] at hq
        cases hq
      · have hd := (hlist.2 e.page).mpr ⟨e, he, rfl, hn, hflushing⟩
        rw [h.outstanding, hrest, List.append_nil] at hd
        cases hr : s.rewritten e.page with
        | true => exact List.eq_nil_iff_forall_not_mem.mp hagain e.page (List.mem_filter.mpr ⟨hd, hr⟩)
        | false => exact hclean (List.mem_filter.mpr ⟨hd, by rw [hr]; rfl⟩)

/-! ### The outcome, by the slot -/

theorem State.Resolving.idle_of_not_ready (hx : x.state ≠ .ready) : (s.nd n).media.current = none := by
  cases hc : (s.nd n).media.current with
  | none => rfl
  | some c =>
    have hready := ((h.law.2.2.2.2 n).2.2.2.2.2.2.2 c hc).1
    rw [State.slotReady, h.slot] at hready
    exact absurd (by simpa using hready) hx

omit h in
/-- With no command current, the node's media stays as it is. -/
theorem State.resolvedRun_idle (hc : (s.nd n).media.current = none) : ((s.resolvedRun n done).nd n).media = (s.nd n).media := by
  have hself : ({ (s.nd n).media with current := none } : Media) = (s.nd n).media := by rw [← hc]
  rw [State.resolvedRun, State.withView_nd]
  refine Eq.trans ?_ hself
  show ({ (s.nd n).media with
    current := (s.nd n).media.current.map (Command.settled s.rewritten s.lbaOf (s.ackedPolicy n) done) } : Media) = _
  rw [hc]
  rfl

/-- A READY slot whose new front is overdue becomes FAULTED, and what follows finds no command and no drain. -/
theorem State.Resolving.resolve_faults (hx : x.state = .ready) (ho : s.Overdue rest) : s.resolve n done.length =
    s.withView n { (s.resolvedRun n done).view n with media := (s.nd n).media.left .faulted } := by
  have hfires := h.overdue_fires (by rw [hx]; nofun) ho
  have hleft : ((s.resolvedRun n done).nd n).media.left .faulted = (s.nd n).media.left .faulted := by
    rw [State.resolvedRun, State.withView_nd]
    show Media.left .faulted { (s.nd n).media with current := (s.nd n).media.current.map _ } = _
    cases hc : (s.nd n).media.current with
    | none => rw [Option.map_none, ← hc]
    | some c => simp [Media.left, hc]
  obtain ⟨t, ht⟩ : ∃ t, t = s.withView n { (s.resolvedRun n done).view n with media := (s.nd n).media.left .faulted } := ⟨_, rfl⟩
  have htimes : (s.resolvedRun n done).storeTimesOut n = t := by
    rw [State.storeTimesOut_ready h.run_slot hx, hleft, ht]
    exact s.withView_withView n _ _
  have hmedia : (t.nd n).media = (s.nd n).media.left .faulted := by rw [ht, State.withView_nd]
  have hwrite : t.writeTest n = t := by
    rw [State.writeTest, hmedia, Media.left_current]
  have hdrain : t.drainEnd n = t := by
    have hslot : t.slot n = some { x with state := .faulted } := by
      have hs : (s.nd n).media.slot = some x := h.slot
      rw [State.slot, hmedia, Media.left_slot, hs]
      rfl
    rw [State.drainEnd, hslot]
    exact if_neg fun hc => nomatch hc.1
  rw [State.resolve, State.times_resolveFront (h.law.outstanding n) h.outstanding, hfires, htimes, hwrite, hdrain, ht]

/-- In a slot that is not WITHDRAWING, and without a timeout, the WRITE alone may end. -/
theorem State.Resolving.resolve_waits (hx : x.state ≠ .withdrawing) (ho : x.state = .faulted ∨ ¬s.Overdue rest) :
    s.resolve n done.length = (s.resolvedRun n done).writeTest n := by
  have hdrain : ((s.resolvedRun n done).writeTest n).drainEnd n = (s.resolvedRun n done).writeTest n := by
    have hslot : ((s.resolvedRun n done).writeTest n).slot n = some x := by
      unfold State.writeTest
      split
      · exact h.run_slot
      · split
        · rw [State.endCommand_eq_withView, State.slot, State.withView_nd]
          exact h.run_slot
        · exact h.run_slot
    rw [State.drainEnd, hslot]
    exact if_neg fun hc => hx hc.1
  rw [State.resolve, State.times_resolveFront (h.law.outstanding n) h.outstanding, h.overdue_waits ho, hdrain]

/-- A WITHDRAWING slot goes on draining. -/
theorem State.Resolving.resolve_drains (hx : x.state = .withdrawing) : s.resolve n done.length =
    ((s.resolvedRun n done).overdue n).drainEnd n := by
  have hidle := h.idle_of_not_ready (by rw [hx]; nofun)
  have hmedia := State.resolvedRun_idle (done := done) hidle
  have hwrite : ((s.resolvedRun n done).overdue n).writeTest n = (s.resolvedRun n done).overdue n := by
    have hcurrent : (((s.resolvedRun n done).overdue n).nd n).media.current = none := by
      by_cases ho : s.Overdue rest
      · rw [h.overdue_fires (by rw [hx]; nofun) ho, State.storeTimesOut_withdrawing h.run_slot hx, State.withView_nd]
        exact (congrArg Media.current hmedia).trans hidle
      · rw [h.overdue_waits (.inr ho), hmedia, hidle]
    rw [State.writeTest, hcurrent]
  rw [State.resolve, State.times_resolveFront (h.law.outstanding n) h.outstanding, hwrite]

/-- With data left to be stored, the drain does not end; overdue write-outs come back. -/
theorem State.Resolving.resolve_keeps_draining (hx : x.state = .withdrawing)
    (hleft : ¬(rest = [] ∧ done.filter s.rewritten = [] ∧ (s.nd n).cache.queue = [])) :
    (¬s.Overdue rest → s.resolve n done.length = s.withView n ((s.resolvedRun n done).view n)) ∧
      (s.Overdue rest → s.resolve n done.length = s.withView n ((s.resolvedRun n done).view n).returned) := by
  have hunstored : ((s.resolvedRun n done).view n).unstored n ≠ 0 := fun hzero => hleft (h.run_unstored.mp hzero)
  rw [h.resolve_drains hx]
  refine ⟨fun ho => ?_, fun ho => ?_⟩
  · rw [h.overdue_waits (.inr ho), State.drainEnd_eq h.run_slot hx, if_neg hunstored]
    rw [State.resolvedRun_view]
    rfl
  · have hslot : ((s.resolvedRun n done).withView n ((s.resolvedRun n done).view n).returned).slot n = some x := by
      rw [State.slot, State.withView_nd]
      exact h.run_slot
    rw [h.overdue_fires (by rw [hx]; nofun) ho, State.storeTimesOut_withdrawing h.run_slot hx, State.drainEnd_eq hslot hx,
      State.view_withView, MediaView.returned_unstored h.run_listed, if_neg hunstored]
    exact s.withView_withView n _ _

/-- With nothing left to be stored the drain ends. -/
theorem State.Resolving.resolve_vacates (hx : x.state = .withdrawing)
    (hnone : rest = [] ∧ done.filter s.rewritten = [] ∧ (s.nd n).cache.queue = []) :
    s.resolve n done.length = s.withView n (((s.resolvedRun n done).view n).vacated n) := by
  have hno : ¬s.Overdue rest := by
    rintro ⟨q, r, e, d, b, w, hr, -⟩
    rw [hnone.1] at hr
    cases hr
  rw [h.resolve_drains hx, h.overdue_waits (.inr hno), State.drainEnd_eq h.run_slot hx, if_pos (h.run_unstored.mpr hnone)]
  exact s.withView_withView n _ _

/-- The current command after the write-outs have been resolved. -/
theorem State.Resolving.run_command (hc : (s.nd n).media.current = some c) : ((s.resolvedRun n done).nd n).media =
    { (s.nd n).media with current := some (if c.write = true ∧ x.policy = .acked then { c with
          unstored := c.unstored - (done.filter (fun q => !s.rewritten q)).countP
            (fun q => decide (c.lba ≤ s.lbaOf q ∧ s.lbaOf q < c.lba + c.finished)) } else c) } := by
  have hacked : s.ackedPolicy n = (x.policy == .acked) := State.ackedPolicy_eq h.slot
  rw [State.resolvedRun, State.withView_nd]
  show ({ (s.nd n).media with
    current := (s.nd n).media.current.map (Command.settled s.rewritten s.lbaOf (s.ackedPolicy n) done) } : Media) = _
  rw [hc, Option.map_some, Command.settled, hacked]
  simp only [beq_iff_eq]

/-- The sequence fields are those of the outstanding list, while its front carries its number. -/
def NodeCache.numbers (u : NodeCache) : List Byte :=
  if u.outstanding = [] then (0 : Byte) :: leBytes 2 0 ++ leBytes 2 0
  else 1 :: leBytes 2 (u.seq - BitVec.ofNat 16 u.outstanding.length).toNat ++ leBytes 2 (u.seq - 1).toNat

omit h in
theorem State.sequenceFields_eq (hfront : ∀ p ps, (s.nd n).cache.outstanding = p :: ps →
    s.seqOf p = some ((s.nd n).cache.seq - BitVec.ofNat 16 (ps.length + 1))) : s.sequenceFields n = (s.nd n).cache.numbers := by
  rw [State.sequenceFields, State.window, NodeCache.numbers]
  cases hout : (s.nd n).cache.outstanding with
  | nil => rfl
  | cons p ps =>
    have hnewest : (s.nd n).cache.seq - BitVec.ofNat 16 (ps.length + 1) + BitVec.ofNat 16 ps.length = (s.nd n).cache.seq - 1 := by
      rw [BitVec.ofNat_add]
      generalize (s.nd n).cache.seq = a
      generalize BitVec.ofNat 16 ps.length = k
      bv_omega
    dsimp only
    rw [hfront p ps hout]
    dsimp only
    rw [hnewest, if_neg (List.cons_ne_nil p ps)]
    rfl

omit h in
theorem State.sequenceFields_congr (hentries : t.entries = s.entries) (hcache : (t.nd n).cache = (s.nd n).cache) :
    t.sequenceFields n = s.sequenceFields n := by
  simp only [State.sequenceFields, State.window, State.seqOf, State.tagged, hentries, hcache]

omit h in
theorem State.sequenceFields_nil (hout : (s.nd n).cache.outstanding = []) : s.sequenceFields n = (s.nd n).cache.numbers :=
  State.sequenceFields_eq fun p ps h => by rw [hout] at h; cases h

theorem State.Resolving.run_numbers : (s.resolvedRun n done).sequenceFields n = ((s.resolvedRun n done).nd n).cache.numbers := by
  refine State.sequenceFields_eq fun p ps hps => ?_
  have hr : rest = p :: ps := h.run_outstanding.symm.trans hps
  rw [h.run_seqOf hr, hr, State.resolvedRun_cache]
  rfl

/-- The unstored count that an ACKED WRITE is left with. -/
def State.unstoredLeft (s : State) (done : List Nat) (w : Command) : Nat :=
  w.unstored - (done.filter (fun q => !s.rewritten q)).countP
    (fun q => decide (w.lba ≤ s.lbaOf q ∧ s.lbaOf q < w.lba + w.finished))

omit h in
theorem State.writeTest_idle (hc : (s.nd n).media.current = none) : s.writeTest n = s := by
  rw [State.writeTest, hc]

omit h in
theorem State.writeTest_ends (hc : (s.nd n).media.current = some c)
    (hend : c.write = true ∧ c.finished = c.count ∧ (s.ackedPolicy n = false ∨ c.unstored = 0)) :
    s.writeTest n = s.withView n { s.view n with media := (s.nd n).media.ended .good .nothing } := by
  rw [State.writeTest, hc]
  exact (if_pos hend).trans (s.endCommand_eq_withView n _ _)

omit h in
theorem State.writeTest_waits (hc : (s.nd n).media.current = some c)
    (hgo : ¬(c.write = true ∧ c.finished = c.count ∧ (s.ackedPolicy n = false ∨ c.unstored = 0))) : s.writeTest n = s := by
  rw [State.writeTest, hc]
  exact if_neg hgo

/-- The WRITE test after the write-outs have been resolved, as the node's media shows it (R97, R120). -/
theorem State.Resolving.tested_media (w : Command) (hw : (s.nd n).media.current = some w) :
    (w.write = true → w.finished = w.count → x.policy ≠ .acked ∨ s.unstoredLeft done w = 0 →
      (((s.resolvedRun n done).writeTest n).nd n).media = (s.nd n).media.ended .good .nothing) ∧
    (w.write = true → x.policy = .acked → w.finished < w.count ∨ s.unstoredLeft done w ≠ 0 →
      (((s.resolvedRun n done).writeTest n).nd n).media =
        { (s.nd n).media with current := some { w with unstored := s.unstoredLeft done w } }) ∧
    (w.write = false ∨ (x.policy ≠ .acked ∧ w.finished < w.count) →
      (((s.resolvedRun n done).writeTest n).nd n).media = (s.nd n).media) := by
  have hmedia := h.run_command hw
  have hacked : (s.resolvedRun n done).ackedPolicy n = (x.policy == .acked) := State.ackedPolicy_eq h.run_slot
  have hself : (s.nd n).media = { (s.nd n).media with current := some w } := by rw [← hw]
  refine ⟨fun hwrite hlast hstored => ?_, fun hwrite hpolicy hmore => ?_, fun hgo => ?_⟩
  · by_cases hpolicy : x.policy = .acked
    · rw [if_pos ⟨hwrite, hpolicy⟩] at hmedia
      have hzero := hstored.resolve_left (not_not.mpr hpolicy)
      rw [State.writeTest_ends (c := { w with unstored := s.unstoredLeft done w }) (by rw [hmedia]; rfl) ⟨hwrite, hlast, .inr hzero⟩,
        State.withView_nd, hmedia]
      rfl
    · rw [if_neg fun hc => hpolicy hc.2] at hmedia
      rw [State.writeTest_ends (by rw [hmedia]) ⟨hwrite, hlast, .inl (by rw [hacked]; simpa using hpolicy)⟩, State.withView_nd, hmedia]
      rfl
  · rw [if_pos ⟨hwrite, hpolicy⟩] at hmedia
    have hgo : ¬(w.write = true ∧ w.finished = w.count ∧ ((s.resolvedRun n done).ackedPolicy n = false ∨ s.unstoredLeft done w = 0)) := by
      rintro ⟨-, hlast, hstored⟩
      rw [hacked, hpolicy] at hstored
      rcases hmore with hmore | hmore
      · exact hmore.ne hlast
      · exact hmore (hstored.resolve_left (by nofun))
    rw [State.writeTest_waits (c := { w with unstored := s.unstoredLeft done w }) (by rw [hmedia]; rfl) hgo, hmedia]
    rfl
  · have hplain : ¬(w.write = true ∧ x.policy = .acked) := fun hc => by
      rcases hgo with hread | ⟨hcached, -⟩
      · rw [hread] at hc
        exact Bool.false_ne_true hc.1
      · exact hcached hc.2
    rw [if_neg hplain] at hmedia
    have hnot : ¬(w.write = true ∧ w.finished = w.count ∧ ((s.resolvedRun n done).ackedPolicy n = false ∨ w.unstored = 0)) := by
      rintro ⟨hwrite, hlast, -⟩
      rcases hgo with hread | ⟨-, hmore⟩
      · rw [hread] at hwrite
        cases hwrite
      · exact hmore.ne hlast
    rw [State.writeTest_waits (by rw [hmedia]) hnot, hmedia, ← hself]

omit h in
/-- The WRITE test touches the media of its node alone. -/
theorem State.writeTest_view (s : State) (n : NodeId) :
    s.writeTest n = s.withView n { s.view n with media := ((s.writeTest n).nd n).media } := by
  have hsame : s = s.withView n { s.view n with media := (s.nd n).media } := (s.withView_view n).symm
  unfold State.writeTest
  split
  · exact hsame
  · split
    · rw [State.endCommand_eq_withView, State.withView_nd]
    · exact hsame

/-- What resolving the write-outs and the follow-ups leave of the media side. -/
structure State.StoredTo (s : State) (n : NodeId) (x : Medium) (done rest : List Nat) (v : MediaView) : Prop where
  numbers : (s.withView n v).sequenceFields n = v.cache.numbers
  stays : x.state ≠ .withdrawing →
    v.cache = { (s.nd n).cache with outstanding := rest, queue := (s.nd n).cache.queue ++ done.filter s.rewritten } ∧
      v.lru = s.lru ++ done.filter (fun q => !s.rewritten q) ∧ v.free = s.free ∧
      v.entries = s.entries.map (resolvedEntry s.rewritten done) ∧
      (x.state = .ready → s.Overdue rest → v.media = (s.nd n).media.left .faulted) ∧
      (x.state = .faulted ∨ ¬s.Overdue rest → ((s.nd n).media.current = none → v.media = (s.nd n).media) ∧
        ∀ w, (s.nd n).media.current = some w →
          (w.write = true → w.finished = w.count → x.policy ≠ .acked ∨ s.unstoredLeft done w = 0 →
            v.media = (s.nd n).media.ended .good .nothing) ∧
          (w.write = true → x.policy = .acked → w.finished < w.count ∨ s.unstoredLeft done w ≠ 0 →
            v.media = { (s.nd n).media with current := some { w with unstored := s.unstoredLeft done w } }) ∧
          (w.write = false ∨ (x.policy ≠ .acked ∧ w.finished < w.count) → v.media = (s.nd n).media))
  drains : x.state = .withdrawing → ¬(rest = [] ∧ done.filter s.rewritten = [] ∧ (s.nd n).cache.queue = []) →
    v.media = (s.nd n).media ∧ v.free = s.free ∧ v.lru = s.lru ++ done.filter (fun q => !s.rewritten q) ∧
      (¬s.Overdue rest →
        v.cache = { (s.nd n).cache with outstanding := rest, queue := (s.nd n).cache.queue ++ done.filter s.rewritten } ∧
        v.entries = s.entries.map (resolvedEntry s.rewritten done)) ∧
      (s.Overdue rest →
        v.cache = { (s.nd n).cache with outstanding := [], queue := rest ++ (s.nd n).cache.queue ++ done.filter s.rewritten } ∧
        v.entries = s.entries.map (fun e => if e.page ∈ done.filter (fun q => !s.rewritten q) then { e with state := .valid }
          else if e.page ∈ done.filter s.rewritten ∨ e.page ∈ rest then { e with state := .dirty } else e))
  vacated : x.state = .withdrawing → rest = [] ∧ done.filter s.rewritten = [] ∧ (s.nd n).cache.queue = [] →
    v.media.slot = none ∧ ∀ e ∈ v.entries, e.node ≠ n

/-- The cache after the run. -/
theorem State.Resolving.run_cache : ((s.resolvedRun n done).nd n).cache =
    { (s.nd n).cache with outstanding := rest, queue := (s.nd n).cache.queue ++ done.filter s.rewritten } := by
  rw [State.resolvedRun_cache, h.outstanding, List.drop_left]

/-- Another media record beside the run's cache and entries carries the same numbers. -/
theorem State.Resolving.media_numbers (y : Media) :
    (s.withView n { (s.resolvedRun n done).view n with media := y }).sequenceFields n =
      ((s.resolvedRun n done).nd n).cache.numbers := by
  rw [← h.run_numbers]
  refine State.sequenceFields_congr rfl ?_
  rw [State.withView_nd]
  rfl

theorem State.Resolving.storedTo : ∃ v, s.resolve n done.length = s.withView n v ∧ s.StoredTo n x done rest v := by
  have hcache := h.run_cache
  by_cases hx : x.state = .withdrawing
  · have hidle := h.idle_of_not_ready (by rw [hx]; nofun)
    have hmedia := State.resolvedRun_idle (done := done) hidle
    by_cases hnone : rest = [] ∧ done.filter s.rewritten = [] ∧ (s.nd n).cache.queue = []
    · refine ⟨_, h.resolve_vacates hx hnone, ?_, fun hne => absurd hx hne, fun _ hleft => absurd hnone hleft, fun _ _ => ⟨rfl, ?_⟩⟩
      · refine (State.sequenceFields_nil ?_).trans ?_
        · rw [State.withView_nd]
          show ((s.resolvedRun n done).nd n).cache.outstanding.filter _ = []
          rw [h.run_outstanding, hnone.1]
          rfl
        · rw [State.withView_nd]
      · intro e he
        have hkept := MediaView.filter_pagesOf h.run_listed.pages (fun e => e.node == n)
        have hmem : e ∈ ((s.resolvedRun n done).view n).entries.filter (fun e =>
          !(((s.resolvedRun n done).view n).pagesOf (fun e => e.node == n)).contains e.page) := he
        rw [hkept] at hmem
        simpa using (List.mem_filter.mp hmem).2
    · obtain ⟨hwaits, hfires⟩ := h.resolve_keeps_draining hx hnone
      by_cases ho : s.Overdue rest
      · refine ⟨_, hfires ho, ?_, fun hne => absurd hx hne, fun _ _ => ⟨hmedia, rfl, rfl, fun hno => absurd ho hno, fun _ => ⟨?_, ?_⟩⟩,
          fun _ hempty => absurd hempty hnone⟩
        · refine (State.sequenceFields_nil ?_).trans ?_
          · rw [State.withView_nd]
            rfl
          · rw [State.withView_nd]
        · show ({ ((s.resolvedRun n done).nd n).cache with
            queue := ((s.resolvedRun n done).nd n).cache.outstanding ++ ((s.resolvedRun n done).nd n).cache.queue
            outstanding := [] } : NodeCache) = _
          rw [hcache, List.append_assoc]
        · have hentries : ((s.resolvedRun n done).view n).returned.entries = (s.entries.map (resolvedEntry s.rewritten done)).map
              (fun e => if e.page ∈ ((s.resolvedRun n done).nd n).cache.outstanding then { e with state := .dirty } else e) := rfl
          rw [hentries, h.run_outstanding, List.map_map]
          exact List.map_congr_left fun e _ => resolvedEntry_returned h.disjoint e
      · refine ⟨_, hwaits ho, ?_, fun hne => absurd hx hne, fun _ _ => ⟨hmedia, rfl, rfl, fun _ => ⟨hcache, rfl⟩, fun hyes => absurd hyes ho⟩,
          fun _ hempty => absurd hempty hnone⟩
        exact h.media_numbers _
  · by_cases ho : x.state = .ready ∧ s.Overdue rest
    · refine ⟨_, h.resolve_faults ho.1 ho.2, h.media_numbers _, fun _ => ⟨hcache, rfl, rfl, rfl, fun _ _ => rfl, fun hno => ?_⟩,
        fun hw => absurd hw hx, fun hw => absurd hw hx⟩
      rcases hno with hf | hno
      · rw [ho.1] at hf
        cases hf
      · exact absurd ho.2 hno
    · have hno : x.state = .faulted ∨ ¬s.Overdue rest := by
        cases hstate : x.state with
        | ready => exact .inr fun hyes => ho ⟨hstate, hyes⟩
        | withdrawing => exact absurd hstate hx
        | faulted => exact .inl rfl
      have hresolve := h.resolve_waits hx hno
      rw [State.writeTest_view] at hresolve
      refine ⟨{ (s.resolvedRun n done).view n with media := (((s.resolvedRun n done).writeTest n).nd n).media }, ?_, h.media_numbers _,
        fun _ => ⟨hcache, rfl, rfl, rfl, fun hr hyes => absurd ⟨hr, hyes⟩ ho, fun _ => ⟨fun hidle => ?_, fun w hw => h.tested_media w hw⟩⟩,
        fun hw => absurd hw hx, fun hw => absurd hw hx⟩
      · rw [hresolve]
        exact s.withView_withView n _ _
      · have hmedia := State.resolvedRun_idle (done := done) hidle
        show (((s.resolvedRun n done).writeTest n).nd n).media = (s.nd n).media
        rw [State.writeTest_idle (by rw [hmedia, hidle]), hmedia]

end

/-! ### The judgement of MED_STORED (R114) -/

/-- A list that names entries is as long as there are such entries. -/
theorem State.Lists.length_eq (hpages : s.entryPages.Nodup) {f : EntryState → Bool} {l : List Nat} (hl : s.Lists n f l) :
    l.length = s.countEntries n f := by
  rw [State.countEntries, List.countP_eq_length_filter, ← List.length_map (f := Entry.page)]
  refine List.Perm.length_eq ((List.perm_ext_iff_of_nodup hl.1 (hpages.sublist (List.filter_sublist.map _))).mpr fun p => ?_)
  rw [hl.2 p]
  simp only [List.mem_map, List.mem_filter, Bool.and_eq_true, beq_iff_eq]
  constructor
  · rintro ⟨e, he, hp, hn, hf⟩
    exact ⟨e, ⟨he, hn, hf⟩, hp⟩
  · rintro ⟨e, ⟨he, hn, hf⟩, hp⟩
    exact ⟨e, he, hp, hn, hf⟩

theorem State.CacheLaw.outstanding_le (h : s.CacheLaw) (n : NodeId) : (s.nd n).cache.outstanding.length ≤ Config.dirtyCap := by
  obtain ⟨-, -, hout, -, -, hcap, -⟩ := h.2.2.2.2 n
  rw [hout.length_eq h.1]
  refine le_trans (List.countP_mono_left fun e _ he => ?_) hcap
  obtain ⟨hn, hst⟩ := Bool.and_eq_true_iff.mp he
  rw [hn, EntryState.isUnstored_of_isFlushing hst]
  rfl

theorem State.CacheLaw.seqOf_front (h : s.CacheLaw) (hout : (s.nd n).cache.outstanding = p :: ps) :
    s.seqOf p = some ((s.nd n).cache.seq - BitVec.ofNat 16 (s.nd n).cache.outstanding.length) := by
  have hnumber := (h.2.2.2.2 n).2.2.2.1 0 p (by rw [hout]; rfl)
  rwa [Nat.sub_zero] at hnumber

theorem State.CacheLaw.sequenceFields (h : s.CacheLaw) (n : NodeId) : s.sequenceFields n = (s.nd n).cache.numbers := by
  refine State.sequenceFields_eq fun p ps hout => ?_
  have hfront := h.seqOf_front hout
  rw [hout] at hfront
  exact hfront

theorem State.classify_nil (hout : (s.nd n).cache.outstanding = []) (through : Half) : s.classify n through = .nothing := by
  rw [State.classify, State.window, hout]

theorem State.CacheLaw.classify (h : s.CacheLaw) (hout : (s.nd n).cache.outstanding ≠ []) (through : Half) : s.classify n through =
    if (through - ((s.nd n).cache.seq - BitVec.ofNat 16 (s.nd n).cache.outstanding.length)).toNat < (s.nd n).cache.outstanding.length
    then .resolve ((through - ((s.nd n).cache.seq - BitVec.ofNat 16 (s.nd n).cache.outstanding.length)).toNat + 1)
    else if 32768 ≤ (through - ((s.nd n).cache.seq - BitVec.ofNat 16 (s.nd n).cache.outstanding.length)).toNat then .behind
    else .beyond := by
  obtain ⟨p, ps, hps⟩ := List.exists_cons_of_ne_nil hout
  have hwindow : s.window n = some ((s.nd n).cache.seq - BitVec.ofNat 16 (s.nd n).cache.outstanding.length,
      (s.nd n).cache.seq - BitVec.ofNat 16 (s.nd n).cache.outstanding.length + BitVec.ofNat 16 ps.length) := by
    have hfront := h.seqOf_front hps
    rw [State.window]
    split
    · next hnil => exact absurd hnil hout
    · next q qs hqs =>
      obtain ⟨rfl, rfl⟩ := List.cons.inj (hps.symm.trans hqs)
      rw [hfront]
  rw [State.classify, hwindow]

/-- The node whose write-outs are resolved has a slot. -/
theorem State.CacheLaw.resolving (h : s.CacheLaw) {k : Nat} (hk : k < (s.nd n).cache.outstanding.length) : ∃ x,
    s.Resolving n x ((s.nd n).cache.outstanding.take (k + 1)) ((s.nd n).cache.outstanding.drop (k + 1)) := by
  obtain ⟨-, -, hout, -, -, -, hslot, -⟩ := h.2.2.2.2 n
  obtain ⟨e, he, -, hn, -⟩ := hout.entry (List.getElem_mem hk)
  obtain ⟨x, hx, -⟩ := hslot e he hn
  exact ⟨x, h, hx, (List.take_append_drop _ _).symm⟩

theorem Media.left_eq_ite {y : Media} (hs : y.slot = some x) (st : SlotState) : y.left st =
    if y.current = none then { y with slot := some { x with state := st }, statePending := true }
    else { y with
      slot := some { x with state := st }
      statePending := true
      current := none
      received := none
      last := .notReady
      out := { status := some .notReady, data := .nothing } } := by
  rw [Media.left, hs]
  cases hc : y.current with
  | none => simp
  | some c => simp

/-- Settles O47: the judgement by the distance from the oldest number; the run that it resolves, and the follow-ups by the slot. -/
theorem medStoredResolvesInOrder : Obligations.MedStoredResolvesInOrder := by
  intro s tag n p _ h htakes hp c k x numbers rewritten done clean again rest overdue
  have hl : Frame.lengthOk ⟨0x24, tag, n.toByte, p⟩ = true := Frame.lengthOk_of_mem hp (by decide)
  have hk : k ≤ 64 := h.outstanding_le n
  have hthrough : fieldAt p 0 2 = leNat p := by rw [fieldAt_zero, List.take_of_length_le hp.le]
  have hnumbers : s.takeFrame.sequenceFields n = numbers c := h.sequenceFields n
  have hcarried : carried s.takeFrame n (.medStored tag n.toByte p) = s.takeFrame.takeStored n p := rfl
  rw [State.takeStored, hthrough, hnumbers] at hcarried
  by_cases hnil : c.outstanding = []
  · have hk0 : k = 0 := by show c.outstanding.length = 0; rw [hnil]; rfl
    have hclass : s.takeFrame.classify n (BitVec.ofNat 16 (leNat p)) = .nothing := State.classify_nil hnil _
    rw [hclass] at hcarried
    exact ⟨_, exec_nodeRequest_answers rfl htakes hl hcarried, fun _ => s.refused_replied _ _, fun hne => absurd hk0 hne,
      fun hlt => by omega, fun _ hlt => by omega, fun _ hlt => by omega, fun _ hlt => by omega⟩
  have hclass : s.takeFrame.classify n (BitVec.ofNat 16 (leNat p)) =
      if x < k then .resolve (x + 1) else if 32768 ≤ x then .behind else .beyond :=
    State.CacheLaw.classify (s := s.takeFrame) h hnil _
  have hk0 : k ≠ 0 := fun hk0 => hnil (List.eq_nil_of_length_eq_zero hk0)
  rw [hclass] at hcarried
  by_cases hlt : x < k
  · rw [if_pos hlt] at hcarried
    obtain ⟨y, hresolving⟩ := State.CacheLaw.resolving (s := s.takeFrame) h hlt
    obtain ⟨v, hresolve, hstored⟩ := hresolving.storedTo
    have hlength : ((s.takeFrame.nd n).cache.outstanding.take (x + 1)).length = x + 1 := by
      rw [List.length_take]
      exact Nat.min_eq_left hlt
    rw [hlength] at hresolve
    dsimp only at hcarried
    rw [hresolve, hstored.numbers] at hcarried
    obtain ⟨honly, hreplied⟩ := s.viewAnswered_frame n v (nodeFrame 0x24 tag n p) .ok (v.cache.numbers ++ leBytes 1 (x + 1))
    obtain ⟨hmedia, hcache⟩ := s.viewAnswered_nd n v (nodeFrame 0x24 tag n p) .ok (v.cache.numbers ++ leBytes 1 (x + 1))
    have hslot := s.viewAnswered_slot n v (nodeFrame 0x24 tag n p) .ok (v.cache.numbers ++ leBytes 1 (x + 1))
    have hy {z : Medium} (hz : s.slot n = some z) : y = z := Option.some.inj (hresolving.slot.symm.trans hz)
    refine ⟨s.viewAnswered n v (nodeFrame 0x24 tag n p) .ok (v.cache.numbers ++ leBytes 1 (x + 1)),
      exec_nodeRequest_answers rfl htakes hl hcarried, fun hno => by omega, fun _ hno => by omega, fun _ => ⟨honly, rfl, rfl, ?_⟩,
      fun z _ hz hw => ?_, fun z _ hz hw hleft => ?_, fun z _ hz hw hr ha hq => ?_⟩
    · rw [hcache]
      exact hreplied
    · obtain rfl := hy hz
      obtain ⟨hcache', hlru, hfree, hentries, hfaults, htested⟩ := hstored.stays hw
      rw [hmedia, hcache]
      exact ⟨hcache', hlru, hfree, hentries, fun hr ho => (hfaults hr ho).trans (Media.left_eq_ite hz .faulted), htested⟩
    · obtain rfl := hy hz
      obtain ⟨hmedia', hfree, hlru, hwaits, hreturned⟩ := hstored.drains hw hleft
      rw [hmedia, hcache]
      exact ⟨hmedia', hfree, hlru, hwaits, hreturned⟩
    · obtain rfl := hy hz
      obtain ⟨hempty, hnone⟩ := hstored.vacated hw ⟨hr, ha, hq⟩
      exact ⟨hslot.trans hempty, hnone⟩
  · rw [if_neg hlt] at hcarried
    by_cases hbehind : 32768 ≤ x
    · rw [if_pos hbehind] at hcarried
      exact ⟨_, exec_nodeRequest_answers rfl htakes hl hcarried, fun _ => s.refused_replied _ _, fun _ _ hin => by omega,
        fun hin => absurd hin hlt, fun _ hin => absurd hin hlt, fun _ hin => absurd hin hlt, fun _ hin => absurd hin hlt⟩
    · rw [if_neg hbehind] at hcarried
      exact ⟨_, exec_nodeRequest_answers rfl htakes hl hcarried, fun hout => by omega, fun _ _ _ => s.refused_replied _ _,
        fun hin => absurd hin hlt, fun _ hin => absurd hin hlt, fun _ hin => absurd hin hlt, fun _ hin => absurd hin hlt⟩

end

end Sys2Proof.Machine
end


section
/-! PROOFS. The entries and the lists that name them: what each operation on an entry leaves of their laws (O19). -/

namespace Sys2Proof.Machine

set_option Elab.async false

/-! ### A list that names entries -/

/-- `l` names, each once, the pages of the entries of `es` that have `P`. -/
structure Names (es : List Entry) (P : Entry → Prop) (l : List Nat) : Prop where
  nodup : l.Nodup
  pages : ∀ p ∈ l, p ∈ es.map Entry.page
  mem : ∀ e ∈ es, e.page ∈ l ↔ P e

section
variable {es es' : List Entry} {P : Entry → Prop} {l l' ps : List Nat} {p : Nat} {e : Entry} {g : Entry → Entry} {st : EntryState}

theorem names_iff (hpages : (es.map Entry.page).Nodup) :
    Names es P l ↔ l.Nodup ∧ ∀ p, p ∈ l ↔ ∃ e ∈ es, e.page = p ∧ P e := by
  constructor
  · intro h
    refine ⟨h.nodup, fun p => ⟨fun hp => ?_, ?_⟩⟩
    · obtain ⟨e, he, rfl⟩ := List.mem_map.mp (h.pages p hp)
      exact ⟨e, he, rfl, (h.mem e he).mp hp⟩
    · rintro ⟨e, he, rfl, hP⟩
      exact (h.mem e he).mpr hP
  · rintro ⟨hnodup, hmem⟩
    refine ⟨hnodup, fun p hp => ?_, fun e he => ⟨fun hp => ?_, fun hP => (hmem e.page).mpr ⟨e, he, rfl, hP⟩⟩⟩
    · obtain ⟨e, he, hpage, -⟩ := (hmem p).mp hp
      exact List.mem_map.mpr ⟨e, he, hpage⟩
    · obtain ⟨f, hf, hpage, hP⟩ := (hmem e.page).mp hp
      rwa [List.inj_on_of_nodup_map hpages hf he hpage] at hP

theorem Names.not_mem (h : Names es P l) (he : e ∈ es) (hP : ¬P e) : e.page ∉ l := fun hp => hP ((h.mem e he).mp hp)

theorem Names.entry (h : Names es P l) (hp : p ∈ l) : ∃ e ∈ es, e.page = p ∧ P e := by
  obtain ⟨e, he, rfl⟩ := List.mem_map.mp (h.pages p hp)
  exact ⟨e, he, rfl, (h.mem e he).mp hp⟩

/-- The entries change otherwise than in their pages. -/
theorem Names.map (hg : ∀ e, (g e).page = e.page) (hnodup : l.Nodup) (hpages : ∀ p ∈ l, p ∈ es.map Entry.page)
    (hmem : ∀ e ∈ es, e.page ∈ l ↔ P (g e)) : Names (es.map g) P l := by
  refine ⟨hnodup, fun p hp => ?_, fun e he => ?_⟩
  · rw [List.map_map]
    have hpage : Entry.page ∘ g = Entry.page := funext hg
    rw [hpage]
    exact hpages p hp
  · obtain ⟨f, hf, rfl⟩ := List.mem_map.mp he
    rw [hg]
    exact hmem f hf

theorem Names.map_same (h : Names es P l) (hg : ∀ e, (g e).page = e.page) (hP : ∀ e ∈ es, P (g e) ↔ P e) : Names (es.map g) P l :=
  Names.map hg h.nodup h.pages fun e he => (h.mem e he).trans (hP e he).symm

/-- Entries that the list is not for leave. -/
theorem Names.filter (h : Names es P l) {f : Entry → Bool} (hf : ∀ e ∈ es, f e = false → ¬P e) : Names (es.filter f) P l := by
  refine ⟨h.nodup, fun p hp => ?_, fun e he => h.mem e (List.mem_filter.mp he).1⟩
  obtain ⟨e, he, hpage, hP⟩ := h.entry hp
  refine List.mem_map.mpr ⟨e, List.mem_filter.mpr ⟨he, ?_⟩, hpage⟩
  exact Bool.not_eq_false _ ▸ fun hf' => hf e he hf' hP

/-- Entries leave with their pages. -/
theorem Names.removed (h : Names es P l) (ps : List Nat) :
    Names (es.filter (fun e => !ps.contains e.page)) P (l.filter (fun q => !ps.contains q)) := by
  refine ⟨h.nodup.filter _, fun p hp => ?_, fun e he => ?_⟩
  · obtain ⟨hp, hkept⟩ := List.mem_filter.mp hp
    obtain ⟨e, he, rfl, -⟩ := h.entry hp
    exact List.mem_map.mpr ⟨e, List.mem_filter.mpr ⟨he, hkept⟩, rfl⟩
  · obtain ⟨he, hkept⟩ := List.mem_filter.mp he
    rw [List.mem_filter, and_iff_left hkept]
    exact h.mem e he

/-- A new entry that the list is for joins its tail. -/
theorem Names.insert (h : Names es P l) (hes : es'.Perm (e :: es)) (hnew : e.page ∉ es.map Entry.page) (hP : P e) :
    Names es' P (l ++ [e.page]) := by
  have hp : e.page ∉ l := fun hm => hnew (h.pages _ hm)
  refine ⟨List.nodup_append.mpr ⟨h.nodup, List.nodup_singleton _, ?_⟩, fun p hp => ?_, fun f hf => ?_⟩
  · rintro a ha b hb rfl
    exact hp (List.mem_singleton.mp hb ▸ ha)
  · rw [(hes.map Entry.page).mem_iff, List.map_cons, List.mem_cons]
    exact (List.mem_append.mp hp).elim (fun hm => .inr (h.pages p hm)) fun hm => .inl (List.mem_singleton.mp hm)
  · rw [List.mem_append, List.mem_singleton]
    rcases List.mem_cons.mp (hes.mem_iff.mp hf) with rfl | hf
    · exact iff_of_true (.inr rfl) hP
    · rw [← h.mem f hf, or_iff_left]
      exact fun heq => hnew (heq ▸ List.mem_map_of_mem hf)

/-- A new entry that the list is not for. -/
theorem Names.insert_other (h : Names es P l) (hes : es'.Perm (e :: es)) (hnew : e.page ∉ es.map Entry.page) (hP : ¬P e) :
    Names es' P l := by
  refine ⟨h.nodup, fun p hp => ?_, fun f hf => ?_⟩
  · rw [(hes.map Entry.page).mem_iff]
    exact List.mem_cons_of_mem _ (h.pages p hp)
  · rcases List.mem_cons.mp (hes.mem_iff.mp hf) with rfl | hf
    · exact iff_of_false (fun hm => hnew (h.pages _ hm)) hP
    · exact h.mem f hf

/-- The entry with state `st` where it is the one in page `p`. -/
def Entry.restate (p : Nat) (st : EntryState) (e : Entry) : Entry := if e.page = p then { e with state := st } else e

theorem Entry.restate_page (p : Nat) (st : EntryState) (e : Entry) : (e.restate p st).page = e.page := by
  unfold Entry.restate; split <;> rfl

theorem Entry.restate_node (p : Nat) (st : EntryState) (e : Entry) : (e.restate p st).node = e.node := by
  unfold Entry.restate; split <;> rfl

theorem Entry.restate_lba (p : Nat) (st : EntryState) (e : Entry) : (e.restate p st).lba = e.lba := by
  unfold Entry.restate; split <;> rfl

theorem Entry.restate_self (st : EntryState) (e : Entry) : e.restate e.page st = { e with state := st } := if_pos rfl

theorem Entry.restate_ne (h : e.page ≠ p) : e.restate p st = e := if_neg h

/-- The entry in page `e.page` is `e`. -/
theorem restate_cases (hpages : (es.map Entry.page).Nodup) (he : e ∈ es) {f : Entry} (hf : f ∈ es) :
    f = e ∨ f.page ≠ e.page := or_iff_not_imp_right.mpr fun h => List.inj_on_of_nodup_map hpages hf he (not_not.mp h)

/-- The entry with state `st` where it is one in the pages of `ps`. -/
def Entry.restateAll (ps : List Nat) (st : EntryState) (e : Entry) : Entry := if e.page ∈ ps then { e with state := st } else e

theorem Entry.restateAll_page (ps : List Nat) (st : EntryState) (e : Entry) : (e.restateAll ps st).page = e.page := by
  unfold Entry.restateAll; split <;> rfl

theorem Entry.restateAll_node (ps : List Nat) (st : EntryState) (e : Entry) : (e.restateAll ps st).node = e.node := by
  unfold Entry.restateAll; split <;> rfl

theorem Entry.restateAll_lba (ps : List Nat) (st : EntryState) (e : Entry) : (e.restateAll ps st).lba = e.lba := by
  unfold Entry.restateAll; split <;> rfl

theorem Entry.restateAll_cases (ps : List Nat) (st : EntryState) (e : Entry) :
    (e.page ∈ ps ∧ e.restateAll ps st = { e with state := st }) ∨ (e.page ∉ ps ∧ e.restateAll ps st = e) := by
  by_cases hm : e.page ∈ ps
  · exact .inl ⟨hm, if_pos hm⟩
  · exact .inr ⟨hm, if_neg hm⟩

/-- Entries change their states, none from or into one that the list is for. -/
theorem Names.restateAll_same (h : Names es P l) {ps : List Nat} (hP : ∀ e ∈ es, e.page ∈ ps → (P { e with state := st } ↔ P e)) :
    Names (es.map (Entry.restateAll ps st)) P l := by
  refine h.map_same (Entry.restateAll_page _ _) fun e he => ?_
  rcases e.restateAll_cases ps st with ⟨hm, heq⟩ | ⟨-, heq⟩
  · rw [heq]
    exact hP e he hm
  · rw [heq]

theorem countP_restateAll_le {ps : List Nat} {f : Entry → Bool} (hf : ∀ e ∈ es, e.page ∈ ps → f { e with state := st } = true → f e = true) :
    (es.map (Entry.restateAll ps st)).countP f ≤ es.countP f := by
  rw [List.countP_map]
  refine List.countP_mono_left fun e he hfe => ?_
  rw [Function.comp_apply] at hfe
  rcases e.restateAll_cases ps st with ⟨hm, heq⟩ | ⟨-, heq⟩
  · rw [heq] at hfe
    exact hf e he hm hfe
  · rwa [heq] at hfe

/-- The entry changes into a state that the list is not for. -/
theorem Names.restate_out (h : Names es P l) (hpages : (es.map Entry.page).Nodup) (he : e ∈ es) (hP : ¬P { e with state := st }) :
    Names (es.map (Entry.restate e.page st)) P (without e.page l) := by
  refine Names.map (Entry.restate_page _ _) (h.nodup.filter _) (fun p hp => h.pages p (mem_without.mp hp).1) fun f hf => ?_
  rw [mem_without]
  rcases restate_cases hpages he hf with rfl | hne
  · rw [Entry.restate_self]
    exact iff_of_false (fun hm => hm.2 rfl) hP
  · rw [Entry.restate_ne hne, h.mem f hf, and_iff_left hne]

/-- The entry changes into a state that the list is for. -/
theorem Names.restate_in (h : Names es P l) (hpages : (es.map Entry.page).Nodup) (he : e ∈ es) (hP : P { e with state := st }) :
    Names (es.map (Entry.restate e.page st)) P (without e.page l ++ [e.page]) := by
  refine Names.map (Entry.restate_page _ _) ?_ (fun p hp => ?_) fun f hf => ?_
  · refine List.nodup_append.mpr ⟨h.nodup.filter _, List.nodup_singleton _, fun a ha b hb heq => ?_⟩
    exact (mem_without.mp ha).2 (heq.trans (List.mem_singleton.mp hb))
  · rcases List.mem_append.mp hp with hp | hp
    · exact h.pages p (mem_without.mp hp).1
    · exact List.mem_singleton.mp hp ▸ List.mem_map_of_mem he
  · rw [List.mem_append, mem_without, List.mem_singleton]
    rcases restate_cases hpages he hf with rfl | hne
    · rw [Entry.restate_self]
      exact iff_of_true (.inr rfl) hP
    · rw [Entry.restate_ne hne, ← h.mem f hf, or_iff_left hne, and_iff_left hne]

/-- The entry changes between states of which the list is for both or neither. -/
theorem Names.restate_same (h : Names es P l) (hpages : (es.map Entry.page).Nodup) (he : e ∈ es) (hP : P { e with state := st } ↔ P e) :
    Names (es.map (Entry.restate e.page st)) P l := by
  refine h.map_same (Entry.restate_page _ _) fun f hf => ?_
  rcases restate_cases hpages he hf with rfl | hne
  · rw [Entry.restate_self]
    exact hP
  · rw [Entry.restate_ne hne]

/-- Of one entry that changes its state, a count rises by at most one. -/
theorem countP_restate_le (hpages : (es.map Entry.page).Nodup) (f : Entry → Bool) :
    (es.map (Entry.restate p st)).countP f ≤ es.countP f + 1 := by
  induction es with
  | nil => exact Nat.zero_le _
  | cons e es ih =>
    obtain ⟨hnot, hpages⟩ := List.nodup_cons.mp hpages
    rw [List.map_cons, List.countP_cons, List.countP_cons]
    by_cases hp : e.page = p
    · have hrest : es.map (Entry.restate p st) = es :=
        (List.map_congr_left fun x hx => Entry.restate_ne fun hx' => hnot (List.mem_map.mpr ⟨x, hx, hx'.trans hp.symm⟩)).trans (List.map_id es)
      rw [hrest]
      split <;> split <;> omega
    · rw [Entry.restate_ne hp]
      have := ih hpages
      omega

theorem countP_restate_of_imp (hpages : (es.map Entry.page).Nodup) (he : e ∈ es) {f : Entry → Bool}
    (hf : f { e with state := st } = true → f e = true) : (es.map (Entry.restate e.page st)).countP f ≤ es.countP f := by
  rw [List.countP_map]
  refine List.countP_mono_left fun x hx h => ?_
  rcases restate_cases hpages he hx with rfl | hne
  · rw [Function.comp_apply, Entry.restate_self] at h
    exact hf h
  · rwa [Function.comp_apply, Entry.restate_ne hne] at h

end

/-! ### The lists of one node -/

/-- The entry is of node `n` and in a state that `f` accepts. -/
def Entry.Of (n : NodeId) (f : EntryState → Bool) (e : Entry) : Prop := e.node = n ∧ f e.state = true

/-- The laws of a node's lists and counts over the entries `es` (R100, R103, R110, R111, R113). -/
structure NodeCache.Lawful (n : NodeId) (es : List Entry) (c : NodeCache) : Prop where
  fetches : Names es (Entry.Of n (fun x => x == .filling none)) c.fetches
  queue : Names es (Entry.Of n EntryState.isDirty) c.queue
  outstanding : Names es (Entry.Of n EntryState.isFlushing) c.outstanding
  numbered : ∀ i e, e ∈ es → c.outstanding[i]? = some e.page →
    ∃ r d, e.state = .flushing (c.seq - BitVec.ofNat 16 (c.outstanding.length - i)) r d
  filling : es.countP (fun e => e.node == n && e.state.isFilling) ≤ Config.fillingCap
  unstored : es.countP (fun e => e.node == n && e.state.isUnstored) ≤ Config.dirtyCap

section
variable {es es' : List Entry} {c : NodeCache} {n m : NodeId} {e : Entry} {g : Entry → Entry} {f : Entry → Bool}

/-- Entries change, but for those of node `n`. -/
theorem NodeCache.Lawful.map_others (h : c.Lawful n es) (hg : ∀ e, (g e).page = e.page) (hnode : ∀ e, (g e).node = e.node)
    (hsame : ∀ e ∈ es, e.node = n → g e = e) : c.Lawful n (es.map g) := by
  have hof (f : EntryState → Bool) : ∀ e ∈ es, Entry.Of n f (g e) ↔ Entry.Of n f e := fun e he => by
    by_cases hn : e.node = n
    · rw [hsame e he hn]
    · exact iff_of_false (fun hc => hn ((hnode e).symm.trans hc.1)) fun hc => hn hc.1
  have hcount (f : EntryState → Bool) : (es.map g).countP (fun e => e.node == n && f e.state) = es.countP (fun e => e.node == n && f e.state) := by
    rw [List.countP_map]
    refine List.countP_congr fun e he => ?_
    have := hof f e he
    simpa [Entry.Of] using this
  refine ⟨h.fetches.map_same hg (hof _), h.queue.map_same hg (hof _), h.outstanding.map_same hg (hof _), fun i e he hi => ?_,
    (hcount _).trans_le h.filling, (hcount _).trans_le h.unstored⟩
  obtain ⟨x, hx, rfl⟩ := List.mem_map.mp he
  rw [hg] at hi
  have hn := ((h.outstanding.mem x hx).mp (List.mem_of_getElem? hi)).1
  rw [hsame x hx hn]
  exact h.numbered i x hx hi

/-- Entries leave that are VALID or of other nodes. -/
theorem NodeCache.Lawful.filter (h : c.Lawful n es) (hf : ∀ e ∈ es, f e = false → e.node = n → e.state = .valid) :
    c.Lawful n (es.filter f) := by
  have hof {k : EntryState → Bool} (hk : k .valid = false) : ∀ e ∈ es, f e = false → ¬Entry.Of n k e := fun e he hfe ⟨hn, hst⟩ => by
    rw [hf e he hfe hn, hk] at hst
    cases hst
  have hcount (k : Entry → Bool) : (es.filter f).countP k ≤ es.countP k := List.filter_sublist.countP_le
  exact ⟨h.fetches.filter (hof rfl), h.queue.filter (hof rfl), h.outstanding.filter (hof rfl),
    fun i e he hi => h.numbered i e (List.mem_filter.mp he).1 hi, (hcount _).trans h.filling, (hcount _).trans h.unstored⟩

/-- A new entry of another node joins. -/
theorem NodeCache.Lawful.insert_other (h : c.Lawful n es) (hes : es'.Perm (e :: es)) (hnew : e.page ∉ es.map Entry.page)
    (hn : e.node ≠ n) : c.Lawful n es' := by
  have hof (k : EntryState → Bool) : ¬Entry.Of n k e := fun hc => hn hc.1
  have hcount (k : EntryState → Bool) : es'.countP (fun e => e.node == n && k e.state) = es.countP (fun e => e.node == n && k e.state) := by
    rw [hes.countP_eq, List.countP_cons_of_neg (by simp [hn])]
  refine ⟨h.fetches.insert_other hes hnew (hof _), h.queue.insert_other hes hnew (hof _), h.outstanding.insert_other hes hnew (hof _),
    fun i x hx hi => ?_, (hcount _).trans_le h.filling, (hcount _).trans_le h.unstored⟩
  rcases List.mem_cons.mp (hes.mem_iff.mp hx) with rfl | hx
  · exact absurd (h.outstanding.pages _ (List.mem_of_getElem? hi)) hnew
  · exact h.numbered i x hx hi

/-- Write-outs that leave no others behind keep their numbers: those at the front of the list. -/
theorem NodeCache.Lawful.numbered_without (h : c.Lawful n es) (he : e ∈ es)
    (hfront : e.state.isFlushing = true → c.outstanding.head? = some e.page) {st : EntryState} (i : Nat) {x : Entry}
    (hx : x ∈ es.map (Entry.restate e.page st)) (hi : (without e.page c.outstanding)[i]? = some x.page) :
    ∃ r d, x.state = .flushing (c.seq - BitVec.ofNat 16 ((without e.page c.outstanding).length - i)) r d := by
  obtain ⟨y, hy, rfl⟩ := List.mem_map.mp hx
  rw [Entry.restate_page] at hi
  have hne : y.page ≠ e.page := (mem_without.mp (List.mem_of_getElem? hi)).2
  rw [Entry.restate_ne hne]
  by_cases hp : e.page ∈ c.outstanding
  · obtain ⟨rest, hout⟩ := List.head?_eq_some_iff.mp (hfront ((h.outstanding.mem e he).mp hp).2)
    have hnodup := h.outstanding.nodup
    rw [hout] at hnodup
    have hwithout : without e.page c.outstanding = rest := by
      rw [hout]
      exact (List.filter_cons_of_neg (by simp)).trans (without_of_not_mem (List.nodup_cons.mp hnodup).1)
    rw [hwithout] at hi ⊢
    have hold := h.numbered (i + 1) y hy (by rw [hout]; exact hi)
    rwa [hout, List.length_cons, Nat.add_sub_add_right] at hold
  · rw [without_of_not_mem hp] at hi ⊢
    exact h.numbered i y hy hi

/-- The node's entry `e` is DIRTY, at the tail of the write-out queue (R96, R109, R115). -/
theorem NodeCache.Lawful.makeDirty (h : c.Lawful n es) (hpages : (es.map Entry.page).Nodup) (he : e ∈ es) (hn : e.node = n)
    (hst : e.state.isDirty = false) (hfront : e.state.isFlushing = true → c.outstanding.head? = some e.page)
    (hcap : e.state.isFlushing = false → es.countP (fun e => e.node == n && e.state.isUnstored) < Config.dirtyCap) :
    ({ c with
      fetches := without e.page c.fetches
      outstanding := without e.page c.outstanding
      queue := c.queue ++ [e.page] } : NodeCache).Lawful n (es.map (Entry.restate e.page .dirty)) where
  fetches := h.fetches.restate_out hpages he fun hc => by cases hc.2
  queue := by
    have hin := h.queue.restate_in hpages he (st := .dirty) ⟨hn, rfl⟩
    rwa [without_of_not_mem (h.queue.not_mem he fun hc => by simpa [hst] using hc.2)] at hin
  outstanding := h.outstanding.restate_out hpages he fun hc => by cases hc.2
  numbered i _ hx hi := h.numbered_without he hfront i hx hi
  filling := (countP_restate_of_imp hpages he fun hc => by simp [EntryState.isFilling] at hc).trans h.filling
  unstored := by
    by_cases hflush : e.state.isFlushing = true
    · exact (countP_restate_of_imp hpages he fun _ => by simp [hn, EntryState.isUnstored_of_isFlushing hflush]).trans h.unstored
    · exact (countP_restate_le hpages _).trans (hcap (by simpa using hflush))

/-- The node's entry `e` is VALID (R105, R115). -/
theorem NodeCache.Lawful.makeValid (h : c.Lawful n es) (hpages : (es.map Entry.page).Nodup) (he : e ∈ es)
    (hfront : e.state.isFlushing = true → c.outstanding.head? = some e.page) :
    ({ c with
      fetches := without e.page c.fetches
      queue := without e.page c.queue
      outstanding := without e.page c.outstanding } : NodeCache).Lawful n (es.map (Entry.restate e.page .valid)) where
  fetches := h.fetches.restate_out hpages he fun hc => by cases hc.2
  queue := h.queue.restate_out hpages he fun hc => by cases hc.2
  outstanding := h.outstanding.restate_out hpages he fun hc => by cases hc.2
  numbered i _ hx hi := h.numbered_without he hfront i hx hi
  filling := (countP_restate_of_imp hpages he fun hc => by simp [EntryState.isFilling] at hc).trans h.filling
  unstored := (countP_restate_of_imp hpages he fun hc => by simp [EntryState.isUnstored, EntryState.isDirty, EntryState.isFlushing] at hc).trans
    h.unstored

/-- A FLUSHING entry of the node is written again: it keeps its number (R96). -/
theorem NodeCache.Lawful.rewrite (h : c.Lawful n es) (hpages : (es.map Entry.page).Nodup) (he : e ∈ es) {b : Half} {r w : Bool} {d : Nat}
    (hst : e.state = .flushing b r d) : c.Lawful n (es.map (Entry.restate e.page (.flushing b w d))) where
  fetches := h.fetches.restate_same hpages he (by simp [Entry.Of, hst])
  queue := h.queue.restate_same hpages he (by simp [Entry.Of, hst, EntryState.isDirty])
  outstanding := h.outstanding.restate_same hpages he (by simp [Entry.Of, hst, EntryState.isFlushing])
  numbered i x hx hi := by
    obtain ⟨y, hy, rfl⟩ := List.mem_map.mp hx
    rw [Entry.restate_page] at hi
    obtain ⟨r', d', hy'⟩ := h.numbered i y hy hi
    rcases restate_cases hpages he hy with rfl | hne
    · rw [Entry.restate_self]
      rw [hst] at hy'
      exact ⟨w, d, by rw [(EntryState.flushing.inj hy').1]⟩
    · rw [Entry.restate_ne hne]
      exact ⟨r', d', hy'⟩
  filling := (countP_restate_of_imp hpages he fun hc => by simp [EntryState.isFilling] at hc).trans h.filling
  unstored := (countP_restate_of_imp hpages he fun hc => by simpa [hst, EntryState.isUnstored, EntryState.isDirty, EntryState.isFlushing] using hc).trans
    h.unstored

/-- The block at the head of the queue is written out with the next number (R111, R112). -/
theorem NodeCache.Lawful.writeOut (h : c.Lawful n es) (hpages : (es.map Entry.page).Nodup) {p d : Nat} {rest : List Nat}
    (hq : c.queue = p :: rest) : ({ c with queue := rest, outstanding := c.outstanding ++ [p], seq := c.seq + 1 } : NodeCache).Lawful n
      (es.map (Entry.restate p (.flushing c.seq false d))) := by
  obtain ⟨e, he, rfl, hn, hst⟩ := h.queue.entry (hq ▸ List.mem_cons_self (a := p))
  have hnodup := h.queue.nodup
  rw [hq] at hnodup
  have hflush : e.state.isFlushing = false := by cases hs : e.state <;> simp_all [EntryState.isDirty, EntryState.isFlushing]
  have hout : e.page ∉ c.outstanding := h.outstanding.not_mem he fun hc => by simpa [hflush] using hc.2
  refine ⟨?_, ?_, ?_, fun i x hx hi => ?_, ?_, ?_⟩
  · refine h.fetches.restate_same hpages he ?_
    cases hs : e.state <;> simp_all [EntryState.isDirty, Entry.Of]
  · have hwithout : without e.page c.queue = rest := by
      rw [hq]
      exact (List.filter_cons_of_neg (by simp)).trans (without_of_not_mem (List.nodup_cons.mp hnodup).1)
    exact hwithout ▸ h.queue.restate_out hpages he fun hc => by cases hc.2
  · have hin := h.outstanding.restate_in hpages he (st := .flushing c.seq false d) ⟨hn, rfl⟩
    rwa [without_of_not_mem hout] at hin
  · obtain ⟨y, hy, rfl⟩ := List.mem_map.mp hx
    rw [Entry.restate_page] at hi
    rw [List.length_append, List.length_singleton]
    by_cases hlt : i < c.outstanding.length
    · rw [List.getElem?_append_left hlt] at hi
      have hne : y.page ≠ e.page := fun heq => hout (heq ▸ List.mem_of_getElem? hi)
      rw [Entry.restate_ne hne]
      obtain ⟨r', d', hy'⟩ := h.numbered i y hy hi
      have hsucc : c.outstanding.length + 1 - i = (c.outstanding.length - i) + 1 := by omega
      rw [hsucc, BitVec.ofNat_add]
      exact ⟨r', d', hy'.trans (congrArg (fun b => EntryState.flushing b r' d') (add_sub_add_right_eq_sub c.seq _ 1).symm)⟩
    · rw [List.getElem?_append_right (Nat.not_lt.mp hlt)] at hi
      obtain ⟨hi, hpage⟩ := List.getElem?_eq_some_iff.mp hi
      have hlast : i = c.outstanding.length := by rw [List.length_singleton] at hi; omega
      have hy' : y = e := List.inj_on_of_nodup_map hpages hy he (by rw [← hpage, List.getElem_singleton])
      rw [hy', Entry.restate_self, hlast, Nat.add_sub_cancel_left]
      exact ⟨false, d, congrArg (fun b => EntryState.flushing b false d) (add_sub_cancel_right c.seq 1).symm⟩
  · exact (countP_restate_of_imp hpages he fun hc => by simp [EntryState.isFilling] at hc).trans h.filling
  · refine (countP_restate_of_imp hpages he fun _ => ?_).trans h.unstored
    simp [hn, hst, EntryState.isUnstored]

/-- A FILLING entry is created (R100, R103). -/
theorem NodeCache.Lawful.newFilling (h : c.Lawful n es) {p lba : Nat} (hes : es'.Perm (⟨p, n, lba, .filling none⟩ :: es))
    (hnew : p ∉ es.map Entry.page) (hcap : es.countP (fun e => e.node == n && e.state.isFilling) < Config.fillingCap) :
    ({ c with fetches := c.fetches ++ [p] } : NodeCache).Lawful n es' where
  fetches := h.fetches.insert hes hnew ⟨rfl, rfl⟩
  queue := h.queue.insert_other hes hnew fun hc => by cases hc.2
  outstanding := h.outstanding.insert_other hes hnew fun hc => by cases hc.2
  numbered i x hx hi := by
    rcases List.mem_cons.mp (hes.mem_iff.mp hx) with rfl | hx
    · exact absurd (h.outstanding.pages _ (List.mem_of_getElem? hi)) hnew
    · exact h.numbered i x hx hi
  filling := by
    rw [hes.countP_eq, List.countP_cons_of_pos (by simp [EntryState.isFilling])]
    exact hcap
  unstored := by
    rw [hes.countP_eq, List.countP_cons_of_neg (by simp [EntryState.isUnstored, EntryState.isDirty, EntryState.isFlushing])]
    exact h.unstored

/-- A DIRTY entry is created (R100, R110). -/
theorem NodeCache.Lawful.newDirty (h : c.Lawful n es) {p lba : Nat} (hes : es'.Perm (⟨p, n, lba, .dirty⟩ :: es))
    (hnew : p ∉ es.map Entry.page) (hcap : es.countP (fun e => e.node == n && e.state.isUnstored) < Config.dirtyCap) :
    ({ c with queue := c.queue ++ [p] } : NodeCache).Lawful n es' where
  fetches := h.fetches.insert_other hes hnew fun hc => by cases hc.2
  queue := h.queue.insert hes hnew ⟨rfl, rfl⟩
  outstanding := h.outstanding.insert_other hes hnew fun hc => by cases hc.2
  numbered i x hx hi := by
    rcases List.mem_cons.mp (hes.mem_iff.mp hx) with rfl | hx
    · exact absurd (h.outstanding.pages _ (List.mem_of_getElem? hi)) hnew
    · exact h.numbered i x hx hi
  filling := by
    rw [hes.countP_eq, List.countP_cons_of_neg (by simp [EntryState.isFilling])]
    exact h.filling
  unstored := by
    rw [hes.countP_eq, List.countP_cons_of_pos (by simp [EntryState.isUnstored, EntryState.isDirty])]
    exact hcap

/-- Entries in the pages of `ps` are freed: write-outs among them only where none is left behind (R101). -/
theorem NodeCache.Lawful.dropped (h : c.Lawful n es) (ps : List Nat)
    (hout : (c.dropped ps).outstanding = c.outstanding ∨ (c.dropped ps).outstanding = []) :
    (c.dropped ps).Lawful n (es.filter (fun e => !ps.contains e.page)) where
  fetches := h.fetches.removed ps
  queue := h.queue.removed ps
  outstanding := h.outstanding.removed ps
  numbered i x hx hi := by
    rcases hout with hout | hout
    · rw [hout] at hi ⊢
      exact h.numbered i x (List.mem_filter.mp hx).1 hi
    · rw [hout] at hi
      cases hi
  filling := List.filter_sublist.countP_le.trans h.filling
  unstored := List.filter_sublist.countP_le.trans h.unstored

/-- The write-outs are DIRTY again, at the head of the queue (R118, R119). -/
theorem NodeCache.Lawful.returned (h : c.Lawful n es) : ({ c with queue := c.outstanding ++ c.queue, outstanding := [] } : NodeCache).Lawful n
    (es.map (Entry.restateAll c.outstanding .dirty)) := by
  have hflush : ∀ e ∈ es, e.page ∈ c.outstanding → Entry.Of n EntryState.isFlushing e := fun e he => (h.outstanding.mem e he).mp
  have hdisjoint : ∀ p ∈ c.outstanding, p ∉ c.queue := fun p hp hq => by
    obtain ⟨e, he, rfl, -, hst⟩ := h.outstanding.entry hp
    have hdirty := ((h.queue.mem e he).mp hq).2
    cases hs : e.state <;> simp_all [EntryState.isDirty, EntryState.isFlushing]
  refine ⟨h.fetches.restateAll_same fun e he hm => ?_, Names.map (Entry.restateAll_page _ _) ?_ (fun p hp => ?_) fun e he => ?_,
    Names.map (Entry.restateAll_page _ _) List.nodup_nil nofun fun e he => ?_, nofun,
    (countP_restateAll_le fun e he hm hfe => ?_).trans h.filling, (countP_restateAll_le fun e he hm hfe => ?_).trans h.unstored⟩
  · have hst := (hflush e he hm).2
    refine iff_of_false (fun hc => by cases hc.2) fun hc => ?_
    rw [beq_iff_eq.mp hc.2] at hst
    cases hst
  · exact List.nodup_append.mpr ⟨h.outstanding.nodup, h.queue.nodup, fun a ha b hb heq => hdisjoint a ha (heq ▸ hb)⟩
  · exact (List.mem_append.mp hp).elim (h.outstanding.pages p) (h.queue.pages p)
  · rw [List.mem_append, h.queue.mem e he]
    rcases e.restateAll_cases c.outstanding .dirty with ⟨hm, heq⟩ | ⟨hm, heq⟩
    · rw [heq]
      exact iff_of_true (.inl hm) ⟨(hflush e he hm).1, rfl⟩
    · rw [heq, or_iff_right hm]
  · refine iff_of_false List.not_mem_nil ?_
    rcases e.restateAll_cases c.outstanding .dirty with ⟨-, heq⟩ | ⟨hm, heq⟩
    · rw [heq]
      exact fun hc => by cases hc.2
    · rwa [heq, ← h.outstanding.mem e he]
  · simp [EntryState.isFilling] at hfe
  · simp [(hflush e he hm).1, EntryState.isUnstored_of_isFlushing (hflush e he hm).2]

/-- The fetches at the head of the pending fetch list have been sent (R104). -/
theorem NodeCache.Lawful.fetchesSent (h : c.Lawful n es) {tags rest : List Nat} (hf : c.fetches = tags ++ rest) (d : Nat) :
    ({ c with fetches := rest } : NodeCache).Lawful n (es.map (Entry.restateAll tags (.filling (some d)))) := by
  have hnodup := h.fetches.nodup
  rw [hf] at hnodup
  obtain ⟨-, hrest, hdisjoint⟩ := List.nodup_append.mp hnodup
  have hpending : ∀ e ∈ es, e.page ∈ tags → e.node = n ∧ e.state = .filling none := fun e he hm => by
    obtain ⟨hn, hst⟩ := (h.fetches.mem e he).mp (hf ▸ List.mem_append_left _ hm)
    exact ⟨hn, beq_iff_eq.mp hst⟩
  have hsame {f : EntryState → Bool} (hfill : ∀ x, f (.filling x) = false) : ∀ e ∈ es, e.page ∈ tags →
      (Entry.Of n f { e with state := .filling (some d) } ↔ Entry.Of n f e) := fun e he hm => by
    simp [Entry.Of, (hpending e he hm).2, hfill]
  refine ⟨Names.map (Entry.restateAll_page _ _) hrest (fun p hp => h.fetches.pages p (hf ▸ List.mem_append_right _ hp)) fun e he => ?_,
    h.queue.restateAll_same (hsame fun _ => rfl), h.outstanding.restateAll_same (hsame fun _ => rfl), fun i x hx hi => ?_,
    (countP_restateAll_le fun e he hm _ => ?_).trans h.filling, (countP_restateAll_le fun e he hm hx => ?_).trans h.unstored⟩
  · rcases e.restateAll_cases tags (.filling (some d)) with ⟨hm, heq⟩ | ⟨hm, heq⟩
    · rw [heq]
      exact iff_of_false (fun hr => hdisjoint _ hm _ hr rfl) fun hc => by simpa using hc.2
    · rw [heq, ← h.fetches.mem e he, hf, List.mem_append, or_iff_right hm]
  · obtain ⟨y, hy, rfl⟩ := List.mem_map.mp hx
    rw [Entry.restateAll_page] at hi
    obtain ⟨r, b, hst⟩ := h.numbered i y hy hi
    rcases y.restateAll_cases tags (.filling (some d)) with ⟨hm, -⟩ | ⟨-, heq⟩
    · exact absurd (hst.symm.trans (hpending y hy hm).2) (by nofun)
    · rw [heq]
      exact ⟨r, b, hst⟩
  · simp [hpending e he hm, EntryState.isFilling]
  · simp [EntryState.isUnstored, EntryState.isDirty, EntryState.isFlushing] at hx

end

end Sys2Proof.Machine
end


section
/-! PROOFS. The laws of the entries and of their lists at every operation of the pool and of the cache (O19). -/

namespace Sys2Proof.Machine

set_option Elab.async false

/-- The laws of the entries and of the lists that name them, beside those of slots and commands. -/
structure State.Table (s : State) : Prop where
  pages : s.entryPages.Nodup
  blocks : (s.entries.map (fun e => (e.node, e.lba))).Nodup
  lru : Names s.entries (fun e => e.state = .valid) s.lru
  nodes : ∀ n, (s.nd n).cache.Lawful n s.entries

section
variable {s t : State} {n m : NodeId} {e : Entry} {p lba : Nat} {v : MediaView} {ps : List Part}

/-- The entries and the lists are as they were. -/
theorem State.Table.of_changes (h : s.Table) (hc : s.Changes ps t) (hcache : Part.cache ∉ ps := by simp)
    (hentries : Part.entries ∉ ps := by simp) (hlru : Part.lru ∉ ps := by simp) : t.Table := by
  have heq : t.entries = s.entries := hc .entries hentries
  have hlist : t.lru = s.lru := hc .lru hlru
  have hnodes : ∀ n, (t.nd n).cache = (s.nd n).cache := hc .cache hcache
  obtain ⟨hpages, hblocks, hl, hn⟩ := h
  refine ⟨?_, heq ▸ hblocks, by rw [heq, hlist]; exact hl, fun n => by rw [heq, hnodes n]; exact hn n⟩
  rw [State.entryPages, heq]
  exact hpages

theorem State.Table.node (h : s.Table) (n : NodeId) : (s.view n).cache.Lawful n s.entries := h.nodes n

/-! ### What an operation on one node has to show -/

theorem State.Table.withView (hpages : (v.entries.map Entry.page).Nodup) (hblocks : (v.entries.map (fun e => (e.node, e.lba))).Nodup)
    (hlru : Names v.entries (fun e => e.state = .valid) v.lru) (hn : v.cache.Lawful n v.entries)
    (hothers : ∀ m ≠ n, (s.nd m).cache.Lawful m v.entries) : (s.withView n v).Table := by
  refine ⟨hpages, hblocks, hlru, fun m => ?_⟩
  by_cases hm : m = n
  · rw [hm, State.withView_nd]
    exact hn
  · have hnd : (s.withView n v).nd m = s.nd m := s.nd_setNd_ne _ hm
    rw [hnd]
    exact hothers m hm

/-- The entries of node `n` change otherwise than in their pages and blocks. -/
theorem State.Table.restated (h : s.Table) {g : Entry → Entry} (hv : v.entries = s.entries.map g) (hpage : ∀ e, (g e).page = e.page)
    (hnode : ∀ e, (g e).node = e.node) (hlba : ∀ e, (g e).lba = e.lba) (hothers : ∀ e ∈ s.entries, e.node ≠ n → g e = e)
    (hlru : Names (s.entries.map g) (fun e => e.state = .valid) v.lru) (hn : v.cache.Lawful n (s.entries.map g)) :
    (s.withView n v).Table := by
  have hkeys {α : Type} (k : Entry → α) (hk : ∀ e, k (g e) = k e) : v.entries.map k = s.entries.map k := by
    rw [hv, List.map_map]
    exact List.map_congr_left fun e _ => hk e
  refine State.Table.withView (hkeys Entry.page hpage ▸ h.pages) ?_ (hv ▸ hlru) (hv ▸ hn) fun m hm => ?_
  · rw [hkeys (fun e => (e.node, e.lba)) fun e => by rw [hnode, hlba]]
    exact h.blocks
  · rw [hv]
    exact (h.nodes m).map_others hpage hnode fun e he hem => hothers e he (hem ▸ hm)

/-- The same for one entry of the node. -/
theorem State.Table.restate (h : s.Table) (he : e ∈ s.entries) (hn : e.node = n) {st : EntryState}
    (hv : v.entries = s.entries.map (Entry.restate e.page st))
    (hlru : Names (s.entries.map (Entry.restate e.page st)) (fun e => e.state = .valid) v.lru)
    (hnode : v.cache.Lawful n (s.entries.map (Entry.restate e.page st))) : (s.withView n v).Table := by
  refine h.restated hv (Entry.restate_page _ _) (Entry.restate_node _ _) (Entry.restate_lba _ _) (fun f hf hfn => ?_) hlru hnode
  rcases restate_cases h.pages he hf with rfl | hne
  · exact absurd hn hfn
  · exact Entry.restate_ne hne

/-! ### Pages -/

theorem State.Table.takeFree (h : s.Table) (ht : s.takeFree = some (p, t)) : t.Table ∧ t.entries = s.entries := by
  unfold State.takeFree at ht
  split at ht
  · cases ht
  · cases ht
    exact ⟨⟨h.pages, h.blocks, h.lru, h.nodes⟩, rfl⟩

/-- A page that the pool gives leaves the other entries (R60, R65). -/
theorem State.Table.getPage (h : s.Table) (ht : s.getPage = some (p, t)) : t.Table ∧ t.entries.Sublist s.entries := by
  rcases s.getPage_cases with ⟨q, qs, -, heq⟩ | ⟨q, qs, -, hlru, heq⟩ | ⟨-, -, heq⟩
  · rw [heq] at ht
    cases ht
    exact ⟨⟨h.pages, h.blocks, h.lru, h.nodes⟩, List.Sublist.refl _⟩
  · rw [heq] at ht
    cases ht
    have hsub : (s.entries.filter (fun e => e.page != p)).Sublist s.entries := List.filter_sublist
    obtain ⟨f, hf, hpage, hvalid⟩ := h.lru.entry (hlru ▸ List.mem_cons_self (a := p))
    have hremoved := h.lru.removed [p]
    have hnodup := h.lru.nodup
    rw [hlru] at hnodup hremoved
    obtain ⟨hnot, hqs⟩ := List.nodup_cons.mp hnodup
    have hkept {α : Type} (k : α → Nat) (l : List α) : l.filter (fun x => !([p].contains (k x))) = l.filter (fun x => k x != p) :=
      List.filter_congr fun x _ => by
        rw [List.contains_cons, List.contains_nil, Bool.or_false]
        rfl
    have hrest : (p :: qs).filter (fun q => !([p].contains q)) = qs := by
      refine (hkept id (p :: qs)).trans ?_
      exact (List.filter_cons_of_neg (by simp)).trans (without_of_not_mem hnot)
    rw [hkept Entry.page, hrest] at hremoved
    refine ⟨⟨h.pages.sublist (hsub.map _), h.blocks.sublist (hsub.map _), hremoved, fun m => (h.nodes m).filter fun x hx hxp _ => ?_⟩, hsub⟩
    have hxp : x.page = p := by simpa using hxp
    rw [State.entry_eq_of_page h.pages hx hf (hxp.trans hpage.symm)]
    exact hvalid
  · rw [heq] at ht
    cases ht

/-! ### Entries that come and go -/

/-- Entries of node `n` are freed (R101). -/
theorem State.Table.freed (h : s.Table) (ps : List Nat) (hps : ∀ e ∈ s.entries, e.page ∈ ps → e.node = n)
    (hout : ((s.nd n).cache.dropped ps).outstanding = (s.nd n).cache.outstanding ∨ ((s.nd n).cache.dropped ps).outstanding = [])
    (y : Media) : (s.withView n { (s.view n).freed ps with media := y }).Table := by
  have hsub : (s.entries.filter (fun e => !ps.contains e.page)).Sublist s.entries := List.filter_sublist
  refine State.Table.withView (h.pages.sublist (hsub.map _)) (h.blocks.sublist (hsub.map _)) (h.lru.removed ps) ((h.nodes n).dropped ps hout)
    fun m hm => (h.nodes m).filter fun e he hpage hem => ?_
  rw [Bool.not_eq_false', List.contains_iff_mem] at hpage
  exact absurd (hem.symm.trans (hps e he hpage)) hm

theorem State.Table.mem_pagesOf (h : s.Table) (he : e ∈ s.entries) {f : Entry → Bool} :
    e.page ∈ (s.view n).pagesOf f ↔ f e = true := by
  rw [MediaView.pagesOf, List.mem_map]
  constructor
  · rintro ⟨g, hg, hpage⟩
    obtain ⟨hmem, haccept⟩ := List.mem_filter.mp hg
    rwa [State.entry_eq_of_page h.pages hmem he hpage] at haccept
  · exact fun haccept => ⟨e, List.mem_filter.mpr ⟨he, haccept⟩, rfl⟩

/-- Entries of node `n` that hold no write-out are freed. -/
theorem State.Table.freeWhere (h : s.Table) {f : Entry → Bool} (hf : ∀ e, f e = true → e.node = n ∧ e.state.isFlushing = false) :
    (s.freeWhere f).Table := by
  rw [State.freeWhere_eq (n := n) fun e he => (hf e he).1]
  refine h.freed _ (fun e he hpage => (hf e (h.mem_pagesOf he |>.mp hpage)).1) (.inl ?_) (s.nd n).media
  refine List.filter_eq_self.mpr fun q hq => ?_
  obtain ⟨e, he, rfl, -, hflush⟩ := (h.nodes n).outstanding.entry hq
  rw [Bool.not_eq_true', ← Bool.not_eq_true, List.contains_iff_mem, h.mem_pagesOf he]
  exact fun haccept => by rw [(hf e haccept).2] at hflush; cases hflush

/-- Every entry of node `n` is freed. -/
theorem State.Table.freeNode (h : s.Table) (n : NodeId) : (s.freeWhere (fun e => e.node == n)).Table := by
  rw [State.freeWhere_eq (n := n) fun e he => beq_iff_eq.mp he]
  refine h.freed _ (fun e he hpage => beq_iff_eq.mp (h.mem_pagesOf he |>.mp hpage)) (.inr ?_) (s.nd n).media
  refine List.filter_eq_nil_iff.mpr fun q hq => ?_
  obtain ⟨e, he, rfl, hn, -⟩ := (h.nodes n).outstanding.entry hq
  rw [Bool.not_eq_true', Bool.not_eq_false, List.contains_iff_mem, h.mem_pagesOf he]
  exact beq_iff_eq.mpr hn

theorem State.Table.freeEntry (h : s.Table) (he : e ∈ s.entries) (hst : e.state.isFlushing = false) : (s.freeEntry e).Table := by
  rw [State.freeEntry_eq_withView]
  refine h.freed [e.page] (fun f hf hpage => ?_) (.inl ?_) (s.nd e.node).media
  · rw [State.entry_eq_of_page h.pages hf he (List.mem_singleton.mp hpage)]
  · refine List.filter_eq_self.mpr fun q hq => ?_
    have hne : q ≠ e.page := fun heq => (h.nodes e.node).outstanding.not_mem he (fun hc => by simpa [hst] using hc.2) (heq ▸ hq)
    simpa using hne

theorem insertEntry_pages (e : Entry) (es : List Entry) : ((insertEntry e es).map Entry.page).Perm (e.page :: es.map Entry.page) :=
  (insertEntry_perm e es).map Entry.page

/-- A new entry that holds no data of the host. -/
theorem State.Table.inserted (h : s.Table) (hp : e.page ∉ s.entryPages) (hblock : s.entryFor e.node e.lba = none) (hst : e.state ≠ .valid)
    {c : NodeCache} (hc : c.Lawful e.node (insertEntry e s.entries)) :
    (s.withView e.node { s.view e.node with entries := insertEntry e s.entries, cache := c }).Table := by
  have hperm := insertEntry_perm e s.entries
  refine State.Table.withView ?_ ?_ (h.lru.insert_other hperm hp hst) hc fun m hm => (h.nodes m).insert_other hperm hp (Ne.symm hm)
  · exact (hperm.map Entry.page).nodup_iff.mpr (List.nodup_cons.mpr ⟨hp, h.pages⟩)
  · refine (hperm.map (fun e => (e.node, e.lba))).nodup_iff.mpr (List.nodup_cons.mpr ⟨fun hm => ?_, h.blocks⟩)
    obtain ⟨f, hf, hkey⟩ := List.mem_map.mp hm
    obtain ⟨hn, hlba⟩ := Prod.mk.inj hkey
    exact State.entryFor_eq_none_iff.mp hblock f hf ⟨hn, hlba⟩

theorem State.Table.newFilling (h : s.Table) (hp : p ∉ s.entryPages) (hblock : s.entryFor n lba = none)
    (hcap : s.fillingCount n < Config.fillingCap) : (s.newFilling n lba p).Table :=
  h.inserted (e := ⟨p, n, lba, .filling none⟩) hp hblock (by nofun) ((h.nodes n).newFilling (insertEntry_perm _ _) hp hcap)

theorem State.Table.newDirty (h : s.Table) (hp : p ∉ s.entryPages) (hblock : s.entryFor n lba = none)
    (hcap : s.unstoredCount n < Config.dirtyCap) : (s.newDirty n lba p).Table :=
  h.inserted (e := ⟨p, n, lba, .dirty⟩) hp hblock (by nofun) ((h.nodes n).newDirty (insertEntry_perm _ _) hp hcap)

/-! ### Entries that change their states -/

theorem State.Table.makeDirty (h : s.Table) (he : e ∈ s.entries) (hn : e.node = n) (hst : e.state.isDirty = false)
    (hfront : e.state.isFlushing = true → (s.nd n).cache.outstanding.head? = some e.page)
    (hcap : e.state.isFlushing = false → s.unstoredCount n < Config.dirtyCap) : (s.makeDirty n e.page).Table := by
  rw [State.makeDirty_eq_withView]
  exact h.restate he hn rfl (h.lru.restate_out h.pages he (by nofun)) ((h.nodes n).makeDirty h.pages he hn hst hfront hcap)

theorem State.Table.makeValid (h : s.Table) (he : e ∈ s.entries) (hn : e.node = n)
    (hfront : e.state.isFlushing = true → (s.nd n).cache.outstanding.head? = some e.page) : (s.makeValid n e.page).Table := by
  rw [State.makeValid_eq_withView]
  exact h.restate he hn rfl (h.lru.restate_in h.pages he rfl) ((h.nodes n).makeValid h.pages he hfront)

theorem State.Table.rewrite (h : s.Table) (he : e ∈ s.entries) {b : Half} {r w : Bool} {d : Nat} (hst : e.state = .flushing b r d) :
    (s.setEntry e.page (.flushing b w d)).Table := by
  have hview : s.setEntry e.page (.flushing b w d) =
      s.withView e.node { s.view e.node with entries := s.entries.map (Entry.restate e.page (.flushing b w d)) } :=
    congrArg (fun u : State => { u with entries := s.entries.map (Entry.restate e.page (.flushing b w d)) }) (s.withView_view e.node).symm
  rw [hview]
  exact h.restate he rfl rfl (h.lru.restate_same h.pages he (by simp [hst])) ((h.nodes e.node).rewrite h.pages he hst)

theorem State.Table.useEntry (h : s.Table) (he : e ∈ s.entries) (hst : e.state = .valid) : (s.useEntry e.page).Table := by
  refine ⟨h.pages, h.blocks, ⟨?_, fun q hq => ?_, fun f hf => ?_⟩, h.nodes⟩
  · refine List.nodup_append.mpr ⟨h.lru.nodup.filter _, List.nodup_singleton _, fun a ha b hb heq => ?_⟩
    exact (mem_without.mp ha).2 (heq.trans (List.mem_singleton.mp hb))
  · rcases List.mem_append.mp hq with hq | hq
    · exact h.lru.pages q (mem_without.mp hq).1
    · rw [List.mem_singleton.mp hq]
      exact List.mem_map_of_mem (f := Entry.page) he
  · show f.page ∈ without e.page s.lru ++ [e.page] ↔ _
    rw [List.mem_append, mem_without, List.mem_singleton]
    rcases restate_cases h.pages he hf with rfl | hne
    · exact iff_of_true (.inr rfl) hst
    · rw [or_iff_left hne, and_iff_left hne]
      exact h.lru.mem f hf

/-- Entries of node `n` change from states other than VALID into one other than VALID. -/
theorem State.Table.restateAll (h : s.Table) {ps : List Nat} {st : EntryState} {c : NodeCache} (hst : st ≠ .valid)
    (hps : ∀ e ∈ s.entries, e.page ∈ ps → e.node = n ∧ e.state ≠ .valid) (hc : c.Lawful n (s.entries.map (Entry.restateAll ps st))) :
    (s.withView n { s.view n with entries := s.entries.map (Entry.restateAll ps st), cache := c }).Table := by
  refine h.restated (g := Entry.restateAll ps st) rfl (Entry.restateAll_page _ _) (Entry.restateAll_node _ _)
    (Entry.restateAll_lba _ _) (fun e he hne => ?_)
    (h.lru.restateAll_same fun e he hm => iff_of_false hst (hps e he hm).2) hc
  exact if_neg fun hm => hne (hps e he hm).1

theorem State.Table.returnFlushing (h : s.Table) (n : NodeId) : (s.returnFlushing n).Table := by
  rw [State.returnFlushing_eq]
  refine h.restateAll (by nofun) (fun e he hm => ?_) (h.nodes n).returned
  obtain ⟨hn, hst⟩ := ((h.nodes n).outstanding.mem e he).mp hm
  exact ⟨hn, fun hvalid => by rw [hvalid] at hst; cases hst⟩

/-! ### Notices -/

theorem State.Table.fetchesSent (h : s.Table) {tags rest : List Nat} (hf : (s.nd n).cache.fetches = tags ++ rest) :
    (s.fetchesSent n tags).Table := by
  have hdrop : (s.nd n).cache.fetches.drop tags.length = rest := by rw [hf]; exact List.drop_left
  rw [State.fetchesSent_eq, hdrop]
  refine h.restateAll (by nofun) (fun e he hm => ?_) ((h.nodes n).fetchesSent hf _)
  obtain ⟨hn, hst⟩ := ((h.nodes n).fetches.mem e he).mp (hf ▸ List.mem_append_left rest hm)
  exact ⟨hn, fun hvalid => by rw [hvalid] at hst; cases hst⟩

theorem State.Table.writeOutHead (h : s.Table) {rest : List Nat} (hq : (s.nd n).cache.queue = p :: rest) : (s.writeOutHead n p).Table := by
  obtain ⟨e, he, rfl, hn, hst⟩ := (h.nodes n).queue.entry (hq ▸ List.mem_cons_self (a := p))
  have htail : (s.nd n).cache.queue.tail = rest := congrArg List.tail hq
  have hview : s.writeOutHead n e.page = s.withView n { s.view n with
      entries := s.entries.map (Entry.restate e.page (.flushing (s.nd n).cache.seq false (s.clock.ticks + (s.set n).tuning.storeTimeout)))
      cache := { (s.nd n).cache with
        queue := rest
        outstanding := (s.nd n).cache.outstanding ++ [e.page]
        seq := (s.nd n).cache.seq + 1 } } := by
    rw [State.writeOutHead_eq, htail]
    rfl
  rw [hview]
  refine h.restate he hn rfl (h.lru.restate_same h.pages he ?_) ((h.nodes n).writeOut h.pages hq)
  refine iff_of_false (by nofun) fun hvalid => ?_
  rw [hvalid] at hst
  cases hst

end

end Sys2Proof.Machine
end


section
/-! PROOFS. What a node's slot and command have to do with its entries: the laws of R79, R86, R87, R92 and R93 for one node's
media (O19). -/

namespace Sys2Proof.Machine

set_option Elab.async false

/-! ### The laws of one medium and its command -/

/-- The node has an entry of this block. -/
def State.Caches (s : State) (n : NodeId) (lba : Nat) : Prop := ∃ e ∈ s.entries, e.node = n ∧ e.lba = lba

/-- Command `c` fits medium `x`, where the blocks of `K` have entries (R87, R92, R93). -/
structure Command.Fits (c : Command) (x : Medium) (K : Nat → Prop) : Prop where
  capacity : c.lba + c.count ≤ x.capacity
  places : c.list.length ≤ Config.listPlaces
  count : c.finished + c.list.length ≤ c.count
  order : c.InOrder
  wanting : ∀ b ∈ c.list, b.status = .wanting → ¬K b.lba ∧ inRanges x.zero b.lba = false

/-- The slot fits the blocks of `K` that have entries, and the current command fits the slot (R79, R86). -/
structure Media.Fits (m : Media) (K : Nat → Prop) : Prop where
  slot : ∀ l, K l → ∃ x, m.slot = some x ∧ l < x.capacity ∧ inRanges x.zero l = false
  command : ∀ c, m.current = some c → ∃ x, m.slot = some x ∧ x.state = .ready ∧ c.Fits x K

/-- The slots and commands of every node fit its entries. -/
def State.Fit (s : State) : Prop := ∀ n, (s.nd n).media.Fits (s.Caches n)

section
variable {s t : State} {n m : NodeId} {c : Command} {x y : Medium} {K J : Nat → Prop} {a a' : Media} {b : BlockPlace} {rest : List BlockPlace}
  {lba : Nat} {ps : List Part}

theorem Command.inOrder_iff : c.InOrder ↔ ∀ i p, c.list[i]? = some p → p.lba = c.lba + c.finished + i := by
  constructor
  · intro h i p hi
    obtain ⟨hlt, hp⟩ := List.getElem?_eq_some_iff.mp hi
    have hget : (c.list.map BlockPlace.lba)[i]? = (List.range' (c.lba + c.finished) c.list.length)[i]? := by rw [h]
    rw [List.getElem?_map, hi, Option.map_some, List.getElem?_range' hlt, Nat.one_mul] at hget
    exact Option.some.inj hget
  · intro h
    refine List.ext_getElem (by simp) fun i h1 h2 => ?_
    rw [List.getElem_map, List.getElem_range', Nat.one_mul]
    exact h i _ (List.getElem?_eq_getElem (by simpa using h1))

theorem State.slotReady_iff : s.slotReady n = true ↔ ∃ x, s.slot n = some x ∧ x.state = .ready := by
  rw [State.slotReady]
  cases s.slot n with
  | none => simp
  | some x => simp

theorem State.numbered_iff (hpages : s.entryPages.Nodup)
    (hout : Names s.entries (Entry.Of n EntryState.isFlushing) (s.nd n).cache.outstanding) : s.Numbered n ↔
    ∀ i e, e ∈ s.entries → (s.nd n).cache.outstanding[i]? = some e.page → ∃ r d,
      e.state = .flushing ((s.nd n).cache.seq - BitVec.ofNat 16 ((s.nd n).cache.outstanding.length - i)) r d := by
  have hseq {e : Entry} (he : e ∈ s.entries) (q : Half) : s.seqOf e.page = some q ↔ ∃ r d, e.state = .flushing q r d := by
    rw [State.seqOf, (State.tagged_eq_some_iff hpages e.page).mpr ⟨he, rfl⟩, Option.map_some]
    cases e.state <;> simp
  constructor
  · exact fun h i e he hi => (hseq he _).mp (h i e.page hi)
  · intro h i p hi
    obtain ⟨e, he, rfl, -⟩ := hout.entry (List.mem_of_getElem? hi)
    exact (hseq he _).mpr (h i e he hi)

/-- The law of a command is that it fits the slot. -/
theorem State.commandLaw_iff : s.CommandLaw n ↔ ∀ c, (s.nd n).media.current = some c →
    ∃ x, s.slot n = some x ∧ x.state = .ready ∧ c.Fits x (s.Caches n) := by
  have hcaches (lba : Nat) : s.entryFor n lba = none ↔ ¬s.Caches n lba := by
    rw [State.entryFor_eq_none_iff, State.Caches]
    simp
  refine forall₂_congr fun c hc => ?_
  rw [State.slotReady_iff, ← Command.inOrder_iff]
  constructor
  · rintro ⟨⟨x, hs, hx⟩, hcap, hplaces, hcount, horder, hwant⟩
    refine ⟨x, hs, hx, hcap x hs, hplaces, hcount, horder, fun b hb hst => ?_⟩
    obtain ⟨hnone, hzero⟩ := hwant b hb hst
    exact ⟨(hcaches _).mp hnone, hzero x hs⟩
  · rintro ⟨x, hs, hx, hfit⟩
    have honly {y : Medium} (hy : s.slot n = some y) : y = x := Option.some.inj (hy.symm.trans hs)
    refine ⟨⟨x, hs, hx⟩, fun y hy => honly hy ▸ hfit.capacity, hfit.places, hfit.count, hfit.order, fun b hb hst => ?_⟩
    obtain ⟨hnone, hzero⟩ := hfit.wanting b hb hst
    exact ⟨(hcaches _).mpr hnone, fun y hy => honly hy ▸ hzero⟩

theorem State.slotLaw_iff : s.SlotLaw n ↔ ∀ l, s.Caches n l → ∃ x, s.slot n = some x ∧ l < x.capacity ∧ inRanges x.zero l = false := by
  constructor
  · rintro h l ⟨e, he, hn, rfl⟩
    exact h e he hn
  · exact fun h e he hn => h e.lba ⟨e, he, hn, rfl⟩

/-- The laws of the Media Cache are those of its entries and lists, and of the slots and commands. -/
theorem State.cacheLaw_iff : s.CacheLaw ↔ s.Table ∧ s.Fit := by
  constructor
  · rintro ⟨hpages, hblocks, hlru, hmem, hnodes⟩
    refine ⟨⟨hpages, hblocks, (names_iff hpages).mpr ⟨hlru, hmem⟩, fun n => ?_⟩, fun n => ?_⟩
    · obtain ⟨hfetches, hqueue, hout, hnum, hfill, hunst, -⟩ := hnodes n
      have hout' := (names_iff hpages).mpr hout
      exact ⟨(names_iff hpages).mpr hfetches, (names_iff hpages).mpr hqueue, hout', (State.numbered_iff hpages hout').mp hnum, hfill, hunst⟩
    · obtain ⟨-, -, -, -, -, -, hslot, hcommand⟩ := hnodes n
      exact ⟨State.slotLaw_iff.mp hslot, State.commandLaw_iff.mp hcommand⟩
  · rintro ⟨htable, hfit⟩
    obtain ⟨hlru, hmem⟩ := (names_iff htable.pages).mp htable.lru
    refine ⟨htable.pages, htable.blocks, hlru, hmem, fun n => ?_⟩
    obtain ⟨hfetches, hqueue, hout, hnum, hfill, hunst⟩ := htable.nodes n
    exact ⟨(names_iff htable.pages).mp hfetches, (names_iff htable.pages).mp hqueue, (names_iff htable.pages).mp hout,
      (State.numbered_iff htable.pages hout).mpr hnum, hfill, hunst, State.slotLaw_iff.mpr (hfit n).slot,
      State.commandLaw_iff.mpr (hfit n).command⟩

/-! ### Commands -/

theorem Command.Fits.mono (h : c.Fits x K) (hcap : x.capacity ≤ y.capacity) (hK : ∀ b ∈ c.list, J b.lba → K b.lba)
    (hzero : ∀ l, inRanges y.zero l = true → inRanges x.zero l = true) : c.Fits y J :=
  ⟨h.capacity.trans hcap, h.places, h.count, h.order, fun b hb hst => by
    obtain ⟨hnone, hout⟩ := h.wanting b hb hst
    refine ⟨fun hJ => hnone (hK b hb hJ), ?_⟩
    rw [← Bool.not_eq_true] at hout ⊢
    exact fun hin => hout (hzero _ hin)⟩

theorem Command.fits_fresh {write : Bool} {count : Nat} (h : lba + count ≤ x.capacity) : (Command.fresh write lba count).Fits x K :=
  ⟨h, Nat.zero_le _, Nat.zero_le _, rfl, nofun⟩

/-- The places keep their blocks, and those that want an entry then have none. -/
theorem Command.Fits.relisted (h : c.Fits x K) {g : BlockPlace → BlockPlace} (hlba : ∀ b, (g b).lba = b.lba) (hcap : x.capacity ≤ y.capacity)
    (hwant : ∀ b ∈ c.list, (g b).status = .wanting → ¬J b.lba ∧ inRanges y.zero b.lba = false) :
    ({ c with list := c.list.map g } : Command).Fits y J where
  capacity := h.capacity.trans hcap
  places := by rw [List.length_map]; exact h.places
  count := by rw [List.length_map]; exact h.count
  order := by
    unfold Command.InOrder
    rw [List.map_map, List.length_map]
    exact (List.map_congr_left fun b _ => hlba b).trans h.order
  wanting b hb hst := by
    obtain ⟨b', hb', rfl⟩ := List.mem_map.mp hb
    rw [hlba]
    exact hwant b' hb' hst

theorem Command.Fits.mark (h : c.Fits x K) {st : BlockStatus} (hst : st = .wanting → ¬K lba ∧ inRanges x.zero lba = false) :
    (c.mark lba st).Fits x K := by
  refine h.relisted (g := fun b => if b.lba = lba then { b with status := st } else b) (fun b => ?_) le_rfl fun b hmem hb => ?_
  · split <;> rfl
  · split at hb
    · next hlba => exact hlba ▸ hst hb
    · exact h.wanting b hmem hb

/-- The blocks that join want an entry only where they have none. -/
theorem Command.Fits.joined (h : c.Fits x K) {look : Nat → BlockStatus}
    (hlook : c.write = false → ∀ l, look l = .wanting → ¬K l ∧ inRanges x.zero l = false) : (c.joined look).Fits x K where
  capacity := h.capacity
  places := by rw [Command.joined_length h.places h.count]; exact Nat.min_le_left _ _
  count := by
    have := h.count
    rw [Command.joined_length h.places h.count]
    show c.finished + _ ≤ c.count
    omega
  order := h.order.joined look
  wanting b hb hst := by
    rcases List.mem_append.mp hb with hb | hb
    · exact h.wanting b hb hst
    · obtain ⟨l, -, rfl⟩ := List.mem_map.mp hb
      dsimp only at hst ⊢
      cases hw : c.write with
      | true => rw [hw] at hst; cases hst
      | false =>
        rw [hw] at hst
        exact hlook hw l hst

/-- The front block has left the list. -/
theorem Command.Fits.advanced (h : c.Fits x K) (hl : c.list = b :: rest) : c.advanced.Fits x K where
  capacity := h.capacity
  places := by
    show c.list.tail.length ≤ _
    rw [List.length_tail]
    exact (Nat.sub_le _ _).trans h.places
  count := by
    have hcount := h.count
    show c.finished + 1 + c.list.tail.length ≤ c.count
    rw [hl] at hcount ⊢
    rw [List.length_cons] at hcount
    rw [List.tail_cons]
    omega
  order := h.order.advanced hl
  wanting b' hb' hst := h.wanting b' (List.mem_of_mem_tail hb') hst

/-- The block that leaves the list is not among those that stay. -/
theorem Command.Fits.advanced_ne (h : c.Fits x K) (hl : c.list = b :: rest) : ∀ b' ∈ c.advanced.list, b'.lba ≠ b.lba := by
  have hnodup := h.order.nodup
  rw [hl, List.map_cons, List.nodup_cons] at hnodup
  have hlist : c.advanced.list = rest := congrArg List.tail hl
  rw [hlist]
  exact fun b' hb' heq => hnodup.1 (heq ▸ List.mem_map_of_mem hb')

/-! ### Media -/

/-- A medium that is the same but for what the laws do not read, over fewer entries. -/
theorem Media.Fits.mono (h : a.Fits K) (hslot : a'.slot = a.slot) (hcurrent : a'.current = a.current) (hK : ∀ l, J l → K l) :
    a'.Fits J := by
  refine ⟨fun l hl => hslot ▸ h.slot l (hK l hl), fun c hc => ?_⟩
  obtain ⟨x, hs, hx, hfit⟩ := h.command c (hcurrent ▸ hc)
  exact ⟨x, hslot ▸ hs, hx, hfit.mono le_rfl (fun b _ => hK b.lba) fun _ => id⟩

/-- Without a command, over a slot with the same capacity and zero table. -/
theorem Media.Fits.idle (h : a.Fits K) (hcurrent : a'.current = none)
    (hslot : ∀ x, a.slot = some x → ∃ y, a'.slot = some y ∧ y.capacity = x.capacity ∧ y.zero = x.zero) : a'.Fits K := by
  refine ⟨fun l hl => ?_, fun c hc => by rw [hcurrent] at hc; cases hc⟩
  obtain ⟨x, hs, hlt, hzero⟩ := h.slot l hl
  obtain ⟨y, hy, hcap, hz⟩ := hslot x hs
  exact ⟨y, hy, hcap ▸ hlt, hz ▸ hzero⟩

/-- The command changes, and fits. -/
theorem Media.Fits.withCommand (h : a.Fits K) (hslot : a'.slot = a.slot)
    (hcommand : ∀ c', a'.current = some c' → ∃ c, a.current = some c ∧ ∀ x, a.slot = some x → c.Fits x K → c'.Fits x K) : a'.Fits K := by
  refine ⟨fun l hl => hslot ▸ h.slot l hl, fun c' hc' => ?_⟩
  obtain ⟨c, hc, hfits⟩ := hcommand c' hc'
  obtain ⟨x, hs, hx, hfit⟩ := h.command c hc
  exact ⟨x, hslot ▸ hs, hx, hfits x hs hfit⟩

theorem Media.Fits.mapCommand (h : a.Fits K) {f : Command → Command}
    (hf : ∀ c x, a.current = some c → a.slot = some x → c.Fits x K → (f c).Fits x K) :
    ({ a with current := a.current.map f } : Media).Fits K :=
  h.withCommand rfl fun c' hc' => by
    obtain ⟨c, hc, rfl⟩ := Option.map_eq_some_iff.mp hc'
    exact ⟨c, hc, fun x hs => hf c x hc hs⟩

/-- The slot record changes, and neither becomes smaller nor leaves its state nor gains zeros. -/
theorem Media.Fits.mapSlot (h : a.Fits K) {f : Medium → Medium} (hcap : ∀ x, (f x).capacity = x.capacity) (hstate : ∀ x, (f x).state = x.state)
    (hzero : ∀ x l, inRanges (f x).zero l = true → inRanges x.zero l = true) :
    ({ a with slot := a.slot.map f } : Media).Fits K := by
  refine ⟨fun l hl => ?_, fun c hc => ?_⟩
  · obtain ⟨x, hs, hlt, hout⟩ := h.slot l hl
    refine ⟨f x, by rw [hs]; rfl, (hcap x).symm ▸ hlt, ?_⟩
    rw [← Bool.not_eq_true] at hout ⊢
    exact fun hin => hout (hzero x l hin)
  · obtain ⟨x, hs, hx, hfit⟩ := h.command c hc
    exact ⟨f x, by rw [hs]; rfl, (hstate x).trans hx, hfit.mono (hcap x).ge (fun _ _ => id) (hzero x)⟩

/-- A node without entries, command and slot. -/
theorem Media.fits_empty (hcurrent : a.current = none) (hK : ∀ l, ¬K l) : a.Fits K :=
  ⟨fun l hl => absurd hl (hK l), fun c hc => by rw [hcurrent] at hc; cases hc⟩

/-- A block gets an entry that is in the medium, outside its zero table, and not wanted by the command any more. -/
theorem Media.Fits.grow (h : a.Fits K) (hJ : ∀ l, J l → K l ∨ l = lba)
    (hslot : ∃ x, a.slot = some x ∧ lba < x.capacity ∧ inRanges x.zero lba = false)
    (hwant : ∀ c, a.current = some c → ∀ b ∈ c.list, b.status = .wanting → b.lba ≠ lba) : a.Fits J := by
  refine ⟨fun l hl => ?_, fun c hc => ?_⟩
  · rcases hJ l hl with hl | rfl
    · exact h.slot l hl
    · exact hslot
  · obtain ⟨x, hs, hx, hfit⟩ := h.command c hc
    refine ⟨x, hs, hx, hfit.capacity, hfit.places, hfit.count, hfit.order, fun b hb hst => ?_⟩
    obtain ⟨hnone, hzero⟩ := hfit.wanting b hb hst
    exact ⟨fun hl => (hJ _ hl).elim hnone (hwant c hc b hb hst), hzero⟩

/-! ### The part -/

/-- The slots and commands are as they were, over fewer entries. -/
theorem State.Fit.of_changes (h : s.Fit) (hc : s.Changes ps t) (hK : ∀ n l, t.Caches n l → s.Caches n l) (hslot : Part.slot ∉ ps := by simp)
    (hcurrent : Part.current ∉ ps := by simp) : t.Fit := fun n =>
  (h n).mono (hc .slot hslot n) (hc .current hcurrent n) (hK n)

theorem State.caches_of_sublist (h : t.entries.Sublist s.entries) (n : NodeId) (l : Nat) : t.Caches n l → s.Caches n l :=
  fun ⟨e, he, hn, hl⟩ => ⟨e, h.subset he, hn, hl⟩

theorem State.caches_of_eq (h : t.entries = s.entries) (n : NodeId) (l : Nat) : t.Caches n l → s.Caches n l :=
  fun ⟨e, he, hn, hl⟩ => ⟨e, h ▸ he, hn, hl⟩

theorem State.caches_of_map {g : Entry → Entry} (h : t.entries = s.entries.map g) (hnode : ∀ e, (g e).node = e.node)
    (hlba : ∀ e, (g e).lba = e.lba) (n : NodeId) (l : Nat) : t.Caches n l → s.Caches n l := by
  rintro ⟨e, he, hn, hl⟩
  rw [h] at he
  obtain ⟨e', he', rfl⟩ := List.mem_map.mp he
  exact ⟨e', he', (hnode e').symm.trans hn, (hlba e').symm.trans hl⟩

theorem State.Fit.withView {v : MediaView} (h : s.Fit) (hn : v.media.Fits fun l => ∃ e ∈ v.entries, e.node = n ∧ e.lba = l)
    (hothers : ∀ m ≠ n, ∀ l, (∃ e ∈ v.entries, e.node = m ∧ e.lba = l) → s.Caches m l) : (s.withView n v).Fit := fun m => by
  by_cases hm : m = n
  · rw [hm, State.withView_nd]
    exact hn
  · have hnd : (s.withView n v).nd m = s.nd m := s.nd_setNd_ne _ hm
    rw [hnd]
    exact (h m).mono rfl rfl (hothers m hm)

theorem State.Fit.of_changesAt (h : s.Fit) (hc : s.ChangesAt n ps t) (hK : ∀ m l, t.Caches m l → s.Caches m l)
    (hn : (t.nd n).media.Fits (t.Caches n)) : t.Fit := fun m => by
  by_cases hm : m = n
  · exact hm ▸ hn
  · rw [(hc.2 m hm).1]
    exact (h m).mono rfl rfl (hK m)

theorem State.Fit.mapMedia (h : s.Fit) {f : Media → Media} (hf : (s.nd n).media.Fits (s.Caches n) → (f (s.nd n).media).Fits (s.Caches n)) :
    (s.mapMedia n f).Fit := by
  rw [State.mapMedia_eq_withView]
  exact h.withView (hf (h n)) fun m _ l hl => hl

end

end Sys2Proof.Machine
end


section
/-! PROOFS. The laws of the Media Cache at the operations that take no page: withdrawals, timeouts, acknowledgements and notices
(O19). -/

namespace Sys2Proof.Machine

set_option Elab.async false

section
variable {s t : State} {n m : NodeId} {e : Entry} {p lba : Nat} {x : Medium} {l : List Range} {ps : List Part} {K : Nat → Prop} {a : Media}

theorem State.CacheLaw.table (h : s.CacheLaw) : s.Table := (State.cacheLaw_iff.mp h).1

theorem State.CacheLaw.fit (h : s.CacheLaw) : s.Fit := (State.cacheLaw_iff.mp h).2

theorem State.Table.cacheLaw (h : s.Table) (hfit : s.Fit) : s.CacheLaw := State.cacheLaw_iff.mpr ⟨h, hfit⟩

/-- The media of a node change, and fit its entries. -/
theorem State.CacheLaw.mapMedia (h : s.CacheLaw) {f : Media → Media} (hf : (s.nd n).media.Fits (s.Caches n) → (f (s.nd n).media).Fits (s.Caches n)) :
    (s.mapMedia n f).CacheLaw :=
  (h.table.of_changes (s.mapMedia_changes n f [.slot, .current, .media]).1).cacheLaw (h.fit.mapMedia hf)

/-! ### The slot and the command -/

theorem State.CacheLaw.mapSlot (h : s.CacheLaw) (n : NodeId) {f : Medium → Medium} (hcap : ∀ x, (f x).capacity = x.capacity)
    (hstate : ∀ x, (f x).state = x.state) (hzero : ∀ x l, inRanges (f x).zero l = true → inRanges x.zero l = true) : (s.mapSlot n f).CacheLaw :=
  h.mapMedia fun hfit => hfit.mapSlot hcap hstate hzero

theorem State.CacheLaw.endCommand (h : s.CacheLaw) (n : NodeId) (st : NodeStatus) (d : PortData) : (s.endCommand n st d).CacheLaw :=
  h.mapMedia fun hfit => hfit.idle rfl fun x hs => ⟨x, hs, rfl, rfl⟩

theorem State.CacheLaw.tearDown (h : s.CacheLaw) (n : NodeId) : (s.tearDown n).CacheLaw :=
  ite_keeps (P := State.CacheLaw) (fun _ => h.mapMedia fun hfit => hfit.idle rfl fun x hs => ⟨x, hs, rfl, rfl⟩) fun _ => h

theorem State.CacheLaw.leaveReady (h : s.CacheLaw) (n : NodeId) : (s.leaveReady n).CacheLaw :=
  ite_keeps (P := State.CacheLaw) (fun _ => h.endCommand n _ _) fun _ => h

theorem State.CacheLaw.answer (h : s.CacheLaw) (n : NodeId) (st : NodeStatus) (d : PortData) : (s.answer n st d).CacheLaw :=
  h.of_changes (s.answer_changes n st d).1

theorem State.CacheLaw.tellChanged (h : s.CacheLaw) (n : NodeId) : (s.tellChanged n).CacheLaw :=
  (h.mapSlot n (f := fun x => { x with changed := false }) (fun _ => rfl) (fun _ => rfl) fun _ _ => id).answer n _ _

/-- The slot leaves its state, and a command ends. -/
theorem State.CacheLaw.left (h : s.CacheLaw) (n : NodeId) (st : SlotState) : ((s.slotTo n st).leaveReady n).CacheLaw := by
  rw [State.leaveReady_slotTo, ← State.mapMedia_eq_withView (Media.left st)]
  refine h.mapMedia fun hfit => hfit.idle (Media.left_current st _) fun x hs => ⟨{ x with state := st }, ?_, rfl, rfl⟩
  rw [Media.left_slot, hs]
  rfl

theorem State.CacheLaw.mapCommand (h : s.CacheLaw) (n : NodeId) {f : Command → Command}
    (hf : ∀ c x, (s.nd n).media.current = some c → s.slot n = some x → c.Fits x (s.Caches n) → (f c).Fits x (s.Caches n)) :
    (s.mapCommand n f).CacheLaw := h.mapMedia fun hfit => hfit.mapCommand hf

theorem State.CacheLaw.mark (h : s.CacheLaw) (n : NodeId) (lba : Nat) {st : BlockStatus} (hst : st ≠ .wanting) :
    (s.mapCommand n (fun c => c.mark lba st)).CacheLaw :=
  h.mapCommand n fun _ _ _ _ hfit => hfit.mark fun hw => absurd hw hst

theorem State.CacheLaw.writeTest (h : s.CacheLaw) (n : NodeId) : (s.writeTest n).CacheLaw := by
  unfold State.writeTest
  split
  · exact h
  · exact ite_keeps (P := State.CacheLaw) (fun _ => h.endCommand n _ _) fun _ => h

/-! ### Entries freed -/

theorem State.freeWhere_entries {f : Entry → Bool} (h : s.Table) (hf : ∀ e, f e = true → e.node = n) :
    (s.freeWhere f).entries = s.entries.filter (fun e => !f e) := by
  rw [State.freeWhere_eq hf]
  exact MediaView.filter_pagesOf (v := s.view n) h.pages f

theorem State.Fit.freeWhere (h : s.Fit) (htable : s.Table) {f : Entry → Bool} (hf : ∀ e, f e = true → e.node = n) : (s.freeWhere f).Fit := by
  refine h.of_changes (s.freeWhere_changesAt n hf).1 (State.caches_of_sublist ?_)
  rw [State.freeWhere_entries htable hf]
  exact List.filter_sublist

theorem State.CacheLaw.freeWhere (h : s.CacheLaw) {f : Entry → Bool} (hf : ∀ e, f e = true → e.node = n ∧ e.state.isFlushing = false) :
    (s.freeWhere f).CacheLaw :=
  (h.table.freeWhere hf).cacheLaw (h.fit.freeWhere h.table fun e he => (hf e he).1)

/-- A node without entries and command loses its medium. -/
theorem State.CacheLaw.slotAbsent (h : s.CacheLaw) (hcurrent : (s.nd n).media.current = none) (hnone : ∀ l, ¬s.Caches n l) :
    (s.slotAbsent n).CacheLaw := h.mapMedia fun _ => Media.fits_empty hcurrent hnone

theorem State.CacheLaw.freeNode (h : s.CacheLaw) (hcurrent : (s.nd n).media.current = none) :
    ((s.freeWhere (fun e => e.node == n)).slotAbsent n).CacheLaw := by
  have hf : ∀ e : Entry, (e.node == n) = true → e.node = n := fun e => beq_iff_eq.mp
  have hfreed := (h.table.freeNode n).cacheLaw (h.fit.freeWhere h.table hf)
  refine hfreed.slotAbsent (((s.freeWhere_changesAt n hf).1 .current (by simp) n).trans hcurrent) fun l hl => ?_
  obtain ⟨e, he, hn, -⟩ := hl
  rw [State.freeWhere_entries h.table hf] at he
  have hkept := (List.mem_filter.mp he).2
  simp [hn] at hkept

theorem State.CacheLaw.current_of_not_ready (h : s.CacheLaw) (hs : s.slot n = some x) (hx : x.state ≠ .ready) :
    (s.nd n).media.current = none := by
  cases hc : (s.nd n).media.current with
  | none => rfl
  | some c =>
    obtain ⟨y, hy, hready, -⟩ := (h.fit n).command c hc
    exact absurd (Option.some.inj (hs.symm.trans hy) ▸ hready) hx

theorem State.CacheLaw.drainEnd (h : s.CacheLaw) (n : NodeId) : (s.drainEnd n).CacheLaw := by
  unfold State.drainEnd
  split
  · exact h
  · next x hs =>
    split
    · next hw => exact h.freeNode (h.current_of_not_ready hs (by rw [hw.1]; nofun))
    · exact h

theorem State.CacheLaw.discard (h : s.CacheLaw) (n : NodeId) : (s.discard n).CacheLaw := by
  refine (h.leaveReady n).freeNode ?_
  rw [State.leaveReady_eq, State.withView_nd]
  exact Media.stopped_current _

theorem State.CacheLaw.returnFlushing (h : s.CacheLaw) (n : NodeId) : (s.returnFlushing n).CacheLaw := by
  refine (h.table.returnFlushing n).cacheLaw (h.fit.of_changes (s.returnFlushing_changes n).1 (State.caches_of_map
    (g := Entry.restateAll (s.nd n).cache.outstanding .dirty) ?_ (Entry.restateAll_node _ _) (Entry.restateAll_lba _ _)))
  rw [State.returnFlushing_eq]
  rfl

theorem State.CacheLaw.drain (h : s.CacheLaw) (n : NodeId) : (s.drain n).CacheLaw := by
  unfold State.drain
  split
  · exact h
  · refine ite_keeps (P := State.CacheLaw) (fun _ => h) fun _ => State.CacheLaw.drainEnd ?_ n
    have hfreed := (h.left n .withdrawing).freeWhere (n := n) (f := fun e => e.node == n && e.state.isFilling) fun e he => by
      obtain ⟨hn, hfill⟩ := Bool.and_eq_true_iff.mp he
      refine ⟨beq_iff_eq.mp hn, ?_⟩
      cases hst : e.state <;> simp_all [EntryState.isFilling, EntryState.isFlushing]
    exact ite_keeps (P := State.CacheLaw) (fun _ => hfreed.returnFlushing n) fun _ => hfreed

theorem State.CacheLaw.failFill (h : s.CacheLaw) (he : e ∈ s.entries) (hst : e.state.isFilling = true) (st : NodeStatus) :
    (s.failFill e st).CacheLaw := by
  have hflush : e.state.isFlushing = false := by cases hs : e.state <;> simp_all [EntryState.isFilling, EntryState.isFlushing]
  have hfreed : (s.freeEntry e).CacheLaw := by
    refine (h.table.freeEntry he hflush).cacheLaw (h.fit.of_changes (s.freeEntry_changes e).1 (State.caches_of_sublist ?_))
    rw [State.freeEntry_eq_withView]
    exact List.filter_sublist
  exact ite_keeps (P := State.CacheLaw) (fun _ => hfreed.endCommand _ _ _) fun _ => hfreed

/-! ### Entries that change their states -/

theorem State.Fit.restate (h : s.Fit) (hc : s.Changes ps t) {st : EntryState} (ht : t.entries = s.entries.map (Entry.restate p st))
    (hslot : Part.slot ∉ ps := by simp) (hcurrent : Part.current ∉ ps := by simp) : t.Fit :=
  h.of_changes hc (State.caches_of_map ht (Entry.restate_node _ _) (Entry.restate_lba _ _)) hslot hcurrent

theorem State.CacheLaw.makeValid (h : s.CacheLaw) (he : e ∈ s.entries) (hn : e.node = n)
    (hfront : e.state.isFlushing = true → (s.nd n).cache.outstanding.head? = some e.page) : (s.makeValid n e.page).CacheLaw :=
  (h.table.makeValid he hn hfront).cacheLaw (h.fit.restate (s.makeValid_changes n _).1 rfl)

theorem State.CacheLaw.makeDirty (h : s.CacheLaw) (he : e ∈ s.entries) (hn : e.node = n) (hst : e.state.isDirty = false)
    (hfront : e.state.isFlushing = true → (s.nd n).cache.outstanding.head? = some e.page)
    (hcap : e.state.isFlushing = false → s.unstoredCount n < Config.dirtyCap) : (s.makeDirty n e.page).CacheLaw :=
  (h.table.makeDirty he hn hst hfront hcap).cacheLaw (h.fit.restate (s.makeDirty_changes n _).1 rfl)

theorem State.CacheLaw.fill (h : s.CacheLaw) (he : e ∈ s.entries) (hn : e.node = n) (hst : e.state.isFilling = true) (data : List Byte) :
    (s.fill n e data).CacheLaw := by
  have hwritten : (s.withMem (s.mem.writePage e.page data)).CacheLaw := h.of_changes (s.mem_changes n _).1
  have hvalid := hwritten.makeValid he hn fun hflush => by
    cases hs : e.state <;> simp_all [EntryState.isFilling, EntryState.isFlushing]
  exact ite_keeps (P := State.CacheLaw) (fun _ => hvalid.mark n _ (by nofun)) fun _ => hvalid

/-! ### Acknowledgements and timeouts (R114 to R119) -/

theorem State.CacheLaw.storedBlock (h : s.CacheLaw) (n : NodeId) (lba : Nat) : (s.storedBlock n lba).CacheLaw :=
  h.mapCommand n fun c x _ _ hfit => by
    split
    · exact ⟨hfit.capacity, hfit.places, hfit.count, hfit.order, hfit.wanting⟩
    · exact hfit

theorem State.CacheLaw.resolveFront (h : s.CacheLaw) (n : NodeId) : (State.resolveFront n s).CacheLaw := by
  unfold State.resolveFront
  split
  · exact h
  · next p rest hout =>
    split
    · exact h
    · next e htagged =>
      obtain ⟨he, hpage⟩ := (State.tagged_eq_some_iff h.table.pages p).mp htagged
      have hn : e.node = n := ((h.table.nodes n).outstanding.mem e he |>.mp (by rw [hout, hpage]; exact List.mem_cons_self ..)).1
      have hfront : (s.nd n).cache.outstanding.head? = some e.page := by rw [hout, hpage]; rfl
      split
      · next q r d hst =>
        rw [← hpage]
        refine ite_keeps (P := State.CacheLaw) (fun _ => ?_) fun _ => (h.makeValid he hn fun _ => hfront).storedBlock n _
        exact h.makeDirty he hn (by rw [hst]; rfl) (fun _ => hfront) fun hno => by rw [hst] at hno; cases hno
      · exact h

theorem State.CacheLaw.storeTimesOut (h : s.CacheLaw) (n : NodeId) : (s.storeTimesOut n).CacheLaw := by
  unfold State.storeTimesOut
  split
  · exact h
  · split
    · exact h.left n .faulted
    · exact h.returnFlushing n
    · exact h

theorem State.CacheLaw.overdue (h : s.CacheLaw) (n : NodeId) : (s.overdue n).CacheLaw := by
  unfold State.overdue
  split
  · exact ite_keeps (P := State.CacheLaw) (fun _ => h.storeTimesOut n) fun _ => h
  · exact h

theorem State.CacheLaw.resolve (h : s.CacheLaw) (n : NodeId) (k : Nat) : (s.resolve n k).CacheLaw :=
  (((times_keeps (P := State.CacheLaw) (fun _ hu => hu.resolveFront n) k h).overdue n).writeTest n).drainEnd n

/-! ### Requests of the image server -/

theorem State.CacheLaw.attach (h : s.CacheLaw) (n : NodeId) (p : List Byte) : (s.attach n p).state.CacheLaw := by
  unfold State.attach
  split
  · exact h
  · next x hx =>
    split
    · exact h
    · next hslot =>
      have hnone : (s.nd n).media.slot = none := by simpa [State.slot] using hslot
      refine h.mapMedia fun hfit => Media.fits_empty ?_ fun l hl => ?_
      · cases hc : (s.nd n).media.current with
        | none => rfl
        | some c =>
          obtain ⟨y, hy, -⟩ := hfit.command c hc
          exact absurd (hnone.symm.trans hy) (by nofun)
      · obtain ⟨y, hy, -⟩ := hfit.slot l hl
        exact absurd (hnone.symm.trans hy) (by nofun)

theorem State.CacheLaw.detach (h : s.CacheLaw) (n : NodeId) (p : List Byte) : (s.detach n p).state.CacheLaw := by
  unfold State.detach
  split
  · exact h
  · exact h
  · exact h.drain n
  · exact h.discard n

theorem State.CacheLaw.takeFill (h : s.CacheLaw) (n : NodeId) (p : List Byte) : (s.takeFill n p).state.CacheLaw := by
  unfold State.takeFill
  dsimp only
  split
  · exact h
  · split
    · exact h
    · next e he =>
      obtain ⟨hmem, -, hn, -, hst⟩ := (State.fillable_eq_some_iff h.table.pages _ _).mp he
      exact h.fill hmem hn hst _

theorem State.CacheLaw.takeFillFail (h : s.CacheLaw) (n : NodeId) (p : List Byte) : (s.takeFillFail n p).state.CacheLaw := by
  unfold State.takeFillFail
  dsimp only
  split
  · exact h
  · split
    · exact h
    · next e he =>
      obtain ⟨hmem, -, -, -, hst⟩ := (State.fillable_eq_some_iff h.table.pages _ _).mp he
      exact h.failFill hmem hst _

theorem State.CacheLaw.takeStored (h : s.CacheLaw) (n : NodeId) (p : List Byte) : (s.takeStored n p).state.CacheLaw := by
  unfold State.takeStored
  split
  · exact h
  · exact h
  · exact h
  · exact h.resolve n _

theorem State.CacheLaw.recoverMedia (h : s.CacheLaw) (n : NodeId) : (s.recoverMedia n).state.CacheLaw := by
  unfold State.recoverMedia
  split
  · next hfaulted =>
    refine State.CacheLaw.returnFlushing (h.mapMedia fun hfit => hfit.idle ?_ fun x hs => ⟨{ x with state := .ready }, ?_, rfl, rfl⟩) n
    · obtain ⟨x, hs, hx⟩ := (State.slotFaulted_iff (s := s) (n := n)).mp hfaulted
      exact h.current_of_not_ready hs (by rw [hx]; nofun)
    · rw [hs]
      rfl
  · exact h

/-! ### Notices -/

/-- The tags of a MED_FETCH notice are the head of the pending fetch list (R104). -/
theorem State.CacheLaw.fetchTags (h : s.CacheLaw) (n : NodeId) : ∃ rest, (s.nd n).cache.fetches = s.fetchTags n ++ rest := by
  by_cases hsome : (s.nd n).cache.fetches = []
  · exact ⟨[], by rw [State.fetchTags, hsome]; rfl⟩
  · obtain ⟨-, -, -, -, hnodes⟩ := h
    obtain ⟨rest, hfetches, -⟩ := State.fetchTags_says (hnodes n).1 hsome
    exact ⟨rest, hfetches⟩

theorem State.CacheLaw.fetchesSent (h : s.CacheLaw) {tags rest : List Nat} (hf : (s.nd n).cache.fetches = tags ++ rest) :
    (s.fetchesSent n tags).CacheLaw := by
  obtain ⟨st, hst⟩ : ∃ st : EntryState, st = .filling (some (s.clock.ticks + (s.set n).tuning.fetchTimeout)) := ⟨_, rfl⟩
  have hentries : (s.fetchesSent n tags).entries = s.entries.map (Entry.restateAll tags st) := by
    rw [State.fetchesSent_eq, hst]
    rfl
  exact (h.table.fetchesSent hf).cacheLaw (h.fit.of_changes (s.fetchesSent_changes n tags).1
    (State.caches_of_map hentries (Entry.restateAll_node _ _) (Entry.restateAll_lba _ _)))

theorem State.CacheLaw.writeOutHead (h : s.CacheLaw) {rest : List Nat} (hq : (s.nd n).cache.queue = p :: rest) :
    (s.writeOutHead n p).CacheLaw :=
  (h.table.writeOutHead hq).cacheLaw (h.fit.restate (s.writeOutHead_changes n p).1 rfl)

theorem State.CacheLaw.buildBulk (h : s.CacheLaw) (n : NodeId) (b : Bulk) : (s.buildBulk n b).CacheLaw := by
  have hsent (k : Byte) (p : List Byte) : (s.sendNotice n k p).CacheLaw := h.of_changes (s.sendNotice_changes n n k p).1
  cases b with
  | fetch =>
    obtain ⟨rest, hfetches⟩ := h.fetchTags n
    exact (hsent _ _).fetchesSent (rest := rest) hfetches
  | data => exact (hsent _ _).of_changes (State.mapHist_changes_all _ n _).1
  | writeOut =>
    show (s.buildWriteOut n).CacheLaw
    unfold State.buildWriteOut
    split
    · exact h
    · next p rest hq => exact (hsent _ _).writeOutHead (rest := rest) hq

end

end Sys2Proof.Machine
end


section
/-! PROOFS. The laws of the Media Cache where entries receive pages: the blocks of READs and WRITEs, and the zero table (O19). -/

namespace Sys2Proof.Machine

set_option Elab.async false

section
variable {s t : State} {n m : NodeId} {e : Entry} {p q lba : Nat} {x : Medium} {l : List Range} {r : Range} {ps : List Part} {K : Nat → Prop}
  {a : Media} {c : Command} {b : BlockPlace} {rest : List BlockPlace} {bytes : List Byte}

/-! ### The zero table without a written block (R91) -/

theorem keepLonger_subset (k : List Range) : keepLonger k ⊆ k := by
  unfold keepLonger
  split
  · split <;> simp
  · exact List.Subset.refl _

theorem Range.kept_subset (r : Range) (k lba : Nat) : r.kept k lba ⊆ r.remnants lba := by
  unfold Range.kept
  split
  · exact List.Subset.refl _
  · exact keepLonger_subset _

/-- What the table covers after a block was removed, it covered before, and it was not that block. -/
theorem inRanges_of_removeBlock (h : inRanges (removeBlock l lba) q = true) : inRanges l q = true ∧ q ≠ lba := by
  rw [removeBlock_eq, inRanges, List.any_flatMap, List.any_eq_true] at h
  obtain ⟨r, hr, hcovers⟩ := h
  have hin (hc : r.covers q = true) : inRanges l q = true := List.any_eq_true.mpr ⟨r, hr, hc⟩
  by_cases hlba : r.covers lba = true
  · rw [if_pos hlba, List.any_eq_true] at hcovers
    obtain ⟨k, hk, hkq⟩ := hcovers
    obtain ⟨hc, hne⟩ := (Range.remnants_cover hlba q).mp (List.any_eq_true.mpr ⟨k, r.kept_subset _ _ hk, hkq⟩)
    exact ⟨hin hc, hne⟩
  · rw [if_neg hlba, List.any_cons, List.any_nil, Bool.or_false] at hcovers
    exact ⟨hin hcovers, fun heq => hlba (heq ▸ hcovers)⟩

/-! ### Pages for rings -/

theorem State.CacheLaw.getPage (h : s.CacheLaw) (hg : s.getPage = some (p, t)) : t.CacheLaw := by
  obtain ⟨htable, hsub⟩ := h.table.getPage hg
  exact htable.cacheLaw (h.fit.of_changes (State.getPage_changes .n0 hg).1 (State.caches_of_sublist hsub))

theorem State.CacheLaw.growRing (h : s.CacheLaw) (n : NodeId) : (s.growRing n).CacheLaw := by
  refine times_keeps (P := State.CacheLaw) (fun u hu => ?_) _ h
  unfold State.growOne
  split
  · exact hu
  · next p v hpage => exact (hu.getPage hpage).of_changes (State.mapHist_changes_all _ n _).1

theorem State.CacheLaw.setPool (h : s.CacheLaw) (p : List Byte) : (s.setPool p).state.CacheLaw := by
  rw [State.setPool_state]
  refine ite_keeps (P := State.CacheLaw) (fun _ => ?_) (fun _ => h)
  exact foldl_keeps (P := State.CacheLaw) (fun _ n hu => hu.growRing n) _
    (foldl_keeps (P := State.CacheLaw) (fun u n hu => hu.of_changes (u.shedRing_changes n).1) _ (h.of_changes (s.setQuotas_changes _)))

theorem State.CacheLaw.storeByte (h : s.CacheLaw) (n : NodeId) (b : Byte) (f p : Bool) : (s.storeByte n b f p).CacheLaw := by
  have hrecycle : (s.recycle n).CacheLaw := h.of_changes (s.recycle_changes n).1
  have hroom : (s.makeRoom n).CacheLaw := by
    unfold State.makeRoom
    refine ite_keeps (P := State.CacheLaw) (fun _ => ite_keeps (P := State.CacheLaw) (fun _ => ?_) (fun _ => hrecycle)) (fun _ => h)
    split
    · next p t hpage => exact (h.getPage hpage).of_changes (State.mapHist_changes_all _ n _).1
    · exact hrecycle
  obtain ⟨u, hstages, heq⟩ := s.storeByte_stages n b f p
  rw [heq]
  exact (hroom.of_changes hstages.1).of_changes (State.mapHist_changes_all _ n _).1

/-! ### New FILLING entries -/

/-- The laws of the pages and those of the Media Cache. -/
structure State.Sound (s : State) : Prop where
  hand : s.InHand []
  cache : s.CacheLaw

theorem State.caches_insert (h : t.entries = insertEntry e s.entries) (m : NodeId) (l : Nat) (hl : t.Caches m l) :
    s.Caches m l ∨ (m = e.node ∧ l = e.lba) := by
  obtain ⟨f, hf, hn, rfl⟩ := hl
  rw [h] at hf
  rcases List.mem_cons.mp ((insertEntry_perm e s.entries).mem_iff.mp hf) with rfl | hf
  · exact .inr ⟨hn.symm, rfl⟩
  · exact .inl ⟨f, hf, hn, rfl⟩

theorem State.CacheLaw.newFilling (h : s.CacheLaw) (hp : p ∉ s.entryPages) (hblock : s.entryFor n lba = none)
    (hcap : s.fillingCount n < Config.fillingCap) (hslot : ∃ x, s.slot n = some x ∧ lba < x.capacity ∧ inRanges x.zero lba = false)
    (hwant : ∀ c, (s.nd n).media.current = some c → ∀ b ∈ c.list, b.status = .wanting → b.lba ≠ lba) : (s.newFilling n lba p).CacheLaw := by
  have hkeys := State.caches_insert (s := s) (t := s.newFilling n lba p) (e := ⟨p, n, lba, .filling none⟩) rfl
  refine (h.table.newFilling hp hblock hcap).cacheLaw ?_
  rw [State.newFilling_eq_withView]
  refine h.fit.withView ((h.fit n).grow (fun l hl => ?_) hslot hwant) fun m hm l hl => ?_
  · exact (hkeys n l hl).imp_right And.right
  · exact (hkeys m l hl).resolve_right fun hc => hm hc.1

theorem State.entryFor_none_of_sublist (h : t.entries.Sublist s.entries) (hnone : s.entryFor n lba = none) : t.entryFor n lba = none :=
  State.entryFor_eq_none_iff.mpr fun e he => State.entryFor_eq_none_iff.mp hnone e (h.subset he)

/-- The request that a block makes: its place waits, and then the entry is created. -/
theorem State.newFilling_mapCommand (s : State) (n : NodeId) (lba p : Nat) (f : Command → Command) :
    (s.newFilling n lba p).mapCommand n f = (s.mapCommand n f).newFilling n lba p := by
  simp only [State.newFilling_eq_withView, State.mapCommand_eq_withView, State.view_withView, State.withView_withView, State.withView_nd]
  rfl

theorem Command.Fits.lt_capacity (h : c.Fits x K) (hb : b ∈ c.list) : b.lba < x.capacity := by
  have hmem : b.lba ∈ List.range' (c.lba + c.finished) c.list.length := h.order ▸ List.mem_map_of_mem hb
  have hlt := (List.mem_range'_1.mp hmem).2
  have := h.count
  have := h.capacity
  omega

theorem State.fillingCount_le_of_sublist (h : t.entries.Sublist s.entries) (n : NodeId) : t.fillingCount n ≤ s.fillingCount n :=
  h.countP_le

theorem State.Sound.serveRequest (h : s.Sound) (hs : s.serveRequest n = some t) : t.Sound := by
  refine ⟨h.hand.serveRequest hs, ?_⟩
  rcases s.serveRequest_cases n with hnone | ⟨c, lba, p, u, hc, hwant, hcap, hpage, hsome⟩
  · rw [hnone] at hs
    cases hs
  · rw [hsome] at hs
    obtain rfl := Option.some.inj hs
    obtain ⟨-, b, hb, rfl, hst⟩ := Command.wanting_eq_some hwant
    obtain ⟨x, hslot, -, hfit⟩ := (h.cache.fit n).command c hc
    obtain ⟨hnone, hzero⟩ := hfit.wanting b hb hst
    have hsub := (h.cache.table.getPage hpage).2
    have hchanges := (State.getPage_changes n hpage).1
    have hcurrent : (u.nd n).media.current = some c := (hchanges .current (by simp) n).trans hc
    have hslot' : (u.nd n).media.slot = some x := (hchanges .slot (by simp) n).trans hslot
    have hmarked := (h.cache.getPage hpage).mark n b.lba (st := .waiting) (by nofun)
    obtain ⟨v, hv⟩ : ∃ v, v = u.mapCommand n (fun c => c.mark b.lba .waiting) := ⟨_, rfl⟩
    have hnd : (v.nd n).media = { (u.nd n).media with current := some (c.mark b.lba .waiting) } := by
      rw [hv, State.mapCommand, State.mapMedia, State.nd_setNd_same, hcurrent]
      rfl
    have hentries : v.entries = u.entries := by rw [hv]; rfl
    rw [State.newFilling_mapCommand]
    rw [← hv] at hmarked ⊢
    refine hmarked.newFilling ?_ (State.entryFor_none_of_sublist (hentries ▸ hsub) ?_)
      ((State.fillingCount_le_of_sublist (hentries ▸ hsub) n).trans_lt hcap) ⟨x, ?_, hfit.lt_capacity hb, hzero⟩ fun d hd b' hb' hst' heq => ?_
    · rw [State.entryPages, hentries]
      exact ((h.hand.getPage hpage).not_mem (List.mem_singleton_self p)).2.1
    · exact State.entryFor_eq_none_iff.mpr fun e he hkey => hnone ⟨e, he, hkey⟩
    · rw [State.slot, hnd]
      exact hslot'
    · rw [hnd] at hd
      obtain rfl := Option.some.inj hd
      rw [Command.mark_list] at hb'
      obtain ⟨y, -, rfl⟩ := List.mem_map.mp hb'
      by_cases hy : y.lba = b.lba
      · rw [if_pos hy] at hst'
        cases hst'
      · rw [if_neg hy] at heq
        exact hy heq

theorem State.Sound.serveRequests (h : s.Sound) (n : NodeId) (k : Nat) : (State.serveRequests k n s).Sound := by
  induction k generalizing s with
  | zero => exact h
  | succ k ih =>
    unfold State.serveRequests
    split
    · exact h
    · next t hs => exact ih (h.serveRequest hs)

theorem State.Sound.mapMedia (h : s.Sound) {f : Media → Media} (hf : (s.nd n).media.Fits (s.Caches n) → (f (s.nd n).media).Fits (s.Caches n)) :
    (s.mapMedia n f).Sound :=
  ⟨h.hand.changed (s.mapMedia_changes n f [.slot, .current, .media]).1, h.cache.mapMedia hf⟩

theorem State.lookUp_wanting (hs : s.slot n = some x) (hw : s.lookUp n lba = .wanting) : ¬s.Caches n lba ∧ inRanges x.zero lba = false := by
  rw [State.lookUp_eq hs] at hw
  split at hw
  · cases hw
  · next hzero =>
    split at hw
    · next hnone => exact ⟨fun ⟨e, he, hkey⟩ => State.entryFor_eq_none_iff.mp hnone e he hkey, by simpa using hzero⟩
    · split at hw
      · cases hw
      · cases hw

theorem State.CacheLaw.joinBlocks (h : s.CacheLaw) (n : NodeId) : (s.joinBlocks n).CacheLaw := by
  cases hc : (s.nd n).media.current with
  | none =>
    refine h.mapMedia fun hfit => hfit.withCommand rfl fun c hc' => ?_
    rw [hc] at hc'
    cases hc'
  | some c =>
    rw [State.joinBlocks_eq hc, ← State.mapMedia_eq_withView (fun m => { m with current := some (c.joined (s.lookUp n)) })]
    refine h.mapMedia fun hfit => hfit.withCommand rfl fun c' hc' => ⟨c, hc, fun x hs hfits => ?_⟩
    rw [← Option.some.inj hc']
    exact hfits.joined fun _ l hl => State.lookUp_wanting hs hl

theorem State.Sound.fillList (h : s.Sound) (n : NodeId) : (s.fillList n).Sound :=
  State.Sound.serveRequests ⟨h.hand.changed (s.joinBlocks_changes n).1, h.cache.joinBlocks n⟩ n _

/-! ### READ -/

theorem State.Sound.readAhead (h : s.Sound) (hcurrent : (s.nd n).media.current = none) (k lba : Nat) : (State.readAhead k n lba s).Sound := by
  induction k generalizing s lba with
  | zero => exact h
  | succ k ih =>
    unfold State.readAhead
    split
    · exact h
    · next x hslot =>
      split
      · exact h
      · next hlt =>
        split
        · exact ih h hcurrent _
        · next hzero =>
          split
          · exact ih h hcurrent _
          · next hnone =>
            split
            · exact h
            · next hcap =>
              split
              · exact h
              · next p t htake =>
                have hhand := h.hand.takeFree htake
                have hchanges := (State.takeFree_changes n htake).1
                have hentries := (h.cache.table.takeFree htake).2
                have hsub : t.entries.Sublist s.entries := by simp [hentries]
                have ht : t.CacheLaw := h.cache.of_changes hchanges
                have hcurrent' : (t.nd n).media.current = none := (hchanges .current (by simp) n).trans hcurrent
                have hfilled : (t.newFilling n lba p).CacheLaw := by
                  refine ht.newFilling (hhand.not_mem (List.mem_singleton_self p)).2.1
                    (State.entryFor_none_of_sublist hsub (by simpa using hnone))
                    ((State.fillingCount_le_of_sublist hsub n).trans_lt (Nat.not_le.mp hcap))
                    ⟨x, (hchanges .slot (by simp) n).trans hslot, Nat.not_le.mp hlt, by simpa using hzero⟩ fun c hc => ?_
                  rw [hcurrent'] at hc
                  cases hc
                exact ih ⟨hhand.newFilling n lba, hfilled⟩
                  (((t.newFilling_changes n lba p).1 .current (by simp) n).trans hcurrent') _

theorem State.Sound.endRead (h : s.Sound) (n : NodeId) (c : Command) (d : PortData) : (s.endRead n c d).Sound := by
  have hended : (s.endCommand n .good d).Sound := ⟨h.hand.changed (s.endCommand_changes n _ _).1, h.cache.endCommand n _ _⟩
  have hcurrent : ((s.endCommand n .good d).nd n).media.current = none := by
    rw [State.endCommand_eq_withView, State.withView_nd]
    rfl
  have hlast {u : State} (hu : u.Sound) (o : Option Nat) : (u.mapMedia n (fun m => { m with continuation := o })).Sound :=
    hu.mapMedia fun hfit => hfit.mono rfl rfl fun _ => id
  unfold State.endRead
  dsimp only
  split
  · exact hlast (hended.readAhead hcurrent _ _) _
  · exact hlast hended _

theorem State.Sound.delivered (h : s.Sound) (hc : (s.nd n).media.current = some c) (hl : c.list = b :: rest) (bytes : List Byte) :
    (s.delivered n c bytes).Sound := by
  have hadvanced {f : Media → Media} (hslot : ∀ m, (f m).slot = m.slot) (hcurrent : ∀ m, (f m).current = some c.advanced) :
      (s.mapMedia n f).Sound := h.mapMedia fun hfit => hfit.withCommand (hslot _) fun c' hc' => by
    rw [hcurrent] at hc'
    obtain rfl := Option.some.inj hc'
    exact ⟨c, hc, fun x _ hfits => hfits.advanced hl⟩
  unfold State.delivered
  refine ite_keeps (P := State.Sound) (fun _ => State.Sound.endRead ?_ n _ _) fun _ => State.Sound.fillList ?_ n
  · exact hadvanced (fun _ => rfl) fun _ => rfl
  · exact hadvanced (fun _ => rfl) fun _ => rfl

theorem State.Sound.deliverFront (h : s.Sound) (hc : (s.nd n).media.current = some c) (hl : c.list = b :: rest) :
    (s.deliverFront n c b).Sound := by
  have hmark (st : BlockStatus) (hst : st = .wanting → ∀ x, s.slot n = some x → ¬s.Caches n b.lba ∧ inRanges x.zero b.lba = false) :
      (s.mapCommand n (fun c => c.mark b.lba st)).Sound :=
    ⟨h.hand.changed (s.mapCommand_changes n _).1, h.cache.mapCommand n fun _ x _ hs hfit => hfit.mark fun hw => hst hw x hs⟩
  unfold State.deliverFront
  split
  · exact h.delivered hc hl _
  · next hzero =>
    split
    · next hnone =>
      refine (hmark .wanting fun _ x hs => ⟨fun ⟨e, he, hkey⟩ => State.entryFor_eq_none_iff.mp hnone e he hkey, ?_⟩).serveRequests n _
      rw [hs] at hzero
      simpa using hzero
    · next e he =>
      have hmem := ((State.entryFor_eq_some_iff h.cache.2.1).mp he).1
      split
      · exact hmark .waiting (by nofun)
      · next hvalid =>
        have hused : (s.useEntry e.page).Sound := ⟨h.hand.useEntry (State.page_mem_of_entryFor he),
          (h.cache.table.useEntry hmem hvalid).cacheLaw (h.cache.fit.of_changes (s.useEntry_changes n e.page).1 (State.caches_of_eq rfl))⟩
        exact hused.delivered (n := n) hc hl _
      · exact h.delivered hc hl _
      · exact h.delivered hc hl _

/-! ### WRITE -/

theorem Command.Fits.afterBlock (h : c.Fits x K) (hl : c.list = b :: rest) (w : WritePolicy) : (c.afterBlock w).Fits x K := by
  have hadvanced := h.advanced hl
  exact Command.Fits.joined (c := { c.advanced with unstored := if w = .acked then c.unstored + 1 else c.unstored })
    ⟨hadvanced.capacity, hadvanced.places, hadvanced.count, hadvanced.order, hadvanced.wanting⟩ (by nofun)

/-- The block that has been accepted is not one that still wants an entry. -/
theorem Command.Fits.afterBlock_ne (h : c.Fits x K) (hl : c.list = b :: rest) (hw : c.write = true) (w : WritePolicy) :
    ∀ b' ∈ (c.afterBlock w).list, b'.status = .wanting → b'.lba ≠ b.lba := by
  intro b' hb' hst
  rcases List.mem_append.mp hb' with hb' | hb'
  · exact h.advanced_ne hl b' hb'
  · obtain ⟨l, -, rfl⟩ := List.mem_map.mp hb'
    have hwrite : c.advanced.write = true := hw
    simp [hwrite] at hst

/-- The media after the front block of a WRITE has been accepted fit the entries, its own among them (R86, R91, R96). -/
theorem Media.Fits.took {J : Nat → Prop} (h : a.Fits K) (hs : a.slot = some x) (hc : a.current = some c) (hw : c.write = true)
    (hl : c.list = b :: rest) (hJ : ∀ l, J l → K l ∨ l = b.lba) : ((a.rewritten b.lba).took x.policy c).Fits J := by
  have hrewritten : (a.rewritten b.lba).Fits K := h.mapSlot (fun _ => rfl) (fun _ => rfl) fun x l hin => (inRanges_of_removeBlock hin).1
  obtain ⟨y, hy, -, hfit⟩ := h.command c hc
  have hslot : (a.rewritten b.lba).slot = some { x with zero := removeBlock x.zero b.lba } := by rw [Media.rewritten, hs]; rfl
  obtain ⟨z, hz, -, hfit'⟩ := hrewritten.command c hc
  have hlba : b.lba < z.capacity := hfit'.lt_capacity (hl ▸ List.mem_cons_self ..)
  obtain rfl := Option.some.inj (hslot.symm.trans hz)
  have htook : ((a.rewritten b.lba).took x.policy c).Fits K := by
    unfold Media.took
    split
    · exact hrewritten.idle rfl fun x hs => ⟨x, hs, rfl, rfl⟩
    · refine hrewritten.withCommand rfl fun c' hc' => ⟨c, hc, fun x _ hfits => ?_⟩
      obtain rfl := Option.some.inj hc'
      exact hfits.afterBlock hl _
  refine htook.grow hJ ⟨_, (Media.took_slot _ _ _).trans hslot, hlba, ?_⟩ fun c' hc' b' hb' hst => ?_
  · rw [← Bool.not_eq_true]
    exact fun hin => (inRanges_of_removeBlock hin).2 rfl
  · unfold Media.took at hc'
    split at hc'
    · cases hc'
    · obtain rfl := Option.some.inj hc'
      exact hfit.afterBlock_ne hl hw _ b' hb' hst

section
variable (hc : (s.nd n).media.current = some c) (hw : c.write = true) (hl : c.list = b :: rest)
include hc hw hl

theorem State.Sound.acceptNew (h : s.Sound) (hblock : s.entryFor n b.lba = none) (bytes : List Byte) : (s.acceptNew n b.lba bytes).Sound := by
  obtain ⟨x, hs, -, hfit⟩ := (h.cache.fit n).command c hc
  refine ⟨h.hand.acceptNew n _ _, State.Table.cacheLaw ?_ ?_⟩
  · unfold State.acceptNew
    split
    · exact h.cache.table
    · next hcap =>
      have hcap : s.unstoredCount n < Config.dirtyCap := by simpa [State.atDirtyCap] using hcap
      split
      · exact h.cache.table
      · next p t hpage =>
        obtain ⟨htable, hsub⟩ := h.cache.table.getPage hpage
        have hplaced := htable.of_changes (t.placeBlock_changes n b.lba p bytes).1
        refine State.Table.of_changes (hplaced.newDirty ?_ (State.entryFor_none_of_sublist hsub hblock) ?_) (State.accepted_changes _ n).1
        · exact ((h.hand.getPage hpage).not_mem (List.mem_singleton_self p)).2.1
        · exact (hsub.countP_le (p := fun e => e.node == n && e.state.isUnstored)).trans_lt hcap
  · by_cases hwaits : Config.dirtyCap ≤ s.unstoredCount n ∨ s.supply = []
    · rw [State.acceptNew_waits hwaits]
      exact h.cache.fit
    · obtain ⟨hcap, hsome⟩ := not_or.mp hwaits
      obtain ⟨p, ps, hps⟩ := List.exists_cons_of_ne_nil hsome
      rw [State.acceptNew_eq (State.pageLaw_iff.mpr h.hand) hc hw hs (Nat.not_le.mp hcap) hps]
      have hkeys (m : NodeId) (l : Nat) (hl : ∃ e ∈ insertEntry ⟨p, n, b.lba, .dirty⟩ ((s.view n).supplied p).entries, e.node = m ∧ e.lba = l) :
          s.Caches m l ∨ (m = n ∧ l = b.lba) := by
        obtain ⟨e, he, hn, rfl⟩ := hl
        rcases List.mem_cons.mp ((insertEntry_perm _ _).mem_iff.mp he) with rfl | he
        · exact .inr ⟨hn.symm, rfl⟩
        · exact .inl ⟨e, (List.mem_filter.mp he).1, hn, rfl⟩
      have hview : (s.withView n { ((s.view n).supplied p).newDirty n b.lba p with
          media := ((s.nd n).media.rewritten b.lba).took x.policy c }).Fit :=
        h.cache.fit.withView ((h.cache.fit n).took hs hc hw hl fun l hl' => (hkeys n l hl').imp_right And.right)
          fun m hm l hl' => (hkeys m l hl').resolve_right fun heq => hm heq.1
      exact hview

theorem State.CacheLaw.acceptFront (h : s.CacheLaw) {e : Entry} (hentry : s.entryFor n b.lba = some e) (bytes : List Byte) :
    (s.acceptFront n b.lba bytes).CacheLaw := by
  obtain ⟨x, hs, -, hfit⟩ := (h.fit n).command c hc
  obtain ⟨he, hn, hlba⟩ := (State.entryFor_eq_some_iff h.2.1).mp hentry
  have hplaced := h.table.of_changes (s.placeBlock_changes n b.lba e.page bytes).1
  have hdone {u : State} (hu : u.Table) : (u.accepted n).Table := hu.of_changes (u.accepted_changes n).1
  refine State.Table.cacheLaw ?_ ?_
  · have hdirty (hst : e.state.isDirty = false) (hflush : e.state.isFlushing = false) :
        (if s.atDirtyCap n then s else ((s.placeBlock n b.lba e.page bytes).makeDirty n e.page).accepted n).Table := by
      split
      · exact h.table
      · next hcap =>
        have hcap : s.unstoredCount n < Config.dirtyCap := by simpa [State.atDirtyCap] using hcap
        exact hdone (hplaced.makeDirty he hn hst (fun hf => by rw [hflush] at hf; cases hf) fun _ => hcap)
    unfold State.acceptFront
    rw [hentry]
    dsimp only
    cases hst : e.state with
    | dirty => exact hdone hplaced
    | flushing q r d => exact hdone (hplaced.rewrite he hst)
    | valid | filling => exact hdirty (by rw [hst]; rfl) (by rw [hst]; rfl)
  · by_cases hwaits : (e.state = .valid ∨ e.state.isFilling = true) ∧ Config.dirtyCap ≤ s.unstoredCount n
    · rw [State.acceptFront_waits hentry hwaits.1 hwaits.2]
      exact h.fit
    · rw [State.acceptFront_found h hc hw hs he hn hlba fun hst => Nat.not_le.mp fun hcap => hwaits ⟨hst, hcap⟩]
      have hkeys (m : NodeId) (l : Nat) (hl' : ∃ f ∈ ((s.view n).overwritten e).entries, f.node = m ∧ f.lba = l) : s.Caches m l := by
        obtain ⟨f, hf, hfn, hfl⟩ := hl'
        obtain ⟨g, hg, rfl⟩ := List.mem_map.mp (show f ∈ s.entries.map (Entry.restate e.page e.state.overwritten) from hf)
        exact ⟨g, hg, (g.restate_node _ _ ▸ hfn), (g.restate_lba _ _ ▸ hfl)⟩
      have hview : (s.withView n { (s.view n).overwritten e with
          media := ((s.nd n).media.rewritten b.lba).took x.policy c }).Fit :=
        h.fit.withView ((h.fit n).took hs hc hw hl fun l hl' => .inl (hkeys n l hl')) fun m _ l hl' => hkeys m l hl'
      exact hview

end

theorem State.buffered_cases (hb : s.buffered n = some (lba, bytes)) : ∃ c b rest, (s.nd n).media.current = some c ∧ c.write = true ∧
    c.list = b :: rest ∧ b.lba = lba := by
  unfold State.buffered at hb
  split at hb
  · next c _ hc _ =>
    split at hb
    · next hw =>
      obtain ⟨b, hhead, heq⟩ := Option.map_eq_some_iff.mp hb
      obtain ⟨rest, hl⟩ := List.head?_eq_some_iff.mp hhead
      exact ⟨c, b, rest, hc, hw, hl, (Prod.mk.inj heq).1⟩
    · cases hb
  · cases hb

theorem State.Sound.acceptFront (h : s.Sound) (hb : s.buffered n = some (lba, bytes)) : (s.acceptFront n lba bytes).Sound := by
  obtain ⟨c, b, rest, hc, hw, hl, rfl⟩ := State.buffered_cases hb
  cases hentry : s.entryFor n b.lba with
  | none =>
    have hnew : s.acceptFront n b.lba bytes = s.acceptNew n b.lba bytes := by rw [State.acceptFront, hentry]
    rw [hnew]
    exact State.Sound.acceptNew hc hw hl h hentry bytes
  | some e => exact ⟨h.hand.acceptFront n _ _, State.CacheLaw.acceptFront hc hw hl h.cache hentry bytes⟩

theorem State.Sound.requestEntry (h : s.Sound) (n : NodeId) : (s.requestEntry n).Sound := by
  unfold State.requestEntry
  split
  · next hserved => exact h.serveRequest hserved
  · split
    · exact h
    · next lba bytes hb =>
      split
      · next hnone =>
        obtain ⟨c, b, rest, hc, hw, hl, rfl⟩ := State.buffered_cases hb
        exact State.Sound.acceptNew hc hw hl h (by simpa using hnone) _
      · exact h

/-! ### The zero table -/

theorem Command.Fits.retabled {new : List Range} {look : Nat → BlockStatus} {J : Nat → Prop} (h : c.Fits x K)
    (hJ : ∀ l, J l → K l) (hlook : ∀ l, look l = .wanting → ¬J l ∧ inRanges new l = false) :
    (c.retabled x.zero new look).Fits { x with zero := new } J := by
  refine h.relisted (g := fun p => if inRanges new p.lba then { p with status := .ready }
    else if inRanges x.zero p.lba ∧ c.write = false then { p with status := look p.lba } else p) (fun b => ?_) le_rfl fun b hb hst => ?_
  · split
    · rfl
    · split <;> rfl
  · split at hst
    · cases hst
    · next hnew =>
      split at hst
      · exact hlook b.lba hst
      · exact ⟨fun hl => (h.wanting b hb hst).1 (hJ _ hl), by simpa using hnew⟩

theorem Entry.inside_iff {f : EntryState → Bool} : e.inside n l f = true ↔ e.node = n ∧ f e.state = true ∧ inRanges l e.lba = true := by
  simp [Entry.inside, and_assoc]

theorem EntryState.isClean_or_isUnstored (st : EntryState) : st.isClean = true ∨ st.isUnstored = true := by
  cases st with
  | filling | valid => exact .inl rfl
  | dirty | flushing => exact .inr rfl

theorem State.Sound.setZero (h : s.Sound) (hs : s.slot n = some x) (hunstored : ∀ e ∈ s.entries, e.inside n l EntryState.isUnstored = false) :
    (s.setZero n x.zero l).Sound := by
  obtain ⟨r, hr⟩ : ∃ r, r = s.mapSlot n (fun m => { m with zero := l }) := ⟨_, rfl⟩
  have hclean : ∀ e : Entry, e.inside n l EntryState.isClean = true → e.node = n ∧ e.state.isFlushing = false := fun e he => by
    obtain ⟨hn, hst, -⟩ := Entry.inside_iff.mp he
    refine ⟨hn, ?_⟩
    cases hstate : e.state <;> simp_all [EntryState.isClean, EntryState.isValid, EntryState.isFilling, EntryState.isFlushing]
  have hrtable : r.Table := hr ▸ h.cache.table.of_changes (s.mapSlot_changes n _).1
  obtain ⟨t, ht⟩ : ∃ t, t = r.freeWhere (Entry.inside n l EntryState.isClean) := ⟨_, rfl⟩
  have hentries : t.entries = s.entries.filter (fun e => !e.inside n l EntryState.isClean) := by
    rw [ht, State.freeWhere_entries hrtable fun e he => (hclean e he).1, hr]
    rfl
  have hfreed : r.ChangesAt n _ t := ht ▸ r.freeWhere_changesAt n fun e he => (hclean e he).1
  have hslot : t.slot n = some { x with zero := l } := by
    have hmapped : r.slot n = (s.slot n).map (fun m => { m with zero := l }) := by
      rw [hr, State.slot, State.mapSlot, State.mapMedia, State.nd_setNd_same]
      rfl
    rw [State.slot, hfreed.1 .slot (by simp) n]
    exact hmapped.trans (by rw [hs]; rfl)
  have hcurrent : (t.nd n).media.current = (s.nd n).media.current := by
    rw [hfreed.1 .current (by simp) n, hr]
    exact (s.mapSlot_changes n _).1 .current (by simp) n
  have hkept (m : NodeId) (k : Nat) : t.Caches m k → s.Caches m k := State.caches_of_sublist (hentries ▸ List.filter_sublist) m k
  obtain ⟨u, hu⟩ : ∃ u, u = t.mapCommand n (Command.retabled x.zero l (t.lookUp n)) := ⟨_, rfl⟩
  have hund : (u.nd n).media = { (t.nd n).media with current := (t.nd n).media.current.map (Command.retabled x.zero l (t.lookUp n)) } := by
    rw [hu, State.mapCommand, State.mapMedia, State.nd_setNd_same]
  have huentries : u.entries = t.entries := by rw [hu]; rfl
  have hfit : (u.nd n).media.Fits (t.Caches n) := by
    refine ⟨fun k hk => ?_, fun c' hc' => ?_⟩
    · refine ⟨{ x with zero := l }, by rw [hund]; exact hslot, ?_⟩
      obtain ⟨y, hy, hlt, -⟩ := (h.cache.fit n).slot k (hkept n k hk)
      obtain rfl := Option.some.inj (hs.symm.trans hy)
      refine ⟨hlt, ?_⟩
      obtain ⟨e, he, hn, rfl⟩ := hk
      rw [hentries] at he
      obtain ⟨he, hout⟩ := List.mem_filter.mp he
      rw [← Bool.not_eq_true]
      intro hin
      rcases e.state.isClean_or_isUnstored with hst | hst
      · rw [Entry.inside_iff.mpr ⟨hn, hst, hin⟩] at hout
        cases hout
      · have hno := hunstored e he
        rw [Entry.inside_iff.mpr ⟨hn, hst, hin⟩] at hno
        cases hno
    · rw [hund, hcurrent] at hc'
      obtain ⟨c, hc, rfl⟩ := Option.map_eq_some_iff.mp hc'
      obtain ⟨y, hy, hready, hfits⟩ := (h.cache.fit n).command c hc
      obtain rfl := Option.some.inj (hs.symm.trans hy)
      exact ⟨{ x with zero := l }, by rw [hund]; exact hslot, hready, hfits.retabled (hkept n) fun k hk => State.lookUp_wanting hslot hk⟩
  have hchanges : s.ChangesAt n [.slot, .current, .free, .entries, .lru, .cache] u :=
    ((hr ▸ s.mapSlot_changes n _).next hfreed (rs := [.slot, .current, .free, .entries, .lru, .cache])).next (hu ▸ t.mapCommand_changes n _)
  have hsound : u.Sound := by
    refine ⟨?_, State.Table.cacheLaw ?_ (h.cache.fit.of_changesAt hchanges ?_ ?_)⟩
    · exact hu ▸ State.InHand.changed (ht ▸ State.InHand.freeWhere (hr ▸ h.hand.changed (s.mapSlot_changes n _).1) _) (t.mapCommand_changes n _).1
    · exact hu ▸ State.Table.of_changes (ht ▸ hrtable.freeWhere hclean) (t.mapCommand_changes n _).1
    · exact fun m k hk => hkept m k (State.caches_of_eq huentries m k hk)
    · exact hfit.mono rfl rfl (State.caches_of_eq huentries n)
  have hrun : s.setZero n x.zero l = State.serveRequests Config.listPlaces n u := by rw [hu, ht, hr]; rfl
  rw [hrun]
  exact hsound.serveRequests n _

theorem State.Sound.setExtents (h : s.Sound) (n : NodeId) (p : List Byte) : (s.setExtents n p).state.Sound := by
  refine ⟨h.hand.setExtents n p, ?_⟩
  unfold State.setExtents State.takeProtect State.takeZero
  dsimp only
  split
  · exact h.cache
  · split
    · exact h.cache
    · next x hs =>
      split
      · split
        · exact h.cache
        · exact h.cache.mapSlot n (fun _ => rfl) (fun _ => rfl) fun _ _ => id
      · split
        · exact h.cache
        · split
          · exact h.cache
          · next hunstored => exact (h.setZero hs fun e he => by simpa using fun hin => hunstored (List.any_eq_true.mpr ⟨e, he, hin⟩)).cache

/-! ### Commands of the port -/

theorem State.readyMedium_eq_some_iff : s.readyMedium n = some x ↔ s.slot n = some x ∧ x.state = .ready := by
  unfold State.readyMedium
  cases s.slot n with
  | none => simp
  | some y =>
    dsimp only
    simp only [Option.ite_none_right_eq_some, Option.some_inj]
    exact ⟨fun ⟨hready, heq⟩ => ⟨heq, heq ▸ hready⟩, fun ⟨heq, hready⟩ => ⟨heq ▸ hready, heq⟩⟩

/-- A READ or WRITE that fails no check is one of a READY slot, inside its capacity. -/
theorem State.checkCommand_none {w : Bool} {count : Nat} (hcheck : s.checkCommand n w lba count = none) :
    ∃ x, s.slot n = some x ∧ x.state = .ready ∧ lba + count ≤ x.capacity := by
  unfold State.checkCommand at hcheck
  split at hcheck
  · cases hcheck
  · split at hcheck
    · cases hcheck
    · next x hx =>
      obtain ⟨hs, hready⟩ := State.readyMedium_eq_some_iff.mp hx
      split at hcheck
      · cases hcheck
      · split at hcheck
        · cases hcheck
        · next hcap => exact ⟨x, hs, hready, Nat.not_lt.mp hcap⟩

theorem State.Sound.takeCommand (h : s.Sound) (n : NodeId) (w : Bool) (lba count : Nat) : (s.takeCommand n w lba count).Sound := by
  refine ⟨h.hand.takeCommand n w lba count, ?_⟩
  unfold State.takeCommand
  split
  · exact h.cache.tellChanged n
  · exact h.cache.answer n _ _
  · next hcheck =>
    obtain ⟨x, hs, hready, hcap⟩ := State.checkCommand_none hcheck
    refine (State.Sound.fillList (h.mapMedia fun hfit => ⟨hfit.slot, fun c hc => ?_⟩) n).cache
    obtain rfl := Option.some.inj hc
    exact ⟨x, hs, hready, Command.fits_fresh hcap⟩

end

end Sys2Proof.Machine
end


section
/-! PROOFS. The laws of the Media Cache at every step (O19). -/

namespace Sys2Proof.Machine

set_option Elab.async false

section
variable {s t : State} {n : NodeId}

/-- A step that writes neither pages, entries, lists, slots nor commands. -/
theorem State.Sound.changed (h : s.Sound) {ps : List Part} (hc : s.Changes ps t) (hring : Part.ring ∉ ps := by simp)
    (hfree : Part.free ∉ ps := by simp) (hentries : Part.entries ∉ ps := by simp) (hlru : Part.lru ∉ ps := by simp)
    (hcache : Part.cache ∉ ps := by simp) (hslot : Part.slot ∉ ps := by simp) (hcurrent : Part.current ∉ ps := by simp) : t.Sound :=
  ⟨h.hand.changed hc hring hfree hentries hlru, h.cache.of_changes hc hentries hlru hcache hslot hcurrent⟩

theorem State.Sound.drain (h : s.Sound) (n : NodeId) : (s.drain n).Sound := ⟨h.hand.drain n, h.cache.drain n⟩

theorem State.Sound.answer (h : s.Sound) (n : NodeId) (st : NodeStatus) (d : PortData) : (s.answer n st d).Sound :=
  h.changed (s.answer_changes n st d).1

theorem State.Sound.tellChanged (h : s.Sound) (n : NodeId) : (s.tellChanged n).Sound :=
  ⟨h.hand.changed (s.tellChanged_changes n).1, h.cache.tellChanged n⟩

theorem State.Sound.tearDown (h : s.Sound) (n : NodeId) : (s.tearDown n).Sound :=
  ⟨h.hand.changed (s.tearDown_changes n).1, h.cache.tearDown n⟩

theorem State.Sound.answerReady (h : s.Sound) (n : NodeId) : (s.answerReady n).Sound := by
  unfold State.answerReady
  split
  · exact h.answer n _ _
  · exact ite_keeps (P := State.Sound) (fun _ => h.tellChanged n) fun _ => h.answer n _ _

theorem State.Sound.answerEject (h : s.Sound) (n : NodeId) : (s.answerEject n).Sound := by
  unfold State.answerEject
  split
  · exact h.answer n _ _
  · exact ite_keeps (P := State.Sound) (fun _ => (h.drain n).answer n _ _) fun _ => h.answer n _ _

/-! ### Resets -/

/-- A part without entries, whose nodes have neither lists, slots nor commands. -/
theorem State.cacheLaw_empty (hentries : s.entries = []) (hlru : s.lru = [])
    (hnodes : ∀ n, (s.nd n).cache.fetches = [] ∧ (s.nd n).cache.queue = [] ∧ (s.nd n).cache.outstanding = [] ∧ (s.nd n).media.current = none) :
    s.CacheLaw := by
  have hnames (P : Entry → Prop) : Names s.entries P [] := by
    rw [hentries]
    exact ⟨List.nodup_nil, nofun, nofun⟩
  refine State.Table.cacheLaw ⟨?_, ?_, hlru ▸ hnames _, fun n => ?_⟩ fun n => Media.fits_empty (hnodes n).2.2.2 fun l ⟨e, he, _⟩ => ?_
  · rw [State.entryPages, hentries]
    exact List.nodup_nil
  · rw [hentries]
    exact List.nodup_nil
  · obtain ⟨hfetches, hqueue, hout, -⟩ := hnodes n
    refine ⟨hfetches ▸ hnames _, hqueue ▸ hnames _, hout ▸ hnames _, fun i e he _ => ?_, ?_, ?_⟩
    · rw [hentries] at he
      cases he
    · rw [hentries]
      exact Nat.zero_le _
    · rw [hentries]
      exact Nat.zero_le _
  · rw [hentries] at he
    cases he

theorem State.partReset_sound (s : State) (c : ResetCause) (d : Bool) : (s.partReset c d).Sound :=
  ⟨s.partReset_inHand c d, State.cacheLaw_empty rfl rfl fun n => by cases n <;> exact ⟨rfl, rfl, rfl, rfl⟩⟩

theorem State.Sound.growRing (h : s.Sound) (n : NodeId) : (s.growRing n).Sound := ⟨h.hand.growRing n, h.cache.growRing n⟩

theorem State.Sound.startNode (h : s.Sound) (n : NodeId) : (s.startNode n).Sound :=
  debouncePg_keeps (P := State.Sound) (fun hc h => h.changed hc) (fun m _ h => h.drain m)
    (((h.changed (s.startLine_changes n).1).growRing n).changed (State.startLive_changes _ n).1) n

theorem State.Sound.startUp (h : s.Sound) (b : BitVec 2) : (s.startUp b).Sound := by
  obtain ⟨u, hfold, _, hstart⟩ := s.startUp_started b
  rw [hstart, hfold]
  exact (foldl_keeps (P := State.Sound) (fun _ n hu => hu.startNode n) NodeId.all (s := s.settled b) ⟨h.hand, h.cache⟩).changed
    (State.mapLink_changes _ .n0 _).1

theorem State.Sound.frameSent (h : s.Sound) (x : Sending) : (s.frameSent x).Sound := by
  have hlink {u : State} (hu : u.Sound) (f : Link → Link) : (u.mapLink f).Sound := hu.changed (u.mapLink_changes .n0 f).1
  unfold State.frameSent State.replySent State.noticeSent
  dsimp only
  split
  · split
    · exact ite_keeps (P := State.Sound) (fun _ => State.partReset_sound _ _ _) (fun _ => hlink h _)
    · exact hlink (hlink h _) _
  · exact hlink h _

/-! ### Every command -/

theorem State.readyFront_cases {c : Command} {b : BlockPlace} (hf : s.readyFront n = some (c, b)) :
    (s.nd n).media.current = some c ∧ ∃ rest, c.list = b :: rest := by
  unfold State.readyFront at hf
  split at hf
  · cases hf
  · next d hd =>
    split at hf
    · cases hf
    · next p rest hl =>
      obtain ⟨-, heq⟩ := Option.ite_none_right_eq_some.mp hf
      obtain ⟨rfl, rfl⟩ := Prod.mk.inj (Option.some.inj heq)
      exact ⟨hd, rest, hl⟩

theorem State.sentFetch_cases {p d : Nat} {e : Entry} (hf : s.sentFetch p = some (e, d)) : e ∈ s.entries ∧ e.state = .filling (some d) := by
  unfold State.sentFetch at hf
  split at hf
  · cases hf
  · next f hfound =>
    split at hf
    · next d' hst =>
      obtain ⟨-, heq⟩ := Option.ite_none_right_eq_some.mp hf
      obtain ⟨rfl, rfl⟩ := Prod.mk.inj (Option.some.inj heq)
      exact ⟨List.mem_of_find?_eq_some hfound, hst⟩
    · cases hf

theorem State.Sound.failFill (h : s.Sound) {e : Entry} (he : e ∈ s.entries) (hst : e.state.isFilling = true) (st : NodeStatus) :
    (s.failFill e st).Sound := ⟨h.hand.failFill (List.mem_map_of_mem he) st, h.cache.failFill he hst st⟩

theorem State.Sound.run (h : s.Sound) (i : Instr) : (s.run i).Sound := by
  have hdrain : ∀ n u, State.Sound u → (State.drain u n).Sound := fun n u hu => hu.drain n
  have hquiet {u v : State} (hc : u.Changes quietParts v) (hu : u.Sound) : v.Sound := hu.changed hc
  have hnode {carry : NodeId → State → Carried} (hcarry : ∀ n u, State.Sound u → (carry n u).state.Sound)
      (kind tag node : Byte) (p : List Byte) (ok : Bool) : (nodeRequest kind tag node p ok carry s).Sound :=
    nodeRequest_keeps (P := State.Sound) (fun hc h => h.changed hc) hcarry h kind tag node p ok
  have htick (k : Nat) : (s.toTick k).Sound := h.changed (s.toTick_changes .n0 k).1
  have hwhen {b : Prop} [Decidable b] {u : State} (hu : u.Sound) : (if b then u else s).Sound :=
    ite_keeps (P := State.Sound) (fun _ => hu) fun _ => h
  cases i
  case poolSet tag node p =>
    exact partRequest_keeps (P := State.Sound) (fun hc h => h.changed hc) (fun s h => ⟨h.hand.setPool p, h.cache.setPool p⟩) h _ _ _ _ _
  case medAttach tag node p => exact hnode (fun n u hu => ⟨hu.hand.changed (u.attach_changes n p).1, hu.cache.attach n p⟩) _ _ _ _ _
  case medDetach tag node p => exact hnode (fun n u hu => ⟨hu.hand.detach n p, hu.cache.detach n p⟩) _ _ _ _ _
  case medFill tag node p => exact hnode (fun n u hu => ⟨hu.hand.takeFill n p, hu.cache.takeFill n p⟩) _ _ _ _ _
  case medFillFail tag node p => exact hnode (fun n u hu => ⟨hu.hand.takeFillFail n p, hu.cache.takeFillFail n p⟩) _ _ _ _ _
  case medStored tag node p => exact hnode (fun n u hu => ⟨hu.hand.takeStored n p, hu.cache.takeStored n p⟩) _ _ _ _ _
  case medExtentsSet tag node p => exact hnode (fun n u hu => hu.setExtents n p) _ _ _ _ _
  case medRecover tag node p => exact hnode (fun n u hu => ⟨hu.hand.recoverMedia n, hu.cache.recoverMedia n⟩) _ _ _ _ _
  case arbiterGrant =>
    exact hwhen (grant_keeps (P := State.Sound) (fun hc h => h.changed hc)
      (fun n b s h _ => ⟨h.hand.buildBulk n b, h.cache.buildBulk n b⟩) h)
  case frameSent => exact State.given_keeps (P := State.Sound) h (fun x _ => h.frameSent x)
  case resetNAsserted | powerOn => exact State.partReset_sound _ _ _
  case startUp b => exact hwhen (h.startUp b)
  case characterReceived n d p b =>
    exact hwhen (receiveCharacter_keeps (P := State.Sound) hquiet hdrain
      (fun n b f p s h => ⟨h.hand.storeByte n b f p, h.cache.storeByte n b f p⟩) h n d p b)
  case vbusAbsent n => exact (h.tearDown n).changed (State.mapMedia_changes _ n _ [.media]).1
  case usbBusReset n => exact hwhen (h.tearDown n)
  case eject n => exact hwhen (h.answerEject n)
  case ready n => exact hwhen (h.answerReady n)
  case read n lba count => exact hwhen (h.takeCommand n _ _ _)
  case write n lba count => exact hwhen (h.takeCommand n _ _ _)
  case newEntryRequest n => exact ite_keeps (P := State.Sound) (fun _ => h) (fun _ => h.requestEntry n)
  case blockAccept n => exact State.given_keeps (P := State.Sound) h (fun x hx => h.acceptFront hx)
  case blockDelivery n =>
    refine State.given_keeps (P := State.Sound) h (fun x hx => ?_)
    obtain ⟨hc, rest, hl⟩ := State.readyFront_cases hx
    exact h.deliverFront hc hl
  case fetchTimeout p =>
    refine State.given_keeps (P := State.Sound) h (fun x hx => ?_)
    obtain ⟨he, hst⟩ := State.sentFetch_cases hx
    exact (htick x.2).failFill he (by rw [hst]; rfl) .timedOut
  case storeTimeout n =>
    exact State.given_keeps (P := State.Sound) h (fun d _ => ⟨(htick d).hand.storeTimesOut n, (htick d).cache.storeTimesOut n⟩)
  case pgSenseChange n b => exact ite_keeps (P := State.Sound) (fun _ => h) (fun _ => senseChange_keeps (P := State.Sound) hquiet hdrain h n b)
  case pgAccepted n => exact State.given_keeps (P := State.Sound) h (fun e _ => acceptPg_keeps (P := State.Sound) hquiet hdrain (htick e) n)
  case pulseEnd n => exact State.given_keeps (P := State.Sound) h (fun a _ => pulseEnds_keeps (P := State.Sound) hquiet hdrain (htick _) n a)
  all_goals exact h.changed (s.run_changes _)

/-- Settles O19: each operation keeps the entries with the lists that name them, and each slot and command with its entries. -/
theorem stepKeepsCacheLaw : Obligations.StepKeepsCacheLaw := by
  intro s t hp hc hst
  exact (step_keeps_of_run (P := State.Sound) (fun hc h => h.changed hc) (fun i _ h => h.run i) ⟨State.pageLaw_iff.mp hp, hc⟩ hst).cache

end

end Sys2Proof.Machine
end
